-- ==== Sys2Proof/Word.lean ====
section
/-!
DEFINITION. The word types of the T9, and the names an instruction is written with: guards, sources, operand
latches, destinations and trigger operands (spec/07_encoding.md R134-R146), and the names the outside world
gives to what it touches in an event.
-/

namespace Sys2Proof

/-- A 64-bit value: a general register slice, a latch value, a result port (R41, R57, R142). -/
abbrev Word := BitVec 64
/-- A byte of memory (R2). -/
abbrev Byte := BitVec 8
/-- A 32-bit cell: a vector lane, an accumulator cell (R44, R47), or one slot of a bundle (R132). -/
abbrev Cell := BitVec 32

/-- A guard: the flag tested and whether the test is inverted (GF and GI of R135, R136). -/
structure Guard where
  flag : BitVec 4
  inv : Bool
  deriving DecidableEq, Repr, Inhabited

/-- The assigned source codes (R141). -/
inductive Src where
  | g (i : BitVec 6) | v (i : BitVec 6) | tl (i : BitVec 5) | fv (i : BitVec 6) | cb (i : BitVec 4)
  | p (i : BitVec 4)
  | cuRes | cuLnk | axRes | vuRes | luRes | xeRes | syRes | fqRx | fqCnt | tfRes
  | pw (i : BitVec 3) | vm (i : BitVec 3)
  | cycle | ctx | unit | lsize | core | die | pkg | csw | depth | prio | lhandle | jobw | wins | wpcnt | part
  | literal | zero
  deriving DecidableEq, Repr, Inhabited

/-- The operand latches (R57), in the order of their codes (R145). -/
inductive Latch where
  | cuA | cuB | axA | vuA | vuB | vuD | vuM
  | mxA | mxB | mxArs | mxBcs | mxSca | mxScb | mxMeta | mxAcc
  | tfA | tfB | tfD | tfF | luA | luD | luB | syA | syB
  deriving DecidableEq, Repr, Inhabited

/-- The destinations that are not triggers (R143). A slice mask goes with a g destination alone (R135), and
hold with a latch alone (R57). -/
inductive Dst where
  | g (i : BitVec 6) (slices : BitVec 4)
  | v (i : BitVec 6) | tl (i : BitVec 5) | p (i : BitVec 4)
  | latch (l : Latch) (hold : Bool)
  | none
  deriving DecidableEq, Repr, Inhabited

/-- What a slot moves onto a trigger: a source, or the nine bits of a short immediate (R135, R137). -/
inductive TSrc where
  | src (s : Src)
  | imm (v : BitVec 9)
  deriving DecidableEq, Repr, Inhabited

/-- The operand of a trigger slot: guard, what is moved, and the rotate bit. -/
structure TOp where
  guard : Option Guard
  src : TSrc
  rot : Bool
  deriving DecidableEq, Repr, Inhabited

/-- What the external debugger reaches in a frozen context (R326). -/
inductive DbgPlace where
  | g (i : BitVec 6) (slice : BitVec 2)
  | latch (l : Latch)
  | flag (i : BitVec 4)
  | port (code : BitVec 4)
  | trapReg (number : BitVec 3)
  | pc
  deriving DecidableEq, Repr, Inhabited

/-- What a reference names (R141, R144). -/
inductive RefKind where
  | v | tl | fv | cb | vm
  deriving DecidableEq, Repr, Inhabited

/-- What work met a data error (R323), on a core that need not be the one that holds the hardware unit: the unit in a context, a
traverse job by its number, a merge for the unit in a context (in a block already written back or not), saved units by their
numbers, a merge for a saved unit, or the concierge's read of the submission entry of the core's partition (R293). -/
inductive ErrAt where
  | unit (core ctx : Nat)
  | job (core num : Nat)
  | merge (core ctx : Nat) (back : Bool)
  | saved (units : List Nat)
  | savedMerge (unit : Nat) (back : Bool)
  | entry
  deriving DecidableEq, Repr, Inhabited

/-- What the debugger does there: reads it, writes a value or, into a latch, a reference, sets the hold bit of a latch or
clears the latch (R326). -/
inductive DbgAct where
  | read
  | write (value : Word) (hold : Bool)
  | refer (kind : RefKind) (index : Nat) (hold : Bool)
  | setHold (hold : Bool)
  | clear
  deriving DecidableEq, Repr, Inhabited

end Sys2Proof
end

