-- ==== Sys2Proof/Machine/Bits.lean ====
section
/-!
DEFINITION. Bit fields, sign extension and byte order (spec/00_scope.md R2, R4, R9), and the list operations the
model is written with.
-/

namespace Sys2Proof.Machine

/-- Bits hi:lo of a number (R2, R9). -/
def field (n hi lo : Nat) : Nat := n / 2 ^ lo % 2 ^ (hi + 1 - lo)

/-- Bits hi:lo of a 64-bit value. -/
def bits (w : Word) (hi lo : Nat) : Nat := field w.toNat hi lo

/-- One bit of a number. -/
def bit (n i : Nat) : Bool := n / 2 ^ i % 2 == 1

/-- A number's low `w` bits, sign-extended to 64 bits. -/
def sext (w n : Nat) : Word := (BitVec.ofNat w n).signExtend 64

/-- The two's-complement value of the low `w` bits of a number. -/
def sint (w n : Nat) : Int := (BitVec.ofNat w n).toInt

/-- A number as a 64-bit value. -/
def word (n : Nat) : Word := BitVec.ofNat 64 n

/-- An integer as a 64-bit value. -/
def wordOfInt (i : Int) : Word := BitVec.ofInt 64 i

/-- 1 for true, 0 for false. -/
def b2n (b : Bool) : Nat := if b then 1 else 0

/-- The low `n` bytes of a number, lowest address first (R2). -/
def bytesLE : Nat → Nat → List Byte
  | 0, _ => []
  | n + 1, v => BitVec.ofNat 8 v :: bytesLE n (v / 256)

/-- The number whose bytes these are, lowest address first (R2). -/
def natLE : List Byte → Nat
  | [] => 0
  | b :: bs => b.toNat + 256 * natLE bs

/-- Cuts a list into pieces of `n` (the last may be shorter); `fuel` bounds the number of pieces. -/
def chunks {α : Type} (n : Nat) : Nat → List α → List (List α)
  | 0, _ => []
  | _ + 1, [] => []
  | fuel + 1, l => l.take n :: chunks n fuel (l.drop n)

/-- Eight-byte words of a byte list. -/
def wordsOfBytes (bs : List Byte) : List Word := (chunks 8 bs.length bs).map fun c => word (natLE c)

/-- The bytes of a list of words. -/
def bytesOfWords (ws : List Word) : List Byte := ws.flatMap fun w => bytesLE 8 w.toNat

/-- The numbers from `start`, `count` of them. -/
def upFrom (start : Nat) : Nat → List Nat
  | 0 => []
  | n + 1 => start :: upFrom (start + 1) n

/-- Replaces element `i` of a list by its image. -/
def modifyAt {α : Type} (f : α → α) : Nat → List α → List α
  | _, [] => []
  | 0, a :: l => f a :: l
  | i + 1, a :: l => a :: modifyAt f i l

/-- The first element that satisfies a test, with its position. -/
def findAt {α : Type} (p : α → Bool) : Nat → List α → Option (Nat × α)
  | _, [] => none
  | i, a :: l => if p a then some (i, a) else findAt p (i + 1) l

/-- The number of 1 bits among the low `n` bits of a number. -/
def popCount (v : Nat) : Nat → Nat
  | 0 => 0
  | n + 1 => b2n (bit v n) + popCount v n

/-- The position of the highest 1 bit below bit `n`, none if there is none. -/
def topBit (v : Nat) : Nat → Option Nat
  | 0 => none
  | n + 1 => if bit v n then some n else topBit v n

/-- The position of the lowest 1 bit at or above bit `from_`, looking at `n` bits. -/
def lowBit (v from_ : Nat) : Nat → Option Nat
  | 0 => none
  | n + 1 => if bit v from_ then some from_ else lowBit v (from_ + 1) n

/-- Rounds up to a multiple. -/
def roundUp (n k : Nat) : Nat := (n + k - 1) / k * k

/-- Quotient rounded up. -/
def ceilDiv (n k : Nat) : Nat := (n + k - 1) / k

end Sys2Proof.Machine
end

