-- ==== Sys2Proof/Machine/Num.lean ====
section
/-!
DEFINITION. Numbers (spec/03_numbers.md): the floating formats to the bit, the one rounding of every result, conversions,
exact sums, the combine format C40, and the special functions of spec/09_ops_vector.md R180-R184.
-/

namespace Sys2Proof.Machine

/-! ## Values and formats (R59, R60, R77) -/

/-- The value of a floating encoding: not a number, an infinity, or sign × m × 2^e exactly. -/
inductive Fl where
  | nan
  | inf (neg : Bool)
  | fin (neg : Bool) (m : Nat) (e : Int)
  deriving DecidableEq, Repr, Inhabited

/-- A floating format: fraction bits, bias, the bit of the sign, the magnitude code of max finite, the code of infinity
where there is one, the code from which a magnitude is a NaN, the canonical NaN, and whether every conversion to it
saturates (R59, R60, R64). -/
structure FloatFmt where
  frac : Nat
  bias : Nat
  signAt : Nat
  maxCode : Nat
  infCode : Option Nat
  nanFrom : Nat
  nanCode : Nat
  always : Bool
  deriving DecidableEq, Repr

/-- f32. -/
def f32 : FloatFmt := ⟨23, 127, 31, 0x7F7FFFFF, some 0x7F800000, 0x7F800001, 0x7FC00000, false⟩
/-- f16. -/
def f16 : FloatFmt := ⟨10, 15, 15, 0x7BFF, some 0x7C00, 0x7C01, 0x7E00, false⟩
/-- bf16. -/
def bf16 : FloatFmt := ⟨7, 127, 15, 0x7F7F, some 0x7F80, 0x7F81, 0x7FC0, false⟩
/-- e4m3. -/
def e4m3 : FloatFmt := ⟨3, 7, 7, 0x7E, none, 0x7F, 0x7F, true⟩
/-- e5m2. -/
def e5m2 : FloatFmt := ⟨2, 15, 7, 0x7B, some 0x7C, 0x7D, 0x7E, true⟩
/-- e2m1: a NaN converts to 0 (R64). -/
def e2m1 : FloatFmt := ⟨1, 1, 3, 7, none, 8, 0, true⟩
/-- The combine format. -/
def c40 : FloatFmt := ⟨29, 511, 39, 0x7FDFFFFFFF, some 0x7FE0000000, 0x7FE0000001, 0x7FF0000000, false⟩

/-- The value of an encoding (R59, R60). -/
def FloatFmt.decode (f : FloatFmt) (code : Nat) : Fl :=
  let neg := bit code f.signAt
  let mag := code % 2 ^ f.signAt
  if f.nanFrom ≤ mag then .nan
  else if f.infCode = some mag then .inf neg
  else
    let ex := mag / 2 ^ f.frac
    let fr := mag % 2 ^ f.frac
    if ex = 0 then .fin neg fr (1 - (f.bias : Int) - f.frac)
    else .fin neg (2 ^ f.frac + fr) (ex - (f.bias : Int) - f.frac)

/-! ## Rounding (R61, R62) -/

/-- num / den to the nearest integer, ties to even; or the next at or above where `up`. -/
def roundDiv (up : Bool) (num den : Nat) : Nat :=
  let q := num / den
  let r := num % den
  if up then (if r = 0 then q else q + 1)
  else if den < 2 * r ∨ (2 * r = den ∧ q % 2 = 1) then q + 1 else q

/-- The magnitude code of num / den × 2^e in a format, as if exponents had no end: max finite plus one is the first
code past the range. -/
def FloatFmt.magnitude (f : FloatFmt) (up : Bool) (num den : Nat) (e : Int) : Nat :=
  if num = 0 then 0
  else
    let l : Int := (num.log2 : Int) - den.log2
    let l' : Int := if den * 2 ^ l.toNat ≤ num * 2 ^ (-l).toNat then l else l - 1
    let k : Int := max (l' + e) (1 - f.bias)
    let q : Int := k - f.frac
    let n := roundDiv up (num * 2 ^ (e - q).toNat) (den * 2 ^ (q - e).toNat)
    n + (k + f.bias - 1).toNat * 2 ^ f.frac

/-- A sign and a magnitude code. -/
def FloatFmt.signed (f : FloatFmt) (neg : Bool) (mag : Nat) : Nat := b2n neg * 2 ^ f.signAt + mag

/-- A magnitude code brought into the range: past max finite infinity, or max finite where the result saturates. -/
def FloatFmt.bound (f : FloatFmt) (sat : Bool) (mag : Nat) : Nat :=
  if f.maxCode < mag then (if sat || f.always then f.maxCode else f.infCode.getD f.maxCode) else mag

/-- The encoding of a value, rounded once (R61, R62, R64). -/
def FloatFmt.encode (f : FloatFmt) (sat : Bool) : Fl → Nat
  | .nan => f.nanCode
  | .inf neg => f.signed neg (if sat || f.always then f.maxCode else f.infCode.getD f.maxCode)
  | .fin neg m e => f.signed neg (f.bound sat (f.magnitude false m 1 e))

/-- The value rounded once to a format. -/
def FloatFmt.round (f : FloatFmt) (v : Fl) : Fl := f.decode (f.encode false v)

/-! ## Exact arithmetic -/

/-- +0. -/
def Fl.zero : Fl := .fin false 0 0
/-- −0, the identity of exact sums. -/
def Fl.negZero : Fl := .fin true 0 0

/-- An integer. -/
def Fl.ofInt (i : Int) : Fl := .fin (i < 0) i.natAbs 0

/-- A signed mantissa. -/
def signedOf (neg : Bool) (m : Nat) : Int := if neg then -(m : Int) else m

/-- The exact sum (R62, R66). -/
def Fl.add : Fl → Fl → Fl
  | .nan, _ | _, .nan => .nan
  | .inf a, .inf b => if a = b then .inf a else .nan
  | .inf a, _ | _, .inf a => .inf a
  | .fin s m e, .fin t n d =>
    let lo := min e d
    let v := signedOf s (m * 2 ^ (e - lo).toNat) + signedOf t (n * 2 ^ (d - lo).toNat)
    .fin (if v = 0 then s && t else v < 0) v.natAbs lo

/-- Changes the sign. -/
def Fl.neg : Fl → Fl
  | .nan => .nan
  | .inf s => .inf !s
  | .fin s m e => .fin (!s) m e

/-- Without its sign. -/
def Fl.abs : Fl → Fl
  | .nan => .nan
  | .inf _ => .inf false
  | .fin _ m e => .fin false m e

/-- The exact product; inf × 0 is NaN (R62, R66). -/
def Fl.mul : Fl → Fl → Fl
  | .nan, _ | _, .nan => .nan
  | .inf a, .inf b => .inf (a != b)
  | .inf a, .fin s m _ | .fin s m _, .inf a => if m = 0 then .nan else .inf (a != s)
  | .fin s m e, .fin t n d => .fin (s != t) (m * n) (e + d)

/-- The exact sum of a list, −0 for none (R32, R66). -/
def sumAll (l : List Fl) : Fl := l.foldl Fl.add .negZero

/-- Multiplication by a power of two. -/
def Fl.scale (v : Fl) (k : Int) : Fl :=
  match v with
  | .fin s m e => .fin s m (e + k)
  | v => v

/-- Whether a value is NaN. -/
def Fl.isNan : Fl → Bool
  | .nan => true
  | _ => false

/-- Whether a value is zero. -/
def Fl.isZero : Fl → Bool
  | .fin _ m _ => m == 0
  | _ => false

/-- The sign of a value. -/
def Fl.isNeg : Fl → Bool
  | .nan => false
  | .inf s => s
  | .fin s _ _ => s

/-- a < b; false with a NaN. -/
def Fl.lt : Fl → Fl → Bool
  | .nan, _ | _, .nan => false
  | .inf a, .inf b => a && !b
  | .inf a, _ => a
  | _, .inf b => !b
  | .fin s m e, .fin t n d =>
    let lo := min e d
    decide (signedOf s (m * 2 ^ (e - lo).toNat) < signedOf t (n * 2 ^ (d - lo).toNat))

/-- a = b as numbers; false with a NaN. -/
def Fl.eq (a b : Fl) : Bool := !a.isNan && !b.isNan && !a.lt b && !b.lt a

/-- a ≤ b; false with a NaN. -/
def Fl.le (a b : Fl) : Bool := a.lt b || a.eq b

/-- The greater; any NaN gives NaN, and +0 is above −0 (R78, R179). -/
def Fl.max (a b : Fl) : Fl :=
  if a.isNan || b.isNan then .nan else if a.lt b then b else if b.lt a then a else if a.isNeg then b else a

/-- The lesser; any NaN gives NaN, and −0 is below +0 (R78, R179). -/
def Fl.min (a b : Fl) : Fl :=
  if a.isNan || b.isNan then .nan else if a.lt b then a else if b.lt a then b else if a.isNeg then a else b

/-- The greatest integer at or below a finite value, 0 otherwise. -/
def Fl.floor : Fl → Int
  | .fin s m e => (signedOf s (m * 2 ^ e.toNat)) / (2 ^ (-e).toNat : Nat)
  | _ => 0

/-- A finite value rounded to the nearest even integer, or truncated toward zero. -/
def Fl.toInt (trunc : Bool) : Fl → Int
  | .fin s m e =>
    let num := m * 2 ^ e.toNat
    let den := 2 ^ (-e).toNat
    signedOf s (if trunc then num / den else roundDiv false num den)
  | _ => 0

/-- Saturation to a range. -/
def satInt (lo hi v : Int) : Int := if v < lo then lo else if hi < v then hi else v

/-- A floating value converted to an integer type of the given range (R63). -/
def Fl.toRange (trunc : Bool) (lo hi : Int) : Fl → Int
  | .nan => 0
  | .inf neg => if neg then lo else hi
  | v => satInt lo hi (v.toInt trunc)

/-- The value of an f32 in a cell. -/
def cellFl (c : Cell) : Fl := f32.decode c.toNat
/-- A value as an f32 cell, rounded once. -/
def flCell (v : Fl) : Cell := BitVec.ofNat 32 (f32.encode false v)
/-- A value rounded once to f32. -/
def rne (v : Fl) : Fl := f32.round v

/-! ## C40 (R77-R79) -/

/-- The C40 sum of two. -/
def c40Add (a b : BitVec 40) : BitVec 40 :=
  BitVec.ofNat 40 (c40.encode false ((c40.decode a.toNat).add (c40.decode b.toNat)))
/-- The C40 maximum of two. -/
def c40Max (a b : BitVec 40) : BitVec 40 :=
  BitVec.ofNat 40 (c40.encode false ((c40.decode a.toNat).max (c40.decode b.toNat)))
/-- The C40 minimum of two. -/
def c40Min (a b : BitVec 40) : BitVec 40 :=
  BitVec.ofNat 40 (c40.encode false ((c40.decode a.toNat).min (c40.decode b.toNat)))
/-- A value in C40. -/
def toC40 (v : Fl) : BitVec 40 := BitVec.ofNat 40 (c40.encode false v)

/-! ## Tables of the special functions (R180) -/

/-- TX[j], 2^(j/64). -/
def tableTX : List Nat :=
  [0x3F800000, 0x3F8164D2, 0x3F82CD87, 0x3F843A29, 0x3F85AAC3, 0x3F871F62, 0x3F88980F, 0x3F8A14D5] ++
  [0x3F8B95C2, 0x3F8D1ADF, 0x3F8EA43A, 0x3F9031DC, 0x3F91C3D3, 0x3F935A2B, 0x3F94F4F0, 0x3F96942D] ++
  [0x3F9837F0, 0x3F99E046, 0x3F9B8D3A, 0x3F9D3EDA, 0x3F9EF532, 0x3FA0B051, 0x3FA27043, 0x3FA43516] ++
  [0x3FA5FED7, 0x3FA7CD94, 0x3FA9A15B, 0x3FAB7A3A, 0x3FAD583F, 0x3FAF3B79, 0x3FB123F6, 0x3FB311C4] ++
  [0x3FB504F3, 0x3FB6FD92, 0x3FB8FBAF, 0x3FBAFF5B, 0x3FBD08A4, 0x3FBF179A, 0x3FC12C4D, 0x3FC346CD] ++
  [0x3FC5672A, 0x3FC78D75, 0x3FC9B9BE, 0x3FCBEC15, 0x3FCE248C, 0x3FD06334, 0x3FD2A81E, 0x3FD4F35B] ++
  [0x3FD744FD, 0x3FD99D16, 0x3FDBFBB8, 0x3FDE60F5, 0x3FE0CCDF, 0x3FE33F89, 0x3FE5B907, 0x3FE8396A] ++
  [0x3FEAC0C7, 0x3FED4F30, 0x3FEFE4BA, 0x3FF28177, 0x3FF5257D, 0x3FF7D0DF, 0x3FFA83B3, 0x3FFD3E0C]

/-- LL[j], −log2 of RL[j]. -/
def tableLL : List Nat :=
  [0x00000000, 0x3CB73CB3, 0x3D35D690, 0x3D8759C9, 0x3DB31FB7, 0x3DDE420E, 0x3E0462C4, 0x3E195751] ++
  [0x3E2E00D1, 0x3E42615F, 0x3E567AEF, 0x3E6A4F70, 0x3E7DE0B5, 0x3E88983F, 0x3E92203D, 0x3E9B8925] ++
  [0x3EA4D3C2, 0x3EAE00D1, 0x3EB71110, 0x3EC0052D, 0x3EC8DDD3, 0x3ED19BAF, 0x3EDA3F60, 0x3EE2C97E] ++
  [0x3EEB3A9E, 0x3EF39355, 0x3EFBD42A, 0x3F01FED4, 0x3F060828, 0x3F0A0650, 0x3F0DF98A, 0x3F11E20E] ++
  [0x3F15C01A, 0x3F1993E4, 0x3F1D5DA0, 0x3F211D84, 0x3F24D3C3, 0x3F28808D, 0x3F2C2410, 0x3F2FBE7F] ++
  [0x3F335004, 0x3F36D8CA, 0x3F3A58FE, 0x3F3DD0C9, 0x3F41404E, 0x3F44A7BB, 0x3F480731, 0x3F4B5ED6] ++
  [0x3F4EAECF, 0x3F51F740, 0x3F553847, 0x3F58720A, 0x3F5BA4A5, 0x3F5ED038, 0x3F61F4E5, 0x3F6512C6] ++
  [0x3F6829FA, 0x3F6B3AA0, 0x3F6E44CF, 0x3F7148A2, 0x3F744636, 0x3F773DA2, 0x3F7A2F03, 0x3F7D1A71]

/-- RS[j], 1 / √(1 + (2j + 1)/64). -/
def tableRS : List Nat :=
  [0x3F7E05EC, 0x3F7A33F9, 0x3F768CDC, 0x3F730D8A, 0x3F6FB345, 0x3F6C7B90, 0x3F69642A, 0x3F666B02] ++
  [0x3F638E39, 0x3F60CC16, 0x3F5E2305, 0x3F5B9193, 0x3F59166B, 0x3F56B051, 0x3F545E22, 0x3F521ED0] ++
  [0x3F4FF162, 0x3F4DD4ED, 0x3F4BC89B, 0x3F49CBA2, 0x3F47DD45, 0x3F45FCD6, 0x3F4429AF, 0x3F426337] ++
  [0x3F40A8DE, 0x3F3EFA1C, 0x3F3D5671, 0x3F3BBD67, 0x3F3A2E8C, 0x3F38A975, 0x3F372DBF, 0x3F35BB09] ++
  [0x3F3450FC, 0x3F32EF41, 0x3F319589, 0x3F304387, 0x3F2EF8F2, 0x3F2DB587, 0x3F2C7904, 0x3F2B432A] ++
  [0x3F2A13C0, 0x3F28EA8C, 0x3F27C759, 0x3F26A9F4, 0x3F25922C, 0x3F247FD3, 0x3F2372BD, 0x3F226ABE] ++
  [0x3F2167AF, 0x3F206968, 0x3F1F6FC4, 0x3F1E7AA0, 0x3F1D89D9, 0x3F1C9D4E, 0x3F1BB4E1, 0x3F1AD073] ++
  [0x3F19EFE6, 0x3F191320, 0x3F183A05, 0x3F17647C, 0x3F16926C, 0x3F15C3BC, 0x3F14F857, 0x3F143026] ++
  [0x3F136B13, 0x3F12A90B, 0x3F11E9F9, 0x3F112DCA, 0x3F10746D, 0x3F0FBDCE, 0x3F0F09DD, 0x3F0E5889] ++
  [0x3F0DA9C2, 0x3F0CFD79, 0x3F0C539F, 0x3F0BAC25, 0x3F0B06FD, 0x3F0A641A, 0x3F09C36D, 0x3F0924EC] ++
  [0x3F088889, 0x3F07EE37, 0x3F0755ED, 0x3F06BF9E, 0x3F062B40, 0x3F0598C7, 0x3F05082A, 0x3F04795F] ++
  [0x3F03EC5C, 0x3F036117, 0x3F02D788, 0x3F024FA6, 0x3F01C967, 0x3F0144C4, 0x3F00C1B4, 0x3F004030]

/-- An f32 by its encoding. -/
def f32Of (code : Nat) : Fl := f32.decode code
/-- The f32 nearest to num / den. -/
def f32Ratio (num den : Nat) : Fl := f32.decode (f32.magnitude false num den 0)
/-- RL[j], 1 / (1 + j/64). -/
def tableRL (j : Nat) : Fl := f32Ratio 64 (64 + j)
/-- RR[j], 1 / (1 + (2j + 1)/256). -/
def tableRR (j : Nat) : Fl := f32Ratio 256 (257 + 2 * j)

/-- E1, ln 2. -/
def constE1 : Fl := f32Of 0x3F317218
/-- E2, (ln 2)²/2. -/
def constE2 : Fl := f32Of 0x3E75FDF0
/-- E3, (ln 2)³/6. -/
def constE3 : Fl := f32Of 0x3D635847
/-- D1, 1/ln 2. -/
def constD1 : Fl := f32Of 0x3FB8AA3B
/-- D2, −1/(2 ln 2). -/
def constD2 : Fl := f32Of 0xBF38AA3B
/-- D3, 1/(3 ln 2). -/
def constD3 : Fl := f32Of 0x3EF6384F

/-! ## Special functions (R181-R184) -/

/-- fexp2 (R181). -/
def fexp2 (x : Fl) : Fl :=
  if x.isNan then .nan
  else if (Fl.ofInt 128).le x then .inf false
  else if x.le (Fl.ofInt (-151)) then .zero
  else
    let n := x.floor
    let f := x.add (Fl.ofInt (-n))
    let j := (f.scale 6).floor
    let r := f.add ((Fl.ofInt (-j)).scale (-6))
    let q := rne (r.mul constE3)
    let q := rne (constE2.add q)
    let q := rne (r.mul q)
    let q := rne (constE1.add q)
    let q := rne (r.mul q)
    let t := f32Of (tableTX.getD j.toNat 0)
    rne ((rne (t.add (t.mul q))).scale n)

/-- A finite non-zero value as m × 2^e with 1 ≤ m < 2 (R180): m as an exact value, and e. -/
def Fl.split : Fl → Fl × Int
  | .fin _ m e => (.fin false m (-(m.log2 : Int)), e + m.log2)
  | v => (v, 0)

/-- flog2 (R182). -/
def flog2 (x : Fl) : Fl :=
  if x.isNan then .nan
  else if x.isZero then .inf true
  else if x.isNeg then .nan
  else if x = .inf false then .inf false
  else
    let (m, e) := x.split
    let j := ((m.add (Fl.ofInt (-1))).scale 6).floor.toNat
    let u := rne ((m.mul (tableRL j)).add (Fl.ofInt (-1)))
    let p := rne (u.mul constD3)
    let p := rne (constD2.add p)
    let p := rne (u.mul p)
    let p := rne (constD1.add p)
    let p := rne (u.mul p)
    rne ((Fl.ofInt e).add (rne ((f32Of (tableLL.getD j 0)).add p)))

/-- One step of frcp's iteration. -/
def rcpStep (m y : Fl) : Fl :=
  let t := rne ((Fl.ofInt 1).add (m.mul y).neg)
  rne (y.add (y.mul t))

/-- frcp (R183). -/
def frcp (x : Fl) : Fl :=
  match x with
  | .nan => .nan
  | .inf s => .fin s 0 0
  | .fin s n _ =>
    if n = 0 then .inf s
    else
      let (m, e) := x.split
      let j := ((m.add (Fl.ofInt (-1))).scale 7).floor.toNat
      let y := rcpStep m (rcpStep m (tableRR j))
      let r := rne (y.scale (-e))
      if s then r.neg else r

/-- One step of frsqrt's iteration. -/
def rsqrtStep (m y : Fl) : Fl :=
  let h := rne (m.mul y)
  let t := rne ((Fl.ofInt 1).add (h.mul y).neg)
  rne (y.add ((rne (y.scale (-1))).mul t))

/-- frsqrt (R184). -/
def frsqrt (x : Fl) : Fl :=
  if x.isNan then .nan
  else if x.isZero then .inf x.isNeg
  else if x.isNeg then .nan
  else if x = .inf false then .zero
  else
    let (m, e) := x.split
    let (m, e) := if e % 2 = 0 then (m, e) else (m.scale 1, e - 1)
    let j := ((m.add (Fl.ofInt (-1))).scale 5).floor.toNat
    let y := rsqrtStep m (rsqrtStep m (f32Of (tableRS.getD j 0)))
    rne (y.scale (-(e / 2)))

end Sys2Proof.Machine
end

