-- ==== Sys2Proof/Syntax.lean ====
section
/-!
DEFINITION. The instruction set: one constructor for every row of spec/opcode_table.json. The first four are the slot
forms of spec/07_encoding.md R134; then come the triggers of the opcode map (R146), each with the operand its slot
moves; then the steps without an encoding (spec/95_what_each_step_holds.md), each with the agent it concerns and what
the outside world brings.
-/

namespace Sys2Proof

namespace Machine

/-- An atomic request (R223, R224). -/
inductive AtomKind where
  | amo | cas | famo | red | hnd
  deriving DecidableEq, Repr, Inhabited

/-- The fields of an atomic request; ORD and SCOPE are the codes of R223. -/
structure Atomic where
  kind : AtomKind
  aop : Nat
  type : Nat
  sat : Bool
  scope : Nat
  ord : Nat
  hnd : Nat
  d : Word
  b : Word
  deriving DecidableEq, Repr, Inhabited

/-- What the host does at a byte of the package's memory or of its own (R336): a read, a write, or an atomic on a page with the
system-atomic attribute (R128); or, at a core's number, its `cu.halt` with a = 1 and KIND 3 (R339), which the spec gives no other
carrier (DESIGN CHOICE, log 121). -/
inductive HostAccess where
  | read
  | write
  | atomic (a : Atomic)
  | release
  deriving DecidableEq, Repr, Inhabited

/-- What the receive lanes bring of a flit (R277, R278): the lanes that it was striped over, and its payload bytes. -/
structure Striped where
  lanes : List Nat
  bytes : List Byte
  deriving DecidableEq, Repr, Inhabited

end Machine

/-- An instruction. A comment names the rule that gives it. -/
inductive Instr where
  /-- R135 -/ | move (guard : Option Guard) (src : Src) (dst : Dst) (rot : Bool)
  /-- R137 -/ | shortImmediate (guard : Option Guard) (imm : BitVec 9) (dst : Dst) (rot : Bool)
  /-- R138 -/ | literal (lit : BitVec 30)
  /-- R139 -/ | header (yield : Bool) (wait : Bool) (waypoint : Bool) (e3 e2 e1 : Byte)
  /-- R152 -/ | cuAdd (op : TOp)
  /-- R152 -/ | cuSub (op : TOp)
  /-- R152 -/ | cuMul (op : TOp)
  /-- R152 -/ | cuMulh (op : TOp)
  /-- R152 -/ | cuMulhn (op : TOp)
  /-- R153 -/ | cuDivi (op : TOp)
  /-- R153 -/ | cuDivn (op : TOp)
  /-- R153 -/ | cuRemi (op : TOp)
  /-- R153 -/ | cuRemn (op : TOp)
  /-- R152 -/ | cuAnd (op : TOp)
  /-- R152 -/ | cuOr (op : TOp)
  /-- R152 -/ | cuXor (op : TOp)
  /-- R152 -/ | cuAndn (op : TOp)
  /-- R152 -/ | cuShl (op : TOp)
  /-- R152 -/ | cuShr (op : TOp)
  /-- R152 -/ | cuSar (op : TOp)
  /-- R152 -/ | cuRol (op : TOp)
  /-- R152 -/ | cuClz (op : TOp)
  /-- R152 -/ | cuCtz (op : TOp)
  /-- R152 -/ | cuPopc (op : TOp)
  /-- R152 -/ | cuMini (op : TOp)
  /-- R152 -/ | cuMaxi (op : TOp)
  /-- R152 -/ | cuMinn (op : TOp)
  /-- R152 -/ | cuMaxn (op : TOp)
  /-- R152 -/ | cuSxb (op : TOp)
  /-- R152 -/ | cuSxh (op : TOp)
  /-- R152 -/ | cuSxw (op : TOp)
  /-- R152 -/ | cuZxb (op : TOp)
  /-- R152 -/ | cuZxh (op : TOp)
  /-- R152 -/ | cuZxw (op : TOp)
  /-- R154 -/ | cuBfx (op : TOp)
  /-- R154 -/ | cuBfi (op : TOp)
  /-- R152 -/ | cuSel (op : TOp)
  /-- R152 -/ | cuCeq (op : TOp)
  /-- R152 -/ | cuCne (op : TOp)
  /-- R152 -/ | cuClti (op : TOp)
  /-- R152 -/ | cuCltn (op : TOp)
  /-- R152 -/ | cuClei (op : TOp)
  /-- R152 -/ | cuClen (op : TOp)
  /-- R156 -/ | cuBr (op : TOp)
  /-- R156 -/ | cuJmp (op : TOp)
  /-- R156 -/ | cuCall (op : TOp)
  /-- R156 -/ | cuRet (op : TOp)
  /-- R157 -/ | cuLoop (op : TOp)
  /-- R158 -/ | cuRings (op : TOp)
  /-- R162 -/ | cuTrap (op : TOp)
  /-- R162 -/ | cuBrk (op : TOp)
  /-- R175 -/ | cuSysRd (op : TOp)
  /-- R175 -/ | cuSysWr (op : TOp)
  /-- R316 -/ | cuTret (op : TOp)
  /-- R311 -/ | cuTlbinv (op : TOp)
  /-- R317 -/ | cuFrz (op : TOp)
  /-- R317 -/ | cuThaw (op : TOp)
  /-- R285 -/ | cuPorterLd (op : TOp)
  /-- R275 -/ | cuTtLd (op : TOp)
  /-- R305 -/ | cuCloakOut (op : TOp)
  /-- R305 -/ | cuCloakIn (op : TOp)
  /-- R297 -/ | cuPreempt (op : TOp)
  /-- R303 -/ | cuHalt (op : TOp)
  /-- R58 -/ | cuCsw (op : TOp)
  /-- R155 -/ | axAdd (op : TOp)
  /-- R155 -/ | axSub (op : TOp)
  /-- R155 -/ | axShl (op : TOp)
  /-- R155 -/ | axLea (op : TOp)
  /-- R155 -/ | axAnd (op : TOp)
  /-- R179 -/ | vuFadd (op : TOp)
  /-- R179 -/ | vuFsub (op : TOp)
  /-- R179 -/ | vuFmul (op : TOp)
  /-- R179 -/ | vuFfma (op : TOp)
  /-- R179 -/ | vuFmin (op : TOp)
  /-- R179 -/ | vuFmax (op : TOp)
  /-- R179 -/ | vuFabs (op : TOp)
  /-- R179 -/ | vuFneg (op : TOp)
  /-- R181 -/ | vuFexp2 (op : TOp)
  /-- R182 -/ | vuFlog2 (op : TOp)
  /-- R183 -/ | vuFrcp (op : TOp)
  /-- R184 -/ | vuFrsqrt (op : TOp)
  /-- R185 -/ | vuFcvt (op : TOp)
  /-- R187 -/ | vuIadd (op : TOp)
  /-- R187 -/ | vuIsub (op : TOp)
  /-- R187 -/ | vuImul (op : TOp)
  /-- R187 -/ | vuImulh (op : TOp)
  /-- R187 -/ | vuIand (op : TOp)
  /-- R187 -/ | vuIor (op : TOp)
  /-- R187 -/ | vuIxor (op : TOp)
  /-- R187 -/ | vuIshl (op : TOp)
  /-- R187 -/ | vuIshr (op : TOp)
  /-- R187 -/ | vuIsar (op : TOp)
  /-- R187 -/ | vuImin (op : TOp)
  /-- R187 -/ | vuImax (op : TOp)
  /-- R187 -/ | vuNmin (op : TOp)
  /-- R187 -/ | vuNmax (op : TOp)
  /-- R188 -/ | vuFeq (op : TOp)
  /-- R188 -/ | vuFlt (op : TOp)
  /-- R188 -/ | vuFle (op : TOp)
  /-- R188 -/ | vuIeq (op : TOp)
  /-- R188 -/ | vuIlt (op : TOp)
  /-- R188 -/ | vuNlt (op : TOp)
  /-- R189 -/ | vuVsel (op : TOp)
  /-- R189 -/ | vuVbcast (op : TOp)
  /-- R189 -/ | vuVperm (op : TOp)
  /-- R189 -/ | vuVslide (op : TOp)
  /-- R190 -/ | vuVrsum (op : TOp)
  /-- R190 -/ | vuVrmax (op : TOp)
  /-- R190 -/ | vuVrmin (op : TOp)
  /-- R191 -/ | vuVscan (op : TOp)
  /-- R193 -/ | vuVquant (op : TOp)
  /-- R194 -/ | vuVdq (op : TOp)
  /-- R195 -/ | vuVldf (op : TOp)
  /-- R195 -/ | vuVstf (op : TOp)
  /-- R192 -/ | vuVcnt (op : TOp)
  /-- R199 -/ | mxBloadS4 (op : TOp)
  /-- R199 -/ | mxBloadE4 (op : TOp)
  /-- R199 -/ | mxBloadE5 (op : TOp)
  /-- R199 -/ | mxBloadI8 (op : TOp)
  /-- R199 -/ | mxBloadBf (op : TOp)
  /-- R199 -/ | mxBloadH (op : TOp)
  /-- R202 -/ | mxMmaS4 (op : TOp)
  /-- R202 -/ | mxMmaE4 (op : TOp)
  /-- R202 -/ | mxMmaE5 (op : TOp)
  /-- R202 -/ | mxMmaI8 (op : TOp)
  /-- R202 -/ | mxMmaBf (op : TOp)
  /-- R202 -/ | mxMmaH (op : TOp)
  /-- R200 -/ | mxSpaS4 (op : TOp)
  /-- R200 -/ | mxSpaE4 (op : TOp)
  /-- R200 -/ | mxSpaI8 (op : TOp)
  /-- R211 -/ | tfTzero (op : TOp)
  /-- R211 -/ | tfTcopy (op : TOp)
  /-- R211 -/ | tfTadd (op : TOp)
  /-- R211 -/ | tfTsub (op : TOp)
  /-- R211 -/ | tfTmul (op : TOp)
  /-- R211 -/ | tfTmax (op : TOp)
  /-- R211 -/ | tfTmin (op : TOp)
  /-- R212 -/ | tfTsmul (op : TOp)
  /-- R212 -/ | tfTscr (op : TOp)
  /-- R212 -/ | tfTscc (op : TOp)
  /-- R212 -/ | tfTshr (op : TOp)
  /-- R212 -/ | tfTshc (op : TOp)
  /-- R211 -/ | tfTexp (op : TOp)
  /-- R211 -/ | tfTexpw (op : TOp)
  /-- R211 -/ | tfTcvt (op : TOp)
  /-- R213 -/ | tfTrmax (op : TOp)
  /-- R213 -/ | tfTrsum (op : TOp)
  /-- R213 -/ | tfTcmax (op : TOp)
  /-- R213 -/ | tfTcsum (op : TOp)
  /-- R213 -/ | tfTrmaxr (op : TOp)
  /-- R213 -/ | tfTrsumr (op : TOp)
  /-- R90 -/ | tfResolve (op : TOp)
  /-- R95 -/ | tfTdrop (op : TOp)
  /-- R215 -/ | tfTld (op : TOp)
  /-- R215 -/ | tfTst (op : TOp)
  /-- R96 -/ | tfTstr (op : TOp)
  /-- R216 -/ | tfTquant (op : TOp)
  /-- R216 -/ | tfTdq (op : TOp)
  /-- R214 -/ | tfFvexp (op : TOp)
  /-- R214 -/ | tfFvset (op : TOp)
  /-- R214 -/ | tfFvst (op : TOp)
  /-- R211 -/ | tfTtrans (op : TOp)
  /-- R221 -/ | luLdb (op : TOp)
  /-- R221 -/ | luLdh (op : TOp)
  /-- R221 -/ | luLdw (op : TOp)
  /-- R221 -/ | luLdd (op : TOp)
  /-- R221 -/ | luLdsb (op : TOp)
  /-- R221 -/ | luLdsh (op : TOp)
  /-- R221 -/ | luLdsw (op : TOp)
  /-- R221 -/ | luStb (op : TOp)
  /-- R221 -/ | luSth (op : TOp)
  /-- R221 -/ | luStw (op : TOp)
  /-- R221 -/ | luStd (op : TOp)
  /-- R222 -/ | luLdq (op : TOp)
  /-- R222 -/ | luStq (op : TOp)
  /-- R222 -/ | luLdv (op : TOp)
  /-- R222 -/ | luStv (op : TOp)
  /-- R224 -/ | luAmo (op : TOp)
  /-- R224 -/ | luCas (op : TOp)
  /-- R224 -/ | luFamo (op : TOp)
  /-- R224 -/ | luRed (op : TOp)
  /-- R224 -/ | luHnd (op : TOp)
  /-- R115 -/ | luFown (op : TOp)
  /-- R116 -/ | luFfar (op : TOp)
  /-- R117 -/ | luDrain (op : TOp)
  /-- R227 -/ | luPf (op : TOp)
  /-- R236 -/ | xeGo (op : TOp)
  /-- R237 -/ | xeStat (op : TOp)
  /-- R240 -/ | xeCancel (op : TOp)
  /-- R235 -/ | xeDict (op : TOp)
  /-- R242 -/ | fqTx (op : TOp)
  /-- R245 -/ | fqTxe (op : TOp)
  /-- R164 -/ | syBinit (op : TOp)
  /-- R164 -/ | syBarr (op : TOp)
  /-- R164 -/ | syBexp (op : TOp)
  /-- R164 -/ | syBtest (op : TOp)
  /-- R164 -/ | syBarm (op : TOp)
  /-- R165 -/ | syRinit (op : TOp)
  /-- R166 -/ | syRclaim (op : TOp)
  /-- R166 -/ | syRtake (op : TOp)
  /-- R166 -/ | syRgive (op : TOp)
  /-- R166 -/ | syRfill (op : TOp)
  /-- R166 -/ | syRstat (op : TOp)
  /-- R167 -/ | syEnq (op : TOp)
  /-- R167 -/ | sySpawn (op : TOp)
  /-- R168 -/ | syViews (op : TOp)
  /-- R169 -/ | syMerge (op : TOp)
  /-- R169 -/ | syJoin (op : TOp)
  /-- R170 -/ | syCancel (op : TOp)
  /-- R170 -/ | syCtr (op : TOp)
  /-- R161 -/ | syFarm (op : TOp)
  /-- R171 -/ | syUntil (op : TOp)
  /-- R171 -/ | syPrio (op : TOp)
  /-- R160 -/ | waitSlotIssue (core : Nat) (ctx : Nat)
  /-- R151 -/ | divisionComplete (core : Nat) (ctx : Nat) (tag : Nat)
  /-- R311 -/ | tlbinvComplete (core : Nat) (ctx : Nat)
  /-- R285 -/ | porterLoadInstall (core : Nat) (ctx : Nat)
  /-- R305 -/ | cloakOutComplete (core : Nat) (ctx : Nat)
  /-- R305 -/ | cloakInComplete (core : Nat) (ctx : Nat)
  /-- R303 -/ | haltComplete (core : Nat) (ctx : Nat)
  /-- R178 -/ | vuResultLand (core : Nat) (ctx : Nat) (tag : Nat)
  /-- R204 -/ | bloadStart (core : Nat) (id : Nat)
  /-- R204 -/ | bloadComplete (core : Nat) (id : Nat)
  /-- R204 -/ | mmaLaunch (core : Nat) (id : Nat)
  /-- R204 -/ | aReadRetirement (core : Nat) (id : Nat)
  /-- R204 -/ | mmaRowWrite (core : Nat) (id : Nat)
  /-- R210 -/ | tfCommandStart (core : Nat) (id : Nat)
  /-- R210 -/ | tfRowStep (core : Nat) (id : Nat)
  /-- R210 -/ | tfCommandEnd (core : Nat) (id : Nat)
  /-- R116 -/ | ffarSerialise (core : Nat) (ctx : Nat)
  /-- R116 -/ | ffarComplete (core : Nat) (ctx : Nat)
  /-- R117 -/ | drainComplete (core : Nat) (ctx : Nat)
  /-- R111 -/ | storeEnter (core : Nat) (ctx : Nat)
  /-- R111 -/ | storePerform (core : Nat) (ctx : Nat) (piece : Nat)
  /-- R111 -/ | channelDeliver (id : Nat)
  /-- R220 -/ | loadResultArrive (core : Nat) (ctx : Nat) (tag : Nat) (value : Word)
  /-- R310 -/ | pageWalkComplete (core : Nat) (part : Nat) (addr : Nat)
  /-- R266 -/ | routerCombine (router : Nat)
  /-- R266 -/ | routerWaitTimeout (router : Nat) (id : Nat)
  /-- R235 -/ | dictLoadComplete (core : Nat) (gen : Nat)
  /-- R334 -/ | xeResWrite (core : Nat) (ctx : Nat) (tag : Nat) (value : Word)
  /-- R229 -/ | jobBegin (core : Nat)
  /-- R232 -/ | jobTransfer (core : Nat) (job : Nat) (idx : Nat)
  /-- R238 -/ | jobComplete (core : Nat) (job : Nat)
  /-- R244 -/ | fqReplyArrive (id : Nat)
  /-- R85 -/ | fvContribution (id : Nat)
  /-- R53 -/ | ringSlotFull (core : Nat) (base : Nat) (slot : Nat)
  /-- R53 -/ | ringSlotFree (core : Nat) (base : Nat) (slot : Nat)
  /-- R343 -/ | joinComplete (part : Nat) (parent : Nat)
  /-- R343 -/ | mergeStep (part : Nat) (parent : Nat)
  /-- R14 -/ | unitStopOnCancel (core : Nat) (ctx : Nat)
  /-- R161 -/ | deadlineReached (core : Nat) (ctx : Nat) (flag : Nat)
  /-- R171 -/ | promiseReached (core : Nat) (ctx : Nat)
  /-- R15 -/ | contextReady (core : Nat) (ctx : Nat)
  /-- R17 -/ | priorityLift (core : Nat) (ctx : Nat)
  /-- R18 -/ | runQuantumExpiry (core : Nat) (ctx : Nat)
  /-- R296 -/ | waypointDistance (core : Nat) (ctx : Nat)
  /-- R27 -/ | queueEntryGrant (die : Nat)
  /-- R30 -/ | unitStart (part : Nat) (batch : Nat)
  /-- R26 -/ | launchCounterDiscard (part : Nat) (handle : Nat)
  /-- R293 -/ | subqEntryTake (part : Nat)
  /-- R298 -/ | unitSave (core : Nat) (ctx : Nat)
  /-- R301 -/ | unitResume (part : Nat) (uid : Nat)
  /-- R324 -/ | dataError (code : Nat) (core : Nat) (met : ErrAt)
  /-- R324 -/ | selfTestComplete (core : Nat) (pass : Bool)
  /-- R318 -/ | faultRecordPerform (part : Nat) (record : List Word)
  /-- R320 -/ | resume (part : Nat) (handle : Word)
  /-- R304 -/ | partCtlFresh (part : Nat)
  /-- R275 -/ | fbCtlRevert (plane : Nat)
  /-- R293 -/ | subqTailWrite (part : Nat) (tail : Nat)
  /-- R282 -/ | evqCtlRead (core : Nat) (ctx : Nat)
  /-- R318 -/ | fltqCtlRead (core : Nat) (ctx : Nat) (part : Nat)
  /-- R5 -/ | systemRegisterWrite (core : Nat) (ctx : Nat) (number : Nat) (value : Word)
  /-- R271 -/ | timetableSlotBoundary (plane : Nat) (heard : BitVec 16)
  /-- R276 -/ | flitSend (plane : Nat) (peer : Nat)
  /-- R331 -/ | flitFillTimeout (plane : Nat) (peer : Nat)
  /-- R279 -/ | flitReceive (plane : Nat) (src : Nat) (dst : Nat) (seq : Nat) (ack : Nat) (kind : Nat) (plen : Nat) (payload : Machine.Striped) (crc : BitVec 32) (msgs : List (Nat × Bool × Nat × Nat × List Word))
  /-- R280 -/ | txLaneDark (plane : Nat) (lanes : BitVec 16) (laser : Nat)
  /-- R280 -/ | rxLaneDark (plane : Nat) (lanes : BitVec 16)
  /-- R332 -/ | restripeHoldEnd (plane : Nat)
  /-- R280 -/ | laneRestored (plane : Nat) (tx : BitVec 16) (rx : BitVec 16)
  /-- R281 -/ | eventRecordPerform (record : List Word)
  /-- R338 -/ | packageReset (modules : Nat) (npkg : Nat) (pkg : Nat) (controls : List Word)
  /-- R335 -/ | ucieModuleFailure (modules : Nat)
  /-- R339 -/ | bootGo
  /-- R339 -/ | firmwareCheckComplete (controls : List Word)
  /-- R339 -/ | powerFail
  /-- R341 -/ | attest
  /-- R341 -/ | attestReportComplete
  /-- R336 -/ | hostMemoryAccess (key : Nat) (what : Machine.HostAccess) (bytes : List Byte)
  /-- R336 -/ | hostRegisterWrite (number : Nat) (value : Word)
  /-- R326 -/ | debuggerAccess (core : Nat) (ctx : Nat) (place : DbgPlace) (act : DbgAct)
  /-- R342 -/ | throttleStep (temp : Nat)
  /-- R342 -/ | thermalHalt (temp : Nat)
  /-- R342 -/ | thermalRelease (temp : Nat)
  deriving DecidableEq, Repr, Inhabited

end Sys2Proof
end

