-- ==== Sys2Proof/WellFormed.lean ====
section
/-!
DEFINITION. The instructions that are well formed: for a slot, the conditions of spec/07_encoding.md R135 to R148
that concern the slot alone and that the operand types do not already exclude; for an event, that the agents it names
exist (R101, R286).
-/

namespace Sys2Proof

/-- The sources that carry a reference (R141). -/
def Src.isRef : Src → Bool
  | .v _ | .tl _ | .fv _ | .cb _ | .vm _ => true
  | _ => false

/-- A general register as a source. -/
def Src.isG : Src → Bool
  | .g _ => true
  | _ => false

/-- A general register as a destination. -/
def Dst.isG : Dst → Bool
  | .g _ _ => true
  | _ => false

/-- An operand latch as a destination. -/
def Dst.isLatch : Dst → Bool
  | .latch _ _ => true
  | _ => false

/-- ROT goes with a g operand alone (R135, R137). -/
def TOp.wf (o : TOp) : Bool :=
  match o.src with
  | .src s => !o.rot || s.isG
  | .imm _ => !o.rot

/-- `cu.loop` takes no short immediate (R140). -/
def TOp.wfLoop (o : TOp) : Bool :=
  match o.src with
  | .src s => !o.rot || s.isG
  | .imm _ => false

/-- A core and one of its contexts (R15, R101). -/
def wfCtx (core ctx : Nat) : Bool := core < 160 && ctx < 8

/-- What met a data error exists: a context, a job of a number that is not 0 (R236). -/
def ErrAt.wf : ErrAt → Bool
  | .unit core ctx | .merge core ctx _ => wfCtx core ctx
  | .job core num => core < 160 && 0 < num && num < 65536
  | .saved _ | .savedMerge _ _ | .entry => true

/-- Well-formedness of every instruction. -/
def Instr.wf : Instr → Bool
  | .move _ s d rot => (!rot || s.isG || d.isG) && (!s.isRef || d.isLatch)
  | .shortImmediate _ _ d rot => !rot || d.isG
  | .literal _ => true
  | .header _ _ _ _ _ _ => true
  | .cuAdd o => o.wf
  | .cuSub o => o.wf
  | .cuMul o => o.wf
  | .cuMulh o => o.wf
  | .cuMulhn o => o.wf
  | .cuDivi o => o.wf
  | .cuDivn o => o.wf
  | .cuRemi o => o.wf
  | .cuRemn o => o.wf
  | .cuAnd o => o.wf
  | .cuOr o => o.wf
  | .cuXor o => o.wf
  | .cuAndn o => o.wf
  | .cuShl o => o.wf
  | .cuShr o => o.wf
  | .cuSar o => o.wf
  | .cuRol o => o.wf
  | .cuClz o => o.wf
  | .cuCtz o => o.wf
  | .cuPopc o => o.wf
  | .cuMini o => o.wf
  | .cuMaxi o => o.wf
  | .cuMinn o => o.wf
  | .cuMaxn o => o.wf
  | .cuSxb o => o.wf
  | .cuSxh o => o.wf
  | .cuSxw o => o.wf
  | .cuZxb o => o.wf
  | .cuZxh o => o.wf
  | .cuZxw o => o.wf
  | .cuBfx o => o.wf
  | .cuBfi o => o.wf
  | .cuSel o => o.wf
  | .cuCeq o => o.wf
  | .cuCne o => o.wf
  | .cuClti o => o.wf
  | .cuCltn o => o.wf
  | .cuClei o => o.wf
  | .cuClen o => o.wf
  | .cuBr o => o.wf
  | .cuJmp o => o.wf
  | .cuCall o => o.wf
  | .cuRet o => o.wf
  | .cuLoop o => o.wfLoop
  | .cuRings o => o.wf
  | .cuTrap o => o.wf
  | .cuBrk o => o.wf
  | .cuSysRd o => o.wf
  | .cuSysWr o => o.wf
  | .cuTret o => o.wf
  | .cuTlbinv o => o.wf
  | .cuFrz o => o.wf
  | .cuThaw o => o.wf
  | .cuPorterLd o => o.wf
  | .cuTtLd o => o.wf
  | .cuCloakOut o => o.wf
  | .cuCloakIn o => o.wf
  | .cuPreempt o => o.wf
  | .cuHalt o => o.wf
  | .cuCsw o => o.wf
  | .axAdd o => o.wf
  | .axSub o => o.wf
  | .axShl o => o.wf
  | .axLea o => o.wf
  | .axAnd o => o.wf
  | .vuFadd o => o.wf
  | .vuFsub o => o.wf
  | .vuFmul o => o.wf
  | .vuFfma o => o.wf
  | .vuFmin o => o.wf
  | .vuFmax o => o.wf
  | .vuFabs o => o.wf
  | .vuFneg o => o.wf
  | .vuFexp2 o => o.wf
  | .vuFlog2 o => o.wf
  | .vuFrcp o => o.wf
  | .vuFrsqrt o => o.wf
  | .vuFcvt o => o.wf
  | .vuIadd o => o.wf
  | .vuIsub o => o.wf
  | .vuImul o => o.wf
  | .vuImulh o => o.wf
  | .vuIand o => o.wf
  | .vuIor o => o.wf
  | .vuIxor o => o.wf
  | .vuIshl o => o.wf
  | .vuIshr o => o.wf
  | .vuIsar o => o.wf
  | .vuImin o => o.wf
  | .vuImax o => o.wf
  | .vuNmin o => o.wf
  | .vuNmax o => o.wf
  | .vuFeq o => o.wf
  | .vuFlt o => o.wf
  | .vuFle o => o.wf
  | .vuIeq o => o.wf
  | .vuIlt o => o.wf
  | .vuNlt o => o.wf
  | .vuVsel o => o.wf
  | .vuVbcast o => o.wf
  | .vuVperm o => o.wf
  | .vuVslide o => o.wf
  | .vuVrsum o => o.wf
  | .vuVrmax o => o.wf
  | .vuVrmin o => o.wf
  | .vuVscan o => o.wf
  | .vuVquant o => o.wf
  | .vuVdq o => o.wf
  | .vuVldf o => o.wf
  | .vuVstf o => o.wf
  | .vuVcnt o => o.wf
  | .mxBloadS4 o => o.wf
  | .mxBloadE4 o => o.wf
  | .mxBloadE5 o => o.wf
  | .mxBloadI8 o => o.wf
  | .mxBloadBf o => o.wf
  | .mxBloadH o => o.wf
  | .mxMmaS4 o => o.wf
  | .mxMmaE4 o => o.wf
  | .mxMmaE5 o => o.wf
  | .mxMmaI8 o => o.wf
  | .mxMmaBf o => o.wf
  | .mxMmaH o => o.wf
  | .mxSpaS4 o => o.wf
  | .mxSpaE4 o => o.wf
  | .mxSpaI8 o => o.wf
  | .tfTzero o => o.wf
  | .tfTcopy o => o.wf
  | .tfTadd o => o.wf
  | .tfTsub o => o.wf
  | .tfTmul o => o.wf
  | .tfTmax o => o.wf
  | .tfTmin o => o.wf
  | .tfTsmul o => o.wf
  | .tfTscr o => o.wf
  | .tfTscc o => o.wf
  | .tfTshr o => o.wf
  | .tfTshc o => o.wf
  | .tfTexp o => o.wf
  | .tfTexpw o => o.wf
  | .tfTcvt o => o.wf
  | .tfTrmax o => o.wf
  | .tfTrsum o => o.wf
  | .tfTcmax o => o.wf
  | .tfTcsum o => o.wf
  | .tfTrmaxr o => o.wf
  | .tfTrsumr o => o.wf
  | .tfResolve o => o.wf
  | .tfTdrop o => o.wf
  | .tfTld o => o.wf
  | .tfTst o => o.wf
  | .tfTstr o => o.wf
  | .tfTquant o => o.wf
  | .tfTdq o => o.wf
  | .tfFvexp o => o.wf
  | .tfFvset o => o.wf
  | .tfFvst o => o.wf
  | .tfTtrans o => o.wf
  | .luLdb o => o.wf
  | .luLdh o => o.wf
  | .luLdw o => o.wf
  | .luLdd o => o.wf
  | .luLdsb o => o.wf
  | .luLdsh o => o.wf
  | .luLdsw o => o.wf
  | .luStb o => o.wf
  | .luSth o => o.wf
  | .luStw o => o.wf
  | .luStd o => o.wf
  | .luLdq o => o.wf
  | .luStq o => o.wf
  | .luLdv o => o.wf
  | .luStv o => o.wf
  | .luAmo o => o.wf
  | .luCas o => o.wf
  | .luFamo o => o.wf
  | .luRed o => o.wf
  | .luHnd o => o.wf
  | .luFown o => o.wf
  | .luFfar o => o.wf
  | .luDrain o => o.wf
  | .luPf o => o.wf
  | .xeGo o => o.wf
  | .xeStat o => o.wf
  | .xeCancel o => o.wf
  | .xeDict o => o.wf
  | .fqTx o => o.wf
  | .fqTxe o => o.wf
  | .syBinit o => o.wf
  | .syBarr o => o.wf
  | .syBexp o => o.wf
  | .syBtest o => o.wf
  | .syBarm o => o.wf
  | .syRinit o => o.wf
  | .syRclaim o => o.wf
  | .syRtake o => o.wf
  | .syRgive o => o.wf
  | .syRfill o => o.wf
  | .syRstat o => o.wf
  | .syEnq o => o.wf
  | .sySpawn o => o.wf
  | .syViews o => o.wf
  | .syMerge o => o.wf
  | .syJoin o => o.wf
  | .syCancel o => o.wf
  | .syCtr o => o.wf
  | .syFarm o => o.wf
  | .syUntil o => o.wf
  | .syPrio o => o.wf
  | .waitSlotIssue core ctx => wfCtx core ctx
  | .divisionComplete core ctx _ => wfCtx core ctx
  | .tlbinvComplete core ctx => wfCtx core ctx
  | .porterLoadInstall core ctx => wfCtx core ctx
  | .cloakOutComplete core ctx => wfCtx core ctx
  | .cloakInComplete core ctx => wfCtx core ctx
  | .haltComplete core ctx => decide (core < 160) && decide (ctx < 9)
  | .vuResultLand core ctx _ => wfCtx core ctx
  | .bloadStart core _ => decide (core < 160)
  | .bloadComplete core _ => decide (core < 160)
  | .mmaLaunch core _ => decide (core < 160)
  | .aReadRetirement core _ => decide (core < 160)
  | .mmaRowWrite core _ => decide (core < 160)
  | .tfCommandStart core _ => decide (core < 160)
  | .tfRowStep core _ => decide (core < 160)
  | .tfCommandEnd core _ => decide (core < 160)
  | .ffarSerialise core ctx => wfCtx core ctx
  | .ffarComplete core ctx => wfCtx core ctx
  | .drainComplete core ctx => wfCtx core ctx
  | .storeEnter core ctx => wfCtx core ctx
  | .storePerform core ctx _ => wfCtx core ctx
  | .channelDeliver _ => true
  | .loadResultArrive core ctx _ _ => wfCtx core ctx
  | .pageWalkComplete core part _ => decide (core < 160) && decide (part < 8)
  | .routerCombine router => decide (router < 164)
  | .routerWaitTimeout router _ => decide (router < 164)
  | .dictLoadComplete core gen => decide (core < 160) && decide (gen < 2)
  | .xeResWrite core ctx _ _ => wfCtx core ctx
  | .jobBegin core => decide (core < 160)
  | .jobTransfer core _ _ => decide (core < 160)
  | .jobComplete core _ => decide (core < 160)
  | .fqReplyArrive _ => true
  | .fvContribution _ => true
  | .ringSlotFull core _ slot => decide (core < 160) && decide (slot < 256)
  | .ringSlotFree core _ slot => decide (core < 160) && decide (slot < 256)
  | .joinComplete part _ => decide (part < 8)
  | .mergeStep part _ => decide (part < 8)
  | .unitStopOnCancel core ctx => wfCtx core ctx
  | .deadlineReached core ctx flag => wfCtx core ctx && decide (flag < 16)
  | .promiseReached core ctx => wfCtx core ctx
  | .contextReady core ctx => wfCtx core ctx
  | .priorityLift core ctx => wfCtx core ctx
  | .runQuantumExpiry core ctx => wfCtx core ctx
  | .waypointDistance core ctx => wfCtx core ctx
  | .queueEntryGrant die => decide (die < 4)
  | .unitStart part _ => decide (part < 8)
  | .launchCounterDiscard part handle => decide (part < 8) && decide (handle < 4294967296)
  | .subqEntryTake part => decide (part < 8)
  | .unitSave core ctx => wfCtx core ctx
  | .unitResume part _ => decide (part < 8)
  | .dataError code core met => decide (core < 160) && decide (0 < code) && decide (code < 10) && met.wf
  | .selfTestComplete core _ => decide (core < 160)
  | .faultRecordPerform part _ => decide (part < 8)
  | .resume part _ => decide (part < 8)
  | .partCtlFresh part => decide (part < 8)
  | .fbCtlRevert plane => decide (plane < 4)
  | .subqTailWrite part tail => decide (part < 8) && decide (tail < 65536)
  | .evqCtlRead core ctx => wfCtx core ctx
  | .fltqCtlRead core ctx part => wfCtx core ctx && decide (part < 8)
  | .systemRegisterWrite core ctx number _ => wfCtx core ctx && decide (number < 4096)
  | .timetableSlotBoundary plane _ => decide (plane < 4)
  | .flitSend plane peer => decide (plane < 4) && decide (peer < 192)
  | .flitFillTimeout plane peer => decide (plane < 4) && decide (peer < 192)
  | .flitReceive plane src dst seq ack _ plen _ _ _ => decide (plane < 4) && decide (src < 192) && decide (dst < 192) && decide (seq < 65536) && decide (ack < 65536) && decide (plen < 129)
  | .txLaneDark plane _ laser => decide (plane < 4) && decide (laser < 256)
  | .rxLaneDark plane _ => decide (plane < 4)
  | .restripeHoldEnd plane => decide (plane < 4)
  | .laneRestored plane _ _ => decide (plane < 4)
  | .eventRecordPerform _ => true
  | .packageReset modules npkg pkg _ => decide (modules < 5) && decide (0 < npkg) && decide (npkg < 193) && decide (pkg < 192)
  | .ucieModuleFailure modules => decide (modules < 5)
  | .bootGo => true
  | .firmwareCheckComplete _ => true
  | .powerFail => true
  | .attest => true
  | .attestReportComplete => true
  | .hostMemoryAccess _ _ _ => true
  | .hostRegisterWrite number _ => decide (number < 4096)
  | .debuggerAccess core ctx _ _ => wfCtx core ctx
  | .throttleStep temp => decide (temp < 256)
  | .thermalHalt temp => decide (temp < 256)
  | .thermalRelease temp => decide (temp < 256)

end Sys2Proof
end

