-- ==== Sys2Proof/Decode.lean ====
section
/-!
DEFINITION. The decoder and, after it, the encoder of one 32-bit slot (spec/07_encoding.md R134-R148). The decoder
answers an instruction or a named refusal on every word. The trigger tables list the opcode map (R146) unit by unit in
ascending code order.
-/

namespace Sys2Proof

open Sys2Proof.Machine (field bytesLE natLE)

/-- Why a word is not an instruction (R148). -/
inductive Reject where
  | truncated | headerReserved | loopImmediate
  | guardBits | source | dest | slice | hold | rot | reference
  deriving DecidableEq, Repr

/-! ## Code tables -/

/-- The source with a given code (R141). -/
def srcOfCode (c : Nat) : Option Src :=
  if c < 0x40 then some (.g (BitVec.ofNat 6 c))
  else if c < 0x80 then some (.v (BitVec.ofNat 6 (c - 0x40)))
  else if c < 0xA0 then some (.tl (BitVec.ofNat 5 (c - 0x80)))
  else if c < 0xE0 then some (.fv (BitVec.ofNat 6 (c - 0xA0)))
  else if c < 0xF0 then some (.cb (BitVec.ofNat 4 (c - 0xE0)))
  else if c < 0x100 then some (.p (BitVec.ofNat 4 (c - 0xF0)))
  else if 0x140 ≤ c ∧ c < 0x148 then some (.pw (BitVec.ofNat 3 (c - 0x140)))
  else if 0x148 ≤ c ∧ c < 0x150 then some (.vm (BitVec.ofNat 3 (c - 0x148)))
  else if c = 0x1FE then some .literal
  else if c = 0x1FF then some .zero
  else if c < 0x10A then
    [Src.cuRes, .cuLnk, .axRes, .vuRes, .luRes, .xeRes, .syRes, .fqRx, .fqCnt, .tfRes][c - 0x100]?
  else if 0x150 ≤ c then
    [Src.cycle, .ctx, .unit, .lsize, .core, .die, .pkg, .csw, .depth, .prio, .lhandle, .jobw, .wins, .wpcnt,
      .part][c - 0x150]?
  else none

/-- The code of a source (R141). -/
def Src.code : Src → Nat
  | .g i => i.toNat
  | .v i => 0x40 + i.toNat
  | .tl i => 0x80 + i.toNat
  | .fv i => 0xA0 + i.toNat
  | .cb i => 0xE0 + i.toNat
  | .p i => 0xF0 + i.toNat
  | .cuRes => 0x100 | .cuLnk => 0x101 | .axRes => 0x102 | .vuRes => 0x103 | .luRes => 0x104
  | .xeRes => 0x105 | .syRes => 0x106 | .fqRx => 0x107 | .fqCnt => 0x108 | .tfRes => 0x109
  | .pw i => 0x140 + i.toNat
  | .vm i => 0x148 + i.toNat
  | .cycle => 0x150 | .ctx => 0x151 | .unit => 0x152 | .lsize => 0x153 | .core => 0x154 | .die => 0x155
  | .pkg => 0x156 | .csw => 0x157 | .depth => 0x158 | .prio => 0x159 | .lhandle => 0x15A | .jobw => 0x15B
  | .wins => 0x15C | .wpcnt => 0x15D | .part => 0x15E
  | .literal => 0x1FE | .zero => 0x1FF

/-- The code of a latch (R145). -/
def Latch.code : Latch → Nat
  | .cuA => 0x100 | .cuB => 0x101 | .axA => 0x140 | .vuA => 0x148 | .vuB => 0x149 | .vuD => 0x14A | .vuM => 0x14B
  | .mxA => 0x180 | .mxB => 0x181 | .mxArs => 0x182 | .mxBcs => 0x183 | .mxSca => 0x184 | .mxScb => 0x185
  | .mxMeta => 0x186 | .mxAcc => 0x187 | .tfA => 0x198 | .tfB => 0x199 | .tfD => 0x19A | .tfF => 0x19B
  | .luA => 0x1C0 | .luD => 0x1C1 | .luB => 0x1C2 | .syA => 0x1E8 | .syB => 0x1E9

/-- The latch with a given code (R145, R146). -/
def latchOfCode (c : Nat) : Option Latch :=
  if c < 0x140 then [Latch.cuA, .cuB][c - 0x100]?
  else if c < 0x148 then [Latch.axA][c - 0x140]?
  else if c < 0x180 then [Latch.vuA, .vuB, .vuD, .vuM][c - 0x148]?
  else if c < 0x198 then
    [Latch.mxA, .mxB, .mxArs, .mxBcs, .mxSca, .mxScb, .mxMeta, .mxAcc][c - 0x180]?
  else if c < 0x1C0 then [Latch.tfA, .tfB, .tfD, .tfF][c - 0x198]?
  else if c < 0x1E0 then [Latch.luA, .luD, .luB][c - 0x1C0]?
  else if 0x1E8 ≤ c then [Latch.syA, .syB][c - 0x1E8]?
  else none

/-- The code of a destination that is not a trigger (R143). -/
def Dst.code : Dst → Nat
  | .g i _ => i.toNat
  | .v i => 0x40 + i.toNat
  | .tl i => 0x80 + i.toNat
  | .p i => 0xF0 + i.toNat
  | .latch l _ => l.code
  | .none => 0x1FF

/-- The destination with a given code, slice mask and hold bit; a mask without g, or hold without a latch, is
refused by name (R135, R143). -/
def dstOf (c : Nat) (slices : Nat) (hold : Bool) : Except Reject Dst :=
  if c < 0x40 then
    if hold then .error .hold else .ok (.g (BitVec.ofNat 6 c) (BitVec.ofNat 4 slices))
  else if slices ≠ 0 then .error .slice
  else match (if 0x100 ≤ c then latchOfCode c else none) with
    | some l => .ok (.latch l hold)
    | none =>
      if hold then .error .hold
      else if c < 0x80 then .ok (.v (BitVec.ofNat 6 (c - 0x40)))
      else if c < 0xA0 then .ok (.tl (BitVec.ofNat 5 (c - 0x80)))
      else if 0xF0 ≤ c ∧ c < 0x100 then .ok (.p (BitVec.ofNat 4 (c - 0xF0)))
      else if c = 0x1FF then .ok .none
      else .error .dest

/-- The triggers of cu, with its privileged ports and csw, from code 0x102 (R146). -/
def cuTriggers : List (TOp → Instr) :=
  [Instr.cuAdd, .cuSub, .cuMul, .cuMulh, .cuMulhn, .cuDivi, .cuDivn, .cuRemi, .cuRemn, .cuAnd, .cuOr,
   .cuXor, .cuAndn, .cuShl, .cuShr, .cuSar, .cuRol, .cuClz, .cuCtz, .cuPopc, .cuMini, .cuMaxi, .cuMinn,
   .cuMaxn, .cuSxb, .cuSxh, .cuSxw, .cuZxb, .cuZxh, .cuZxw] ++
  [Instr.cuBfx, .cuBfi, .cuSel, .cuCeq, .cuCne, .cuClti, .cuCltn, .cuClei, .cuClen, .cuBr, .cuJmp, .cuCall,
   .cuRet, .cuLoop, .cuRings, .cuTrap, .cuBrk, .cuSysRd, .cuSysWr, .cuTret, .cuTlbinv, .cuFrz, .cuThaw,
   .cuPorterLd, .cuTtLd, .cuCloakOut, .cuCloakIn, .cuPreempt, .cuHalt, .cuCsw]

/-- The triggers of ax, from code 0x141 (R146). -/
def axTriggers : List (TOp → Instr) :=
  [Instr.axAdd, .axSub, .axShl, .axLea, .axAnd]

/-- The triggers of vu, from code 0x14C (R146). -/
def vuTriggers : List (TOp → Instr) :=
  [Instr.vuFadd, .vuFsub, .vuFmul, .vuFfma, .vuFmin, .vuFmax, .vuFabs, .vuFneg, .vuFexp2, .vuFlog2,
   .vuFrcp, .vuFrsqrt, .vuFcvt, .vuIadd, .vuIsub, .vuImul, .vuImulh, .vuIand, .vuIor, .vuIxor, .vuIshl,
   .vuIshr, .vuIsar, .vuImin, .vuImax, .vuNmin, .vuNmax, .vuFeq, .vuFlt, .vuFle] ++
  [Instr.vuIeq, .vuIlt, .vuNlt, .vuVsel, .vuVbcast, .vuVperm, .vuVslide, .vuVrsum, .vuVrmax, .vuVrmin,
   .vuVscan, .vuVquant, .vuVdq, .vuVldf, .vuVstf, .vuVcnt]

/-- The triggers of mx, from code 0x188 (R146). -/
def mxTriggers : List (TOp → Instr) :=
  [Instr.mxBloadS4, .mxBloadE4, .mxBloadE5, .mxBloadI8, .mxBloadBf, .mxBloadH, .mxMmaS4, .mxMmaE4,
   .mxMmaE5, .mxMmaI8, .mxMmaBf, .mxMmaH, .mxSpaS4, .mxSpaE4, .mxSpaI8]

/-- The triggers of tf, from code 0x19C (R146). -/
def tfTriggers : List (TOp → Instr) :=
  [Instr.tfTzero, .tfTcopy, .tfTadd, .tfTsub, .tfTmul, .tfTmax, .tfTmin, .tfTsmul, .tfTscr, .tfTscc,
   .tfTshr, .tfTshc, .tfTexp, .tfTexpw, .tfTcvt, .tfTrmax, .tfTrsum, .tfTcmax, .tfTcsum, .tfTrmaxr,
   .tfTrsumr, .tfResolve, .tfTdrop, .tfTld, .tfTst, .tfTstr, .tfTquant, .tfTdq, .tfFvexp, .tfFvset] ++
  [Instr.tfFvst, .tfTtrans]

/-- The triggers of lu, from code 0x1C3 (R146). -/
def luTriggers : List (TOp → Instr) :=
  [Instr.luLdb, .luLdh, .luLdw, .luLdd, .luLdsb, .luLdsh, .luLdsw, .luStb, .luSth, .luStw, .luStd, .luLdq,
   .luStq, .luLdv, .luStv, .luAmo, .luCas, .luFamo, .luRed, .luHnd, .luFown, .luFfar, .luDrain, .luPf]

/-- The triggers of xe, from code 0x1E0 (R146). -/
def xeTriggers : List (TOp → Instr) :=
  [Instr.xeGo, .xeStat, .xeCancel, .xeDict]

/-- The triggers of fq, from code 0x1E4 (R146). -/
def fqTriggers : List (TOp → Instr) :=
  [Instr.fqTx, .fqTxe]

/-- The triggers of sy, from code 0x1EA (R146). -/
def syTriggers : List (TOp → Instr) :=
  [Instr.syBinit, .syBarr, .syBexp, .syBtest, .syBarm, .syRinit, .syRclaim, .syRtake, .syRgive, .syRfill,
   .syRstat, .syEnq, .sySpawn, .syViews, .syMerge, .syJoin, .syCancel, .syCtr, .syFarm, .syUntil, .syPrio]

/-- The trigger with a given destination code (R145, R146). -/
def trigOfCode (c : Nat) : Option (TOp → Instr) :=
  if c < 0x102 then none
  else if c < 0x140 then cuTriggers[c - 0x102]?
  else if c < 0x148 then if c < 0x141 then none else axTriggers[c - 0x141]?
  else if c < 0x180 then if c < 0x14C then none else vuTriggers[c - 0x14C]?
  else if c < 0x198 then if c < 0x188 then none else mxTriggers[c - 0x188]?
  else if c < 0x1C0 then if c < 0x19C then none else tfTriggers[c - 0x19C]?
  else if c < 0x1E0 then if c < 0x1C3 then none else luTriggers[c - 0x1C3]?
  else if c < 0x1E4 then xeTriggers[c - 0x1E0]?
  else if c < 0x1E8 then fqTriggers[c - 0x1E4]?
  else if c < 0x1EA then none else syTriggers[c - 0x1EA]?

/-- The destination code and operand of a trigger; none for the other instructions (R146). -/
def Instr.trigger : Instr → Option (Nat × TOp)
  | .move _ _ _ _ | .shortImmediate _ _ _ _ | .literal _ | .header _ _ _ _ _ _ => none
  | .cuAdd o => some (0x102, o)
  | .cuSub o => some (0x103, o)
  | .cuMul o => some (0x104, o)
  | .cuMulh o => some (0x105, o)
  | .cuMulhn o => some (0x106, o)
  | .cuDivi o => some (0x107, o)
  | .cuDivn o => some (0x108, o)
  | .cuRemi o => some (0x109, o)
  | .cuRemn o => some (0x10A, o)
  | .cuAnd o => some (0x10B, o)
  | .cuOr o => some (0x10C, o)
  | .cuXor o => some (0x10D, o)
  | .cuAndn o => some (0x10E, o)
  | .cuShl o => some (0x10F, o)
  | .cuShr o => some (0x110, o)
  | .cuSar o => some (0x111, o)
  | .cuRol o => some (0x112, o)
  | .cuClz o => some (0x113, o)
  | .cuCtz o => some (0x114, o)
  | .cuPopc o => some (0x115, o)
  | .cuMini o => some (0x116, o)
  | .cuMaxi o => some (0x117, o)
  | .cuMinn o => some (0x118, o)
  | .cuMaxn o => some (0x119, o)
  | .cuSxb o => some (0x11A, o)
  | .cuSxh o => some (0x11B, o)
  | .cuSxw o => some (0x11C, o)
  | .cuZxb o => some (0x11D, o)
  | .cuZxh o => some (0x11E, o)
  | .cuZxw o => some (0x11F, o)
  | .cuBfx o => some (0x120, o)
  | .cuBfi o => some (0x121, o)
  | .cuSel o => some (0x122, o)
  | .cuCeq o => some (0x123, o)
  | .cuCne o => some (0x124, o)
  | .cuClti o => some (0x125, o)
  | .cuCltn o => some (0x126, o)
  | .cuClei o => some (0x127, o)
  | .cuClen o => some (0x128, o)
  | .cuBr o => some (0x129, o)
  | .cuJmp o => some (0x12A, o)
  | .cuCall o => some (0x12B, o)
  | .cuRet o => some (0x12C, o)
  | .cuLoop o => some (0x12D, o)
  | .cuRings o => some (0x12E, o)
  | .cuTrap o => some (0x12F, o)
  | .cuBrk o => some (0x130, o)
  | .cuSysRd o => some (0x131, o)
  | .cuSysWr o => some (0x132, o)
  | .cuTret o => some (0x133, o)
  | .cuTlbinv o => some (0x134, o)
  | .cuFrz o => some (0x135, o)
  | .cuThaw o => some (0x136, o)
  | .cuPorterLd o => some (0x137, o)
  | .cuTtLd o => some (0x138, o)
  | .cuCloakOut o => some (0x139, o)
  | .cuCloakIn o => some (0x13A, o)
  | .cuPreempt o => some (0x13B, o)
  | .cuHalt o => some (0x13C, o)
  | .cuCsw o => some (0x13D, o)
  | .axAdd o => some (0x141, o)
  | .axSub o => some (0x142, o)
  | .axShl o => some (0x143, o)
  | .axLea o => some (0x144, o)
  | .axAnd o => some (0x145, o)
  | .vuFadd o => some (0x14C, o)
  | .vuFsub o => some (0x14D, o)
  | .vuFmul o => some (0x14E, o)
  | .vuFfma o => some (0x14F, o)
  | .vuFmin o => some (0x150, o)
  | .vuFmax o => some (0x151, o)
  | .vuFabs o => some (0x152, o)
  | .vuFneg o => some (0x153, o)
  | .vuFexp2 o => some (0x154, o)
  | .vuFlog2 o => some (0x155, o)
  | .vuFrcp o => some (0x156, o)
  | .vuFrsqrt o => some (0x157, o)
  | .vuFcvt o => some (0x158, o)
  | .vuIadd o => some (0x159, o)
  | .vuIsub o => some (0x15A, o)
  | .vuImul o => some (0x15B, o)
  | .vuImulh o => some (0x15C, o)
  | .vuIand o => some (0x15D, o)
  | .vuIor o => some (0x15E, o)
  | .vuIxor o => some (0x15F, o)
  | .vuIshl o => some (0x160, o)
  | .vuIshr o => some (0x161, o)
  | .vuIsar o => some (0x162, o)
  | .vuImin o => some (0x163, o)
  | .vuImax o => some (0x164, o)
  | .vuNmin o => some (0x165, o)
  | .vuNmax o => some (0x166, o)
  | .vuFeq o => some (0x167, o)
  | .vuFlt o => some (0x168, o)
  | .vuFle o => some (0x169, o)
  | .vuIeq o => some (0x16A, o)
  | .vuIlt o => some (0x16B, o)
  | .vuNlt o => some (0x16C, o)
  | .vuVsel o => some (0x16D, o)
  | .vuVbcast o => some (0x16E, o)
  | .vuVperm o => some (0x16F, o)
  | .vuVslide o => some (0x170, o)
  | .vuVrsum o => some (0x171, o)
  | .vuVrmax o => some (0x172, o)
  | .vuVrmin o => some (0x173, o)
  | .vuVscan o => some (0x174, o)
  | .vuVquant o => some (0x175, o)
  | .vuVdq o => some (0x176, o)
  | .vuVldf o => some (0x177, o)
  | .vuVstf o => some (0x178, o)
  | .vuVcnt o => some (0x179, o)
  | .mxBloadS4 o => some (0x188, o)
  | .mxBloadE4 o => some (0x189, o)
  | .mxBloadE5 o => some (0x18A, o)
  | .mxBloadI8 o => some (0x18B, o)
  | .mxBloadBf o => some (0x18C, o)
  | .mxBloadH o => some (0x18D, o)
  | .mxMmaS4 o => some (0x18E, o)
  | .mxMmaE4 o => some (0x18F, o)
  | .mxMmaE5 o => some (0x190, o)
  | .mxMmaI8 o => some (0x191, o)
  | .mxMmaBf o => some (0x192, o)
  | .mxMmaH o => some (0x193, o)
  | .mxSpaS4 o => some (0x194, o)
  | .mxSpaE4 o => some (0x195, o)
  | .mxSpaI8 o => some (0x196, o)
  | .tfTzero o => some (0x19C, o)
  | .tfTcopy o => some (0x19D, o)
  | .tfTadd o => some (0x19E, o)
  | .tfTsub o => some (0x19F, o)
  | .tfTmul o => some (0x1A0, o)
  | .tfTmax o => some (0x1A1, o)
  | .tfTmin o => some (0x1A2, o)
  | .tfTsmul o => some (0x1A3, o)
  | .tfTscr o => some (0x1A4, o)
  | .tfTscc o => some (0x1A5, o)
  | .tfTshr o => some (0x1A6, o)
  | .tfTshc o => some (0x1A7, o)
  | .tfTexp o => some (0x1A8, o)
  | .tfTexpw o => some (0x1A9, o)
  | .tfTcvt o => some (0x1AA, o)
  | .tfTrmax o => some (0x1AB, o)
  | .tfTrsum o => some (0x1AC, o)
  | .tfTcmax o => some (0x1AD, o)
  | .tfTcsum o => some (0x1AE, o)
  | .tfTrmaxr o => some (0x1AF, o)
  | .tfTrsumr o => some (0x1B0, o)
  | .tfResolve o => some (0x1B1, o)
  | .tfTdrop o => some (0x1B2, o)
  | .tfTld o => some (0x1B3, o)
  | .tfTst o => some (0x1B4, o)
  | .tfTstr o => some (0x1B5, o)
  | .tfTquant o => some (0x1B6, o)
  | .tfTdq o => some (0x1B7, o)
  | .tfFvexp o => some (0x1B8, o)
  | .tfFvset o => some (0x1B9, o)
  | .tfFvst o => some (0x1BA, o)
  | .tfTtrans o => some (0x1BB, o)
  | .luLdb o => some (0x1C3, o)
  | .luLdh o => some (0x1C4, o)
  | .luLdw o => some (0x1C5, o)
  | .luLdd o => some (0x1C6, o)
  | .luLdsb o => some (0x1C7, o)
  | .luLdsh o => some (0x1C8, o)
  | .luLdsw o => some (0x1C9, o)
  | .luStb o => some (0x1CA, o)
  | .luSth o => some (0x1CB, o)
  | .luStw o => some (0x1CC, o)
  | .luStd o => some (0x1CD, o)
  | .luLdq o => some (0x1CE, o)
  | .luStq o => some (0x1CF, o)
  | .luLdv o => some (0x1D0, o)
  | .luStv o => some (0x1D1, o)
  | .luAmo o => some (0x1D2, o)
  | .luCas o => some (0x1D3, o)
  | .luFamo o => some (0x1D4, o)
  | .luRed o => some (0x1D5, o)
  | .luHnd o => some (0x1D6, o)
  | .luFown o => some (0x1D7, o)
  | .luFfar o => some (0x1D8, o)
  | .luDrain o => some (0x1D9, o)
  | .luPf o => some (0x1DA, o)
  | .xeGo o => some (0x1E0, o)
  | .xeStat o => some (0x1E1, o)
  | .xeCancel o => some (0x1E2, o)
  | .xeDict o => some (0x1E3, o)
  | .fqTx o => some (0x1E4, o)
  | .fqTxe o => some (0x1E5, o)
  | .syBinit o => some (0x1EA, o)
  | .syBarr o => some (0x1EB, o)
  | .syBexp o => some (0x1EC, o)
  | .syBtest o => some (0x1ED, o)
  | .syBarm o => some (0x1EE, o)
  | .syRinit o => some (0x1EF, o)
  | .syRclaim o => some (0x1F0, o)
  | .syRtake o => some (0x1F1, o)
  | .syRgive o => some (0x1F2, o)
  | .syRfill o => some (0x1F3, o)
  | .syRstat o => some (0x1F4, o)
  | .syEnq o => some (0x1F5, o)
  | .sySpawn o => some (0x1F6, o)
  | .syViews o => some (0x1F7, o)
  | .syMerge o => some (0x1F8, o)
  | .syJoin o => some (0x1F9, o)
  | .syCancel o => some (0x1FA, o)
  | .syCtr o => some (0x1FB, o)
  | .syFarm o => some (0x1FC, o)
  | .syUntil o => some (0x1FD, o)
  | .syPrio o => some (0x1FE, o)
  | .waitSlotIssue _ _ => none
  | .divisionComplete _ _ _ => none
  | .tlbinvComplete _ _ => none
  | .porterLoadInstall _ _ => none
  | .cloakOutComplete _ _ => none
  | .cloakInComplete _ _ => none
  | .haltComplete _ _ => none
  | .vuResultLand _ _ _ => none
  | .bloadStart _ _ => none
  | .bloadComplete _ _ => none
  | .mmaLaunch _ _ => none
  | .aReadRetirement _ _ => none
  | .mmaRowWrite _ _ => none
  | .tfCommandStart _ _ => none
  | .tfRowStep _ _ => none
  | .tfCommandEnd _ _ => none
  | .ffarSerialise _ _ => none
  | .ffarComplete _ _ => none
  | .drainComplete _ _ => none
  | .storeEnter _ _ => none
  | .storePerform _ _ _ => none
  | .channelDeliver _ => none
  | .loadResultArrive _ _ _ _ => none
  | .pageWalkComplete _ _ _ => none
  | .routerCombine _ => none
  | .routerWaitTimeout _ _ => none
  | .dictLoadComplete _ _ => none
  | .xeResWrite _ _ _ _ => none
  | .jobBegin _ => none
  | .jobTransfer _ _ _ => none
  | .jobComplete _ _ => none
  | .fqReplyArrive _ => none
  | .fvContribution _ => none
  | .ringSlotFull _ _ _ => none
  | .ringSlotFree _ _ _ => none
  | .joinComplete _ _ => none
  | .mergeStep _ _ => none
  | .unitStopOnCancel _ _ => none
  | .deadlineReached _ _ _ => none
  | .promiseReached _ _ => none
  | .contextReady _ _ => none
  | .priorityLift _ _ => none
  | .runQuantumExpiry _ _ => none
  | .waypointDistance _ _ => none
  | .queueEntryGrant _ => none
  | .unitStart _ _ => none
  | .launchCounterDiscard _ _ => none
  | .subqEntryTake _ => none
  | .unitSave _ _ => none
  | .unitResume _ _ => none
  | .dataError _ _ _ => none
  | .selfTestComplete _ _ => none
  | .faultRecordPerform _ _ => none
  | .resume _ _ => none
  | .partCtlFresh _ => none
  | .fbCtlRevert _ => none
  | .subqTailWrite _ _ => none
  | .evqCtlRead _ _ => none
  | .fltqCtlRead _ _ _ => none
  | .systemRegisterWrite _ _ _ _ => none
  | .timetableSlotBoundary _ _ => none
  | .flitSend _ _ => none
  | .flitFillTimeout _ _ => none
  | .flitReceive _ _ _ _ _ _ _ _ _ _ => none
  | .txLaneDark _ _ _ => none
  | .rxLaneDark _ _ => none
  | .restripeHoldEnd _ => none
  | .laneRestored _ _ _ => none
  | .eventRecordPerform _ => none
  | .packageReset _ _ _ _ => none
  | .ucieModuleFailure _ => none
  | .bootGo => none
  | .firmwareCheckComplete _ => none
  | .powerFail => none
  | .attest => none
  | .attestReportComplete => none
  | .hostMemoryAccess _ _ _ => none
  | .hostRegisterWrite _ _ => none
  | .debuggerAccess _ _ _ _ => none
  | .throttleStep _ => none
  | .thermalHalt _ => none
  | .thermalRelease _ => none

/-! ## The decoder -/

/-- The guard of a slot whose GE, GF and GI are given; GE = 0 with the others not zero is refused (R136). -/
def guardOf (ge gf gi : Nat) : Except Reject (Option Guard) :=
  if ge = 1 then .ok (some ⟨BitVec.ofNat 4 gf, gi == 1⟩)
  else if gf = 0 ∧ gi = 0 then .ok none
  else .error .guardBits

/-- A slot of the move or short-immediate form (R135, R137), from its fields. -/
def decodeMove (imm : Bool) (g : Option Guard) (s d slices : Nat) (hold rot : Bool) : Except Reject Instr :=
  match trigOfCode d with
  | some mk =>
    if slices ≠ 0 then .error .slice
    else if hold then .error .hold
    else if imm then
      if d = 0x12D then .error .loopImmediate
      else if rot then .error .rot
      else .ok (mk ⟨g, .imm (BitVec.ofNat 9 s), rot⟩)
    else match srcOfCode s with
      | none => .error .source
      | some src => if rot && !src.isG then .error .rot else .ok (mk ⟨g, .src src, rot⟩)
  | none =>
    match dstOf d slices hold with
    | .error e => .error e
    | .ok dst =>
      if imm then
        if rot && !dst.isG then .error .rot
        else .ok (.shortImmediate g (BitVec.ofNat 9 s) dst rot)
      else match srcOfCode s with
        | none => .error .source
        | some src =>
          if rot && !(src.isG || dst.isG) then .error .rot
          else if src.isRef && !dst.isLatch then .error .reference
          else .ok (.move g src dst rot)

/-- Decodes one slot (R134). -/
def decodeSlot (word : BitVec 32) : Except Reject Instr :=
  let w := word.toNat
  match field w 31 30 with
  | 2 => .ok (.literal (BitVec.ofNat 30 (field w 29 0)))
  | 3 =>
    if field w 26 24 ≠ 0 then .error .headerReserved
    else .ok (.header (field w 29 29 == 1) (field w 28 28 == 1) (field w 27 27 == 1)
      (BitVec.ofNat 8 (field w 23 16)) (BitVec.ofNat 8 (field w 15 8)) (BitVec.ofNat 8 (field w 7 0)))
  | form =>
    match guardOf (field w 29 29) (field w 28 25) (field w 24 24) with
    | .error e => .error e
    | .ok g =>
      decodeMove (form == 1) g (field w 23 15) (field w 14 6) (field w 5 2) (field w 1 1 == 1) (field w 0 0 == 1)

/-- Decodes the slot in the first four bytes of a list, lowest address first (R2, R132), and gives the rest. -/
def decodeBytes (bs : List Byte) : Except Reject (Instr × List Byte) :=
  match bs with
  | b0 :: b1 :: b2 :: b3 :: rest =>
    match decodeSlot (BitVec.ofNat 32 (natLE [b0, b1, b2, b3])) with
    | .ok i => .ok (i, rest)
    | .error e => .error e
  | _ => .error .truncated

/-- The instruction the decoder reads from an instruction of `nbits` bits `w`, numbered as spec/opcode_table.json
numbers them; bits above `nbits` are 0. Every encoded row is one 32-bit slot, stored little-endian (R132). -/
def decodeTableWord (nbits w : Nat) : Option Instr :=
  match decodeBytes (bytesLE 4 (w % 2 ^ nbits)) with
  | .ok (i, _) => some i
  | .error _ => none

/-! ## The encoder -/

/-- The guard's bits 29:24 (R135). -/
def guardBits : Option Guard → Nat
  | none => 0
  | some g => 32 + 2 * g.flag.toNat + (if g.inv then 1 else 0)

/-- A slot word from its fields (R135). -/
def pack (form guard s d slices : Nat) (hold rot : Bool) : BitVec 32 :=
  BitVec.ofNat 32 (form * 2 ^ 30 + guard * 2 ^ 24 + s * 2 ^ 15 + d * 2 ^ 6 + slices * 2 ^ 2
    + (if hold then 2 else 0) + (if rot then 1 else 0))

/-- The slice mask and hold bit a destination carries (R135). -/
def Dst.slices : Dst → Nat
  | .g _ m => m.toNat
  | _ => 0

/-- The hold bit a destination carries (R57, R135). -/
def Dst.hold : Dst → Bool
  | .latch _ h => h
  | _ => false

/-- The word of a trigger slot (R135, R137). -/
def encodeTrigger (d : Nat) (o : TOp) : BitVec 32 :=
  match o.src with
  | .src s => pack 0 (guardBits o.guard) s.code d 0 false o.rot
  | .imm v => pack 1 (guardBits o.guard) v.toNat d 0 false o.rot

/-- The word of a well-formed instruction; an event has none (R134-R139). -/
def encode (i : Instr) : Option (BitVec 32) :=
  match i with
  | .move g s d rot => some (pack 0 (guardBits g) s.code d.code d.slices d.hold rot)
  | .shortImmediate g v d rot => some (pack 1 (guardBits g) v.toNat d.code d.slices d.hold rot)
  | .literal v => some (BitVec.ofNat 32 (2 * 2 ^ 30 + v.toNat))
  | .header y w p e3 e2 e1 =>
    some (BitVec.ofNat 32 (3 * 2 ^ 30 + (if y then 2 ^ 29 else 0) + (if w then 2 ^ 28 else 0)
      + (if p then 2 ^ 27 else 0) + e3.toNat * 2 ^ 16 + e2.toNat * 2 ^ 8 + e1.toNat))
  | i => i.trigger.map fun (d, o) => encodeTrigger d o

/-! ## Buses and units -/

/-- The units a trigger code can belong to (R145). -/
inductive Funit where
  | cu | cuPriv | ax | vu | mx | tf | lu | xe | fq | sy
  deriving DecidableEq, Repr, Inhabited

/-- The unit of a trigger code (R145). -/
def unitOfCode (c : Nat) : Funit :=
  if 0x131 ≤ c ∧ c ≤ 0x13C then .cuPriv
  else if c < 0x140 then .cu
  else if c < 0x148 then .ax
  else if c < 0x180 then .vu
  else if c < 0x198 then .mx
  else if c < 0x1C0 then .tf
  else if c < 0x1E0 then .lu
  else if c < 0x1E4 then .xe
  else if c < 0x1E8 then .fq
  else .sy

/-- Whether a bus may carry a unit's triggers (R133). -/
def busCarries (slot : Nat) (u : Funit) : Bool :=
  match u with
  | .cu => true
  | .cuPriv | .xe | .fq | .sy => slot == 0
  | .vu => slot == 1
  | .mx | .tf => slot == 2
  | .lu | .ax => slot == 3

end Sys2Proof
end

