-- ==== Sys2Proof/Machine/State.lean ====
section
/-!
DEFINITION. The state of one T9 package: everything spec/02_state.md and the later chapters give the machine, as
plain data, and the machine right after package reset (spec/00_scope.md R6). What the model adds of its own (the
agenda of events still to come, the slot being issued, the counter of free values) stands at the end of `Mach`.
Values marked DESIGN CHOICE are named in notes/assumptions/ by the number given.
-/

namespace Sys2Proof.Machine

/-! ## Memory, values, causes -/

/-- Memory as a list of bytes in rising address order; an unlisted byte reads 0 (DESIGN CHOICE, log 2). The key of
a vault byte is its address; of an HBM byte at physical offset q it is 0x0100_0000_0000 + q; of a host byte at
physical address h it is 0x0400_0000_0000 + h (R99, R106, R307). -/
abbrev Memory := List Host.Cell

/-- What a move carries: a 64-bit value or a reference (R57, R144). -/
inductive Val where
  | word (w : Word)
  | ref (kind : RefKind) (index : Nat)
  deriving DecidableEq, Repr, Inhabited

/-- The causes that enter a handler or freeze a context (R315). -/
inductive Cause where
  | illMove | illBundle | latchEmpty | paramUnbound | align | xlate | prot | factorVoid | waypointDistance
  | promiseMissed | nestDepth | sys | brk
  deriving DecidableEq, Repr, Inhabited

/-- A trap to be taken: its cause, detail and address, its class in the order of R149, whether the device raised a
BREAK (HW), and whether TR_PC holds the next bundle (R315). -/
structure Trap where
  cause : Cause
  detail : Nat
  addr : Word
  cls : Nat
  hw : Bool
  afterBundle : Bool
  deriving DecidableEq, Repr, Inhabited

/-- What a blocked context waits for (R15); at the lu queue, room under which of R220's limits: for a store, for a load. -/
inductive Wait where
  | mxQueue | tfQueue | xeQueue | fqTx | fqRx | fqPort
  | luQueue (store load : Bool)
  | fqSpace (words : Nat)
  | sendQueue (plane peer bytes : Nat)
  | factor (fvs : List Nat)
  | ringFree (ring : Nat) | ringFull (ring : Nat)
  | waitFlags
  | entry (depth : Nat)
  | join
  | drain (mask : Nat)
  | ffar
  | dictFree
  deriving DecidableEq, Repr, Inhabited

/-- Why an operation does not complete in this cycle: it raises a trap, blocks at a switch point, stalls on an
interlock (R15), stalls on a page walk that is to be started (R310), stalls on vault banks that another command has
reserved (R108), stalls until a cycle (R171), or stalls until a parameter read of a barrier word performs (R55, R126). -/
inductive Stop where
  | raise (t : Trap)
  | block (w : Wait)
  | stall
  | walk (core part va : Nat)
  | banks (mask : BitVec 64)
  | until_ (cycle : Nat)
  | param (cycle : Nat)
  deriving DecidableEq, Repr, Inhabited

/-- What became of the slot that `exec` ran last. -/
inductive SlotOut where
  | idle | done
  | stopped (e : Stop)
  deriving DecidableEq, Repr, Inhabited

/-- Privilege (R173, R313): task, partition supervisor, package firmware. -/
inductive Priv where
  | task | s | f
  deriving DecidableEq, Repr, Inhabited

/-! ## A context -/

/-- The four slices of a general register (R41). -/
structure Gpr where
  c : Word
  v : Word
  m : Word
  x : Word
  deriving DecidableEq, Repr, Inhabited

/-- An operand latch: its content when valid, and hold (R57). -/
structure LatchCell where
  val : Option Val
  hold : Bool
  deriving DecidableEq, Repr, Inhabited

/-- Transforms of a factor slot (R82). -/
inductive Xf where
  | id | neg | exp2 | rcp | exp2neg
  deriving DecidableEq, Repr, Inhabited

/-- A row or column factor: a factor vector of the window and a transform (R48). -/
structure Factor where
  fv : Nat
  xf : Xf
  deriving DecidableEq, Repr, Inhabited

/-- Cell formats of a tile (R45). -/
inductive Fmt where
  | f32 | f16 | bf16 | i32
  deriving DecidableEq, Repr, Inhabited

/-- A tile descriptor (R45, R48): unset until written, geometry, and the five factor slots. -/
structure Tile where
  isSet : Bool
  row0 : Nat
  rows : Nat
  col0 : Nat
  ccnt : Nat
  fmt : Fmt
  rawOvf : Bool
  sigma : Option Cell
  rho : Option Factor
  kappa : Option Factor
  beta : Option Factor
  gamma : Option Factor
  deriving DecidableEq, Repr, Inhabited

/-- STATE of a factor vector (R49). -/
inductive FvState where
  | ready | pending | void
  deriving DecidableEq, Repr, Inhabited

/-- Combine operators of a pending factor vector (R49). -/
inductive FvOp where
  | add | max | min
  deriving DecidableEq, Repr, Inhabited

/-- A factor vector (R49, R50): 512 entries, C40 while pending and f32 (in bits 31:0) otherwise. -/
structure FactorVec where
  state : FvState
  nn : Bool
  op : FvOp
  remain : Nat
  vcause : Nat
  entries : List (BitVec 40)
  deriving DecidableEq, Repr, Inhabited

/-- A parameter window (R55). -/
inductive Param where
  | unbound
  | inl (words : List Word)
  | window (addr size : Nat)
  deriving DecidableEq, Repr, Inhabited

/-- A result port (R142): its value, the cycle from which it can be read, and the tag of the result still to
arrive. -/
structure Port where
  val : Word
  readyAt : Nat
  tag : Option Nat
  deriving DecidableEq, Repr, Inhabited

/-- The result ports of a context (R141, R142). -/
structure Ports where
  cu : Port
  lnk : Port
  ax : Port
  vu : Port
  lu : Port
  xe : Port
  sy : Port
  tf : Port
  deriving DecidableEq, Repr, Inhabited

/-- Loop state (R157): the address of the loop bundle, L, the iterations left, rc, and the captured body. -/
structure Loop where
  active : Bool
  addr : Nat
  len : Nat
  left : Nat
  rc : Nat
  body : List (List Cell)
  deriving DecidableEq, Repr, Inhabited

/-- A rotating range (R158). -/
structure Range where
  en : Bool
  base : Nat
  len : Nat
  deriving DecidableEq, Repr, Inhabited

/-- The arming of a flag (R161): kind 0 is unarmed. -/
structure Arm where
  kind : Nat
  arg : Word
  deriving DecidableEq, Repr, Inhabited

/-- TR_CAUSE, TR_PC, TR_ADDR and the scratch registers (R314), the mode bits of TR_CAUSE held by name. -/
structure TrapRegs where
  active : Bool
  hw : Bool
  priv : Priv
  slots : BitVec 4
  cause : Nat
  detail : Nat
  pc : Nat
  addr : Word
  scratch : List Word
  deriving DecidableEq, Repr, Inhabited

/-- A write of mx.sca or mx.scb, with the number of the bundle that made it (R203). -/
structure ScaleWrite where
  isB : Bool
  val : Cell
  bundle : Nat
  deriving DecidableEq, Repr, Inhabited

/-- The trap bank (R313): the latches, with the scales that writes of mx.sca and mx.scb have left in effect (R203), and the
result ports set aside at trap entry, the suspended loop, and the branch target of a wait bundle some of whose slots have
issued (R160), with the ranges and rc by which the rest of it renames (R158), and the TR_PC to which these belong (R315). -/
structure TrapBank where
  latch : List LatchCell
  scales : List ScaleWrite
  ports : Ports
  loop : Loop
  waitNext : Option Nat
  waitOld : Option (List Range × Nat)
  pc : Nat
  deriving DecidableEq, Repr, Inhabited

/-- Element formats of the matrix array (R198). -/
inductive MxFmt where
  | s4 | e4 | e5 | i8 | bf | h
  deriving DecidableEq, Repr, Inhabited

/-- A B record (R199): format and source address, with the bytes' memory keys as translated. -/
structure BRec where
  fmt : MxFmt
  addr : Nat
  deriving DecidableEq, Repr, Inhabited

/-- Where an outstanding vu or wide-load result lands (R178, R222): lanes of a v register, a mask, factor entries,
or the vu.res port. -/
inductive LandDst where
  | v (i : Nat) (lanes : List (Option Cell))
  | vm (i : Nat) (bits : BitVec 256)
  | fv (i : Nat) (entries : List (BitVec 40))
  | res (w : Word)
  deriving DecidableEq, Repr, Inhabited

/-- An outstanding result (R178): tag, place, and whether it belongs to the lu. -/
structure Landing where
  tag : Nat
  dst : LandDst
  deriving DecidableEq, Repr, Inhabited

/-- An entry of the pending-store queue or store buffer (R110, R131): a store's pieces, each a list of (key, byte),
or an atomic at a key. `keys` holds every key the entry touches. -/
structure StoreEntry where
  seq : Nat
  keys : List Nat
  pieces : List (List (Nat × Byte))
  atomic : Option Atomic
  tag : Option Nat
  release : Bool
  due : Nat
  sent : Bool
  streaming : Bool
  deriving DecidableEq, Repr, Inhabited

/-- A load or atomic awaiting its result in lu.res (R220). `bar` marks a load of the barrier area, whose read is
made when it arrives (R126). -/
structure LoadOut where
  tag : Nat
  val : Option Word
  keys : List Nat
  size : Nat
  signed : Bool
  acquire : Bool
  deriving DecidableEq, Repr, Inhabited

/-- An ffar in progress (R116): its targets, and once serialised the entries still to perform, by core, context and
sequence number. -/
structure Ffar where
  core : Nat
  mask : Nat
  upTo : Nat
  entries : Option (List (Nat × Nat × Nat))
  deriving DecidableEq, Repr, Inhabited

/-- A view-table entry as `sy.views` read it (R168), with where it stands in memory, and for a tile the geometry word that
the parent's descriptor had when the child was spawned (R33). -/
structure ViewEntry where
  tile : Bool
  op : Nat
  hnd : Nat
  etype : Nat
  base : Nat
  length : Nat
  geom : Word
  slotAddr : Nat
  deriving DecidableEq, Repr, Inhabited

/-- A line of a region view held in the pool (R33): entry index, virtual line address, block number. -/
structure ViewBlock where
  entry : Nat
  line : Nat
  block : Nat
  deriving DecidableEq, Repr, Inhabited

/-- The five counts of R11. -/
structure Counter where
  issued : Nat
  done : Nat
  cancelled : Nat
  cancelReq : Bool
  complete : Bool
  deriving DecidableEq, Repr, Inhabited

/-- A task packet, decoded by R19-R22. -/
structure Packet where
  units : Nat
  home : Option Nat
  verify : Bool
  prio : Nat
  spawn : Bool
  code : Nat
  nvm : Nat
  ncb : Nat
  nacc : Nat
  nfv : Nat
  nv : Nat
  preds : Nat
  job : Nat
  phase : Nat
  graph : Nat
  foot : List (Nat × Nat × Nat)
  windows : List (Option (Nat × Nat))
  succ : List Nat
  inl : List Word
  deriving DecidableEq, Repr, Inhabited

/-- The unit running in a context (R10, R39). `uid` is the model's own number of the started unit; `batch` the
accepted packet it belongs to; `parent` the uid of a spawned unit's parent and `spawn` the number of its spawn; `run` 1 in
the second run of a verified unit, which keeps the views of the first (R38). -/
structure UnitId where
  uid : Nat
  batch : Nat
  part : Nat
  handle : Nat
  index : Nat
  depth : Nat
  job : Nat
  phase : Nat
  graph : Nat
  packet : Packet
  parent : Option Nat
  spawn : Nat
  views : List ViewEntry
  blocks : List ViewBlock
  run : Nat
  sig1 : Word
  firstBlocks : List ViewBlock
  firstTiles : List (Nat × List (List Cell))
  errors : Nat
  deriving DecidableEq, Repr, Inhabited

/-- A unit in stub mode (R301): where it goes on, and the loop state to be reinstated. -/
structure StubState where
  pc : Nat
  loop : Loop
  deriving DecidableEq, Repr, Inhabited

/-- A privileged operation whose status is still to come in cu.res (R173). -/
inductive PrivOp where
  | tlbinv (upTo : Nat) (removed : Bool) (scope addr : Nat) (gone : List (Nat × Nat))
  | porterLd (entry : Nat) (image : List Word)
  | cloakOut (part : Nat)
  | cloakIn (part : Nat)
  | halt (core : Nat) (ctx : Option Nat)
  deriving DecidableEq, Repr, Inhabited

/-- Whether a context holds a unit and what it is doing (R15, R169, R298, R301); `stopping` is a cancelled unit whose engine
commands and stores are still to end (R14). -/
inductive Status where
  | free | ready | running
  | blocked (w : Wait)
  | merging
  | stopping
  | saving
  | restoring
  | reserved
  deriving DecidableEq, Repr, Inhabited

/-- One hardware context (R39). `waitOld` holds the ranges and rc with which a wait bundle began, while slots of it are still to
issue: they rename its operands (R158). `waitOn` is what else the slots of a waiting wait bundle wait for, beside what the status
names (R160). `armHeld` marks the flags whose armed condition has held in this cycle, `reached` those that a deadline has set
in it (R161, R263). `paramDue` is when the parameter reads of barrier words that the next bundle makes perform (R55, R126).
Until the cycle `cuUntil` its cu triggers stall for a status that is on its way (R173); until `mxwFrom` its tf triggers with
MXW stall, since a row of C was the last one only in the cycle before (R206). `acquires` are the barrier tests still to
perform, which hold later bundles back (R127); `hold` is what a drain or ffar has later bundles wait for (R116, R117). -/
structure Ctx where
  g : List Gpr
  p : List Bool
  arms : List Arm
  tl : List Tile
  v : List (List Cell)
  vm : List (BitVec 256)
  fv : List FactorVec
  acc : List (List Cell)
  cb : List (Option Nat)
  pw : List Param
  latch : List LatchCell
  tx : List Word
  rx : List Word
  rxReserved : Nat
  peerOut : List Nat
  hold : Option Wait
  csw : Word
  ports : Ports
  pc : Nat
  issueAt : Nat
  status : Status
  ticket : Option (Wait × Nat)
  prio : Nat
  ownPrio : Nat
  lifted : Bool
  readySince : Nat
  runStart : Nat
  quantumOver : Bool
  quantum : Nat
  wpMax : Nat
  wpCount : Nat
  loop : Loop
  ranges : List Range
  priv : Priv
  trap : TrapRegs
  bank : Option TrapBank
  passForced : Bool
  waitIssued : BitVec 4
  waitNext : Option Nat
  waitOld : Option (List Range × Nat)
  waitChanged : Bool
  waitOn : List Wait
  armHeld : BitVec 16
  reached : BitVec 16
  paramDue : Option Nat
  unit : Option UnitId
  spawns : Nat
  children : Counter
  views : List ViewEntry
  frozen : Bool
  halted : Bool
  preempt : Bool
  record : List Word
  saveSet : Bool
  cancelled : Bool
  stub : Option StubState
  bundleNo : Nat
  scales : List ScaleWrite
  brec : List (Option BRec)
  landing : List Landing
  loads : List LoadOut
  pend : List StoreEntry
  buffer : List StoreEntry
  fown : Option Nat
  ffar : Option Ffar
  divUntil : Nat
  cuUntil : Nat
  mxwFrom : Nat
  privOp : Option PrivOp
  fqFrozen : Bool
  fqHalted : Bool
  acquires : List Nat
  deriving DecidableEq, Repr, Inhabited

/-! ## A core's engines -/

/-- A contiguous run of memory keys: first key and length in bytes. -/
abbrev Seg := Nat × Nat

/-- A tile operand of a queued command: the descriptor's number and the descriptor as it stood when the trigger
issued (R92). -/
structure TileRef where
  index : Nat
  tile : Tile
  deriving DecidableEq, Repr, Inhabited

/-- Where a matrix command stands (R204). -/
inductive MxState where
  | queued | reading | streaming | writing
  deriving DecidableEq, Repr, Inhabited

/-- A command of the matrix array (R197-R205). For a bload `segs` names B, for an mma or spa A. `tile` is C with the
slots it has after issue; `resolve` C as it stood where it is resolved first, with the vectors it names (R91); `rowF` and
`colF` the factors that enter the products in the third case of R91; `readAt` the cycle from which it can launch, its
operands being read; `start` the cycle S_b or L; `mark` the accesses of the context older than it (R114). -/
structure MxCmd where
  id : Nat
  ctx : Nat
  uid : Nat
  bload : Bool
  fmt : MxFmt
  sparse : Bool
  buf : Nat
  accum : Bool
  tile : TileRef
  resolve : Option TileRef
  fvs : List FactorVec
  rowF : List Cell
  colF : List Cell
  sca : Option Cell
  scb : Option Cell
  segs : List Seg
  metaSegs : List Seg
  ring : Option (Nat × Nat)
  readAt : Nat
  start : Nat
  mark : Nat
  state : MxState
  aData : List Byte
  metaData : List Byte
  bData : List Byte
  bFmt : MxFmt
  row : Nat
  deriving DecidableEq, Repr, Inhabited

/-- A physical B buffer (R204, R205): the context that owns it in the order of issue, with the unit it then held, and what it
holds. -/
structure BBuf where
  owner : Option (Nat × Nat)
  fmt : MxFmt
  data : List Byte
  deriving DecidableEq, Repr, Inhabited

/-- The operations of the tile-and-factor unit (R209). -/
inductive TfOp where
  | tzero | tcopy | tadd | tsub | tmul | tmax | tmin | tsmul | tscr | tscc | tshr | tshc | texp | texpw | tcvt
  | trmax | trsum | tcmax | tcsum | trmaxr | trsumr | resolve | tdrop | tld | tst | tstr | tquant | tdq
  | fvexp | fvset | fvst | ttrans
  deriving DecidableEq, Repr, Inhabited

/-- A row that a tf command has computed and is still to write (R210): when, the bytes of memory or the row of cells,
and its number. -/
structure TfPut where
  due : Nat
  idx : Nat
  mem : List (Nat × Byte)
  cells : List Cell
  deriving DecidableEq, Repr, Inhabited

/-- A command of the tile-and-factor unit (R208-R217). `resolves` are the tiles it resolves first (R89), `phase` the number
of them done; `rows` the memory rows whose access is still to perform, `side` the sidecar or the bytes of one that is to
be written; `start` the cycle in which the present stream began, `step` its next row, `puts` the rows on their way, `seen`
the rows read so far by a reduction or transpose; `mark` the accesses of the context older than the command (R114). -/
structure TfCmd where
  id : Nat
  ctx : Nat
  op : TfOp
  a : Option TileRef
  b : Option TileRef
  d : Option TileRef
  fv : Nat
  ctl : Word
  resolves : List TileRef
  rows : List (List Seg)
  side : List (Nat × Byte)
  lat : Nat
  ring : Option (Nat × Nat)
  reserved : Bool
  start : Nat
  mark : Nat
  started : Bool
  ended : Bool
  phase : Nat
  step : Nat
  puts : List TfPut
  seen : List (List Cell)
  tag : Nat
  clipped : Nat
  escapes : Nat
  deriving DecidableEq, Repr, Inhabited

/-- States of a ring slot (R52). -/
inductive SlotState where
  | free | filling | full | draining
  deriving DecidableEq, Repr, Inhabited

/-- A slot of a ring (R53): its state, the job or command that claimed it, whether `sy.rfill` has been issued and
up to which store of which context it waits, whether `sy.rgive` has been issued, and how many engine reads or
writes of it are still outstanding. -/
structure RingSlot where
  state : SlotState
  byJob : Bool
  fillBy : Option (Nat × Nat)
  given : Bool
  users : Nat
  deriving DecidableEq, Repr, Inhabited

/-- A ring record (R52), identified by its base. -/
structure Ring where
  base : Nat
  slot : Nat
  head : Nat
  tail : Nat
  slots : List RingSlot
  banks : BitVec 64
  deriving DecidableEq, Repr, Inhabited

/-- A reservation of vault banks (R107, R108): holder, ring, mask, and the cycle of its release. -/
structure Reservation where
  holder : Nat
  base : Nat
  mask : BitVec 64
  released : Option Nat
  deriving DecidableEq, Repr, Inhabited

/-- STATE of a traverse job (R237). -/
inductive JobState where
  | queued | running | complete | failed | suspended | cancelled
  deriving DecidableEq, Repr, Inhabited

/-- A transfer that another agent is to end: its index, the request that is out for it, and where the bytes of a reply
go. -/
structure Flight where
  idx : Nat
  id : Nat
  dst : List Seg
  deriving DecidableEq, Repr, Inhabited

/-- What became of the contribution of a KIND 3 job (R233, R344). -/
inductive Landed where
  | no | sent | yes
  deriving DecidableEq, Repr, Inhabited

/-- A traverse job (R229-R241, R321): the card's 32 words as read, the cursor `n` with the later transfers that have
performed, the next transfer to issue, the transfers that others are to end, the cycle from which it can begin or go on, the
values of a contribution, the decompressed bytes not yet taken with the place of the first and the next block, whether a
cancel waits for its flights, and the fault that is to suspend it. -/
structure Job where
  num : Nat
  ctx : Nat
  uid : Nat
  part : Nat
  priv : Priv
  card : List Word
  cardAddr : Nat
  state : JobState
  code : Nat
  begun : Bool
  n : Nat
  ahead : List Nat
  issued : Nat
  total : Nat
  flights : List Flight
  readyAt : Nat
  gen : Option Nat
  ring : Option (Nat × Nat)
  ringBase : Nat
  values : List (Nat × Cell)
  landed : Landed
  stream : List Byte
  streamPos : Nat
  nextBlock : Nat
  mark : Nat
  promise : Nat
  stop : Bool
  fault : Option Trap
  deriving DecidableEq, Repr, Inhabited

/-- A dictionary generation (R235): its bytes, and while it loads where they lie and when their reads end. -/
structure Dict where
  bytes : List Byte
  loading : Bool
  lo : Nat
  size : Nat
  segs : List Seg
  ctx : Nat
  mark : Nat
  due : Option Nat
  deriving DecidableEq, Repr, Inhabited

/-- A cached translation (R310): window (0 code, 1 HBM, 2 host), virtual page base, page size, and the page-table
entry. -/
structure Tlb where
  part : Nat
  window : Nat
  vbase : Nat
  size : Nat
  pte : Word
  deriving DecidableEq, Repr, Inhabited

/-- A page walk (R310): core, partition, virtual address, once it has ended in a fault its XLATE detail, the cycle in which it
started or so ended, whether its end is on the agenda, and what waits for it: contexts of the core by number, jobs by 8 and
their number. -/
structure Walk where
  core : Nat
  part : Nat
  va : Nat
  fault : Option Nat
  since : Nat
  posted : Bool
  users : List Nat
  deriving DecidableEq, Repr, Inhabited

/-- Why a core is halted: by `cu.halt` (R303), for a self-test (R324) or for temperature (R342). -/
inductive HaltCause where
  | order | test | heat
  deriving DecidableEq, Repr, Inhabited

/-- One core (R15, R16, R101). `waiters` are the vault commands that wait for banks, in order: a context's number, or 8 more
than a job's, with the mask (R108). `vuNext` is the cycle from which the vu accepts a trigger (R178). -/
structure Core where
  ctxs : List Ctx
  running : Option Nat
  lastChosen : List Nat
  mx : List MxCmd
  bufs : List BBuf
  tf : List TfCmd
  tfEnd : Nat
  rings : List Ring
  resv : List Reservation
  waiters : List (Nat × BitVec 64)
  jobs : List Job
  nextJob : Nat
  rr : Nat
  jobsFrozen : Bool
  jobsHalted : Bool
  vuNext : Nat
  dicts : List Dict
  curDict : Nat
  tlb : List Tlb
  nextIssue : Nat
  halted : Bool
  haltCauses : List HaltCause
  retired : Bool
  deriving DecidableEq, Repr, Inhabited

/-! ## The concierge -/

/-- An accepted packet whose units are not all started (R24, R27): its queue entry, the launch or the parent and spawn number
it counts in, the next unit to start, units dropped before they started, and units to be placed again with the data errors
they have met (R325). -/
structure Batch where
  id : Nat
  part : Nat
  entry : Option Nat
  depth : Nat
  handle : Nat
  packet : Packet
  parent : Option Nat
  spawn : Nat
  views : List ViewEntry
  next : Nat
  skip : List Nat
  again : List (Nat × Nat)
  deriving DecidableEq, Repr, Inhabited

/-- A launch and its counter (R10, R11, R26). `slot` is the key of the result word of the host submission entry
it came from (R293), until COMPLETE is written there; `mark` numbers the accesses that must perform first; `past` says that it
belongs to an earlier run of its job (R13). -/
structure Launch where
  handle : Nat
  packet : Packet
  counter : Counter
  predsLeft : Nat
  started : Bool
  completions : Nat
  slot : Option Nat
  mark : Nat
  past : Bool
  deriving DecidableEq, Repr, Inhabited

/-- A job of a partition (R13): its counter, current phase, the counters of its phases and graphs, and the pairs of phase and
graph that have accepted launches in its present run (R10). -/
structure JobLevel where
  job : Nat
  counter : Counter
  running : Bool
  phase : Nat
  phases : List (Nat × Counter)
  graphs : List (Nat × Counter)
  members : List (Nat × Nat)
  deriving DecidableEq, Repr, Inhabited

/-- A child of a family (R34): its order (spawn, index), what became of it, and its views once handed over. -/
inductive ChildState where
  | waiting | merged | cancelled
  deriving DecidableEq, Repr, Inhabited

/-- One child: order, state, the pool blocks and tile rows of its views. -/
structure Child where
  spawn : Nat
  index : Nat
  uid : Nat
  state : ChildState
  doneAt : Nat
  blocks : List ViewBlock
  tiles : List (Nat × List (List Cell))
  deriving DecidableEq, Repr, Inhabited

/-- The children of one parent and the merge engine's work on them (R34, R343, R322): the children passed so far, whether one
of them has merged, the accumulated view, when the last step ended (or the work in progress ends), whether a step is in
progress, whether it is the fold into the parent's objects, the entry and block it stands at, whether it is suspended, whether it has
been resumed and its CURSOR, in host memory, is still to be written (R322, R335), and, while a block or row is folded into the
parent's objects, the keys of the object's bytes and of those of the accumulated view (R327). -/
structure Family where
  parent : Nat
  core : Nat
  handle : Nat
  table : List ViewEntry
  kids : List Child
  folded : Nat
  any : Bool
  accBlocks : List ViewBlock
  accTiles : List (Nat × List (List Cell))
  stepEnd : Nat
  busy : Bool
  final : Bool
  entry : Nat
  block : Nat
  suspended : Bool
  resuming : Bool
  target : Option (List Nat × List Nat)
  deriving DecidableEq, Repr, Inhabited

/-- A unit saved at a waypoint (R298-R302): its state as it will be restored, the context reserved for it or taken for its
restore and when the restore ends, the bytes of its save area, and the contributions held for it. -/
structure Save where
  core : Nat
  reserved : Option Nat
  due : Option Nat
  unit : UnitId
  image : Ctx
  bytes : Nat
  held : List (Nat × Option FvOp × List (BitVec 40))
  deriving DecidableEq, Repr, Inhabited

/-- The concierge's state of one partition: what a cloakroom image holds of it (R305). `subqStuck` holds while a submission
entry that could not be read waits for a write of SUBQ_CTL (R293); `owed` are launches of host submissions whose counters have
been discarded before COMPLETE could be written into their result words (R26, R293). -/
structure Work where
  nextHandle : Nat
  launches : List Launch
  jobs : List JobLevel
  batches : List Batch
  families : List Family
  saves : List Save
  gquota : Nat
  wpMax : Nat
  quantum : Nat
  slotKb : Nat
  wptab : Word
  subqBase : Word
  subqHead : Nat
  subqTail : Nat
  subqSize : Nat
  subqStuck : Bool
  owed : List Launch
  deriving DecidableEq, Repr, Inhabited

/-- A partition image in a cloakroom bank (R304): the cores, the concierge state, and the units in it whose saved state has met a
data error, once for each error (R323; log 123). -/
structure Image where
  cores : List Core
  work : Work
  struck : List Nat
  deriving DecidableEq, Repr, Inhabited

/-- One partition: its registers (R287-R293, R304, R309, R314, R318) and its concierge state. -/
structure Part where
  trVec : Nat
  brkFrz : Bool
  frTrap : Bool
  fltqBase : Nat
  fltqDropped : Nat
  fltqHead : Nat
  fltqTail : Nat
  fltqSize : Nat
  note : Word
  ptEn : List Bool
  ptBase : List Nat
  en : Bool
  run : Bool
  holdRes : Bool
  ceil : Nat
  poolSize : Nat
  poolBase : Nat
  poolUsed : List Nat
  work : Work
  res : Nat
  valid : List Bool
  saved : Bool
  tags : List Nat
  images : List (Option Image)
  ingress : List Tlb
  deriving DecidableEq, Repr, Inhabited

/-- A packet blocked waiting for a queue entry (R27): who blocked, in order. -/
structure Blocked where
  core : Nat
  ctx : Nat
  part : Nat
  depth : Nat
  granted : Option Nat
  deriving DecidableEq, Repr, Inhabited

/-- One die: who holds each of the 64 queue entries (by partition), and the blocked packets in order. -/
structure Die where
  entries : List (Option Nat)
  blocked : List Blocked
  deriving DecidableEq, Repr, Inhabited

/-! ## Requests on their way -/

/-- Who made a request: a context's lu, its tf unit (for a contribution), its fabric queue, a traverse job, or a message
that came in through the ingress router from a core and context of a package. -/
inductive Origin where
  | lu (core ctx uid tag : Nat)
  | tf (core ctx uid tag : Nat)
  | fq (core ctx uid : Nat)
  | job (core ctx num idx : Nat)
  | peer (pkg core ctx msg : Nat)
  deriving DecidableEq, Repr, Inhabited

/-- A fetch-and-operate request or a combination of them (R123): a leaf with the path it must retrace, or a
combination, first part first. -/
inductive Combo where
  | leaf (who : Origin) (operand : Word) (hops : Nat)
  | pair (first second : Combo)
  deriving DecidableEq, Repr, Inhabited

/-- An atomic request on its way to its home (R265-R267): the key, the routers still to pass as (router, input port)
with the one it has entered first (160 is the fabric ingress), what it carries, and once it has left the last router the
cycle it reaches its home. -/
structure NetReq where
  id : Nat
  key : Nat
  at_ : Atomic
  combo : Combo
  path : List (Nat × Nat)
  entered : Nat
  fabric : Bool
  part : Nat
  due : Option Nat
  deriving DecidableEq, Repr, Inhabited

/-- A peer request that has not been delivered: the plane and peer it goes to, whose it is, and its bytes (R113, R270). -/
structure PeerReq where
  id : Nat
  plane : Nat
  peer : Nat
  who : Origin
  lo : Nat
  size : Nat
  deriving DecidableEq, Repr, Inhabited

/-- An access in the host channel (R110, R113). `value` is what an atomic has read when only its write is still to come. -/
structure HostReq where
  id : Nat
  core : Nat
  ctx : Nat
  uid : Nat
  seq : Nat
  pieces : List (List (Nat × Byte))
  keys : List Nat
  load : Bool
  land : Option Landing
  size : Nat
  signed : Bool
  atomic : Option Atomic
  sa : Bool
  tag : Option Nat
  due : Nat
  value : Word
  deriving DecidableEq, Repr, Inhabited

/-- A fabric request or reply: words as R242 to R244 lay them out, its bytes on the wire (R331), the plane it takes or
took, the context or job it belongs to, and the peer. -/
structure Msg where
  id : Nat
  reply : Bool
  plane : Nat
  peer : Nat
  who : Origin
  words : List Word
  size : Nat
  deriving DecidableEq, Repr, Inhabited

/-- A request that the ingress router of the own package has taken (R267, R312): the partition that translates it, the
segments it reaches, and when it reaches its home once it has left the router. -/
structure Arrival where
  msg : Msg
  part : Nat
  segs : List Seg
  due : Option Nat
  deriving DecidableEq, Repr, Inhabited

/-- A reply or contribution on its way to a context (R244, R85). -/
structure FqReply where
  id : Nat
  who : Origin
  words : List Word
  deriving DecidableEq, Repr, Inhabited

/-- A contribution on its way to a factor vector (R85): the contributor's package, core and context, the operator it
must meet if any (R213), and what must be told once it has combined. -/
structure Contribution where
  id : Nat
  pkg : Nat
  core : Nat
  ctx : Nat
  toCore : Nat
  toCtx : Nat
  fv : Nat
  values : List (BitVec 40)
  op : Option FvOp
  report : Origin
  words : List Word
  due : Nat
  deriving DecidableEq, Repr, Inhabited

/-- Operations on a barrier object (R164, R126), with the class order of R126. -/
inductive BarOp where
  | binit (v : Nat) | barr | bexp (bytes : Nat) | btest | barm (v : Nat) | credit (bytes : Nat)
  deriving DecidableEq, Repr, Inhabited

/-- A barrier operation on its way to the vault atomic unit: the barrier's address, the issuer, the tag of its result (0
for a credit), and when it reaches the unit. -/
structure BarReq where
  addr : Nat
  op : BarOp
  core : Nat
  ctx : Nat
  tag : Nat
  due : Nat
  deriving DecidableEq, Repr, Inhabited

/-! ## Fabric -/

/-- An entry of a timetable (R274). -/
structure TtEntry where
  length : Nat
  guard : Nat
  tx : List Nat
  rx : List Nat
  deriving DecidableEq, Repr, Inhabited

/-- A timetable: its entries and START (R274). -/
structure Timetable where
  entries : List TtEntry
  start : Nat
  deriving DecidableEq, Repr, Inhabited

/-- A flit (R277); `msgs` are the requests and replies whose last byte it holds (log 30). -/
structure Flit where
  src : Nat
  dst : Nat
  seq : Nat
  ack : Nat
  kind : Nat
  payload : List Byte
  crc : BitVec 32
  msgs : List Msg
  deriving DecidableEq, Repr, Inhabited

/-- What a port keeps for one peer (R276-R279, R332, R333): the send queue, the flit being filled and since when, sequence
numbers, the ACK that the last flit to it carried, a NAK that is due and the SEQ and time of the last, the next flit of a
replay, the end of a hold (0 for none), and the time in fiftieths of a ns from which its lanes are free. -/
structure Peer where
  peer : Nat
  queue : List Flit
  fill : Option (Nat × Flit)
  nextSeq : Nat
  expected : Nat
  ackSent : Nat
  nakNeeded : Bool
  nakSeq : Option (Nat × Nat)
  replaying : Option Nat
  holdUntil : Nat
  freeAt : Nat
  deriving DecidableEq, Repr, Inhabited

/-- A replay that an event record waits for (R333): the peer, the SEQ of the last flit of the replay and of what stood behind it
when the hold ended, whether a flit has left since, and when in fiftieths of a ns that flit has been sent to its end. -/
structure ReplayWait where
  peer : Nat
  last : Nat
  begun : Bool
  sent : Option Nat
  deriving DecidableEq, Repr, Inhabited

/-- An event record that waits for what its event had sent again (R333): its words, the peers that were held, whether their hold
has ended, and the replays that began then. -/
structure PendingRecord where
  words : List Word
  peers : List Nat
  ended : Bool
  waits : List ReplayWait
  deriving DecidableEq, Repr, Inhabited

/-- One fabric port (R268-R282, R332, R333). `heard` are the peers that its receive lanes listened to in the entry before the
present one, each with those lanes. -/
structure Plane where
  enable : Bool
  current : Option Timetable
  slot : Nat
  slotStart : Nat
  open_ : Nat
  pending : Option Timetable
  revert : Bool
  txLive : BitVec 16
  rxLive : BitVec 16
  laserOk : BitVec 4
  rejoinTx : BitVec 16
  rejoinRx : BitVec 16
  peers : List Peer
  replay : List Flit
  records : List PendingRecord
  heard : List (Nat × List Nat)
  deriving DecidableEq, Repr, Inhabited

/-! ## The package -/

/-- A self-test in progress (R324): the core and the code of the unit, what met the error, when it ends, and whether the context of
the work that is to run again has been stopped for it. -/
structure SelfTest where
  core : Nat
  code : Nat
  met : ErrAt
  due : Nat
  halted : Bool
  deriving DecidableEq, Repr, Inhabited


/-- STATE of BOOT_STAT (R340). -/
inductive BootState where
  | reset | verifying | running | recovery
  deriving DecidableEq, Repr, Inhabited

/-- Boot, identity and power (R337-R342). `reportAt` is where the report being written goes (R341), and `throtNext` the cycle
from which THROT may step again (R342). `flash` is the flash image, empty where it holds none, and `loading` the one being
verified. -/
structure Boot where
  state : BootState
  before : BootState
  attDone : Bool
  fwVer : Nat
  cause : Nat
  imgAddr : Word
  attAddr : Word
  tHalt : Bool
  temp : Nat
  throt : Nat
  flash : List Byte
  loading : List Byte
  report : Option (List Byte)
  reportAt : Nat
  throtNext : Nat
  modules : Nat
  digest : List Byte
  powerHalted : List Nat
  deriving DecidableEq, Repr, Inhabited

/-- A handler program (R284), empty until loaded, and the cycle in which HELD was last set (R285). -/
structure Handler where
  loaded : Bool
  assoc : Bool
  held : Bool
  heldAt : Nat
  image : List Word
  deriving DecidableEq, Repr, Inhabited

/-- What the slot being executed is, and what `exec` answers about it. `ext` is the slot's extension byte where the
bundle has a header, `ready` the operand when the step has already read it, `next` a branch target, `bubble` its cost and `keepLoop` that it leaves the loop active, `ended` that the unit has ended, `go` a context whose waiting bundle the step is to issue again (R160). -/
structure Issue where
  core : Nat
  ctx : Nat
  slot : Nat
  ext : Option Nat
  lit : Option Word
  ready : Option Val
  out : SlotOut
  next : Option Nat
  bubble : Nat
  keepLoop : Bool
  ended : Bool
  go : Option (Nat × Nat)
  deriving DecidableEq, Repr, Inhabited

/-- The events the model itself brings about: for each the step without an encoding of the same name (spec/95), with
its arguments. The others come from outside the package alone. The last two are no steps of that list: the
vault atomic units apply the barrier operations that have reached them (R126), and a unit whose sy.merge has issued
ends (R169). -/
inductive Event where
  | waitSlotIssue (core : Nat) (ctx : Nat)
  | divisionComplete (core : Nat) (ctx : Nat) (tag : Nat)
  | tlbinvComplete (core : Nat) (ctx : Nat)
  | porterLoadInstall (core : Nat) (ctx : Nat)
  | cloakOutComplete (core : Nat) (ctx : Nat)
  | cloakInComplete (core : Nat) (ctx : Nat)
  | haltComplete (core : Nat) (ctx : Nat)
  | vuResultLand (core : Nat) (ctx : Nat) (tag : Nat)
  | bloadStart (core : Nat) (id : Nat)
  | bloadComplete (core : Nat) (id : Nat)
  | mmaLaunch (core : Nat) (id : Nat)
  | aReadRetirement (core : Nat) (id : Nat)
  | mmaRowWrite (core : Nat) (id : Nat)
  | tfCommandStart (core : Nat) (id : Nat)
  | tfRowStep (core : Nat) (id : Nat)
  | tfCommandEnd (core : Nat) (id : Nat)
  | ffarSerialise (core : Nat) (ctx : Nat)
  | ffarComplete (core : Nat) (ctx : Nat)
  | drainComplete (core : Nat) (ctx : Nat)
  | storeEnter (core : Nat) (ctx : Nat)
  | storePerform (core : Nat) (ctx : Nat) (piece : Nat)
  | channelDeliver (id : Nat)
  | loadResultArrive (core : Nat) (ctx : Nat) (tag : Nat) (value : Word)
  | pageWalkComplete (core : Nat) (part : Nat) (addr : Nat)
  | routerCombine (router : Nat)
  | routerWaitTimeout (router : Nat) (id : Nat)
  | dictLoadComplete (core : Nat) (gen : Nat)
  | xeResWrite (core : Nat) (ctx : Nat) (tag : Nat) (value : Word)
  | jobBegin (core : Nat)
  | jobTransfer (core : Nat) (job : Nat) (idx : Nat)
  | jobComplete (core : Nat) (job : Nat)
  | fqReplyArrive (id : Nat)
  | fvContribution (id : Nat)
  | ringSlotFull (core : Nat) (base : Nat) (slot : Nat)
  | ringSlotFree (core : Nat) (base : Nat) (slot : Nat)
  | joinComplete (part : Nat) (parent : Nat)
  | mergeStep (part : Nat) (parent : Nat)
  | unitStopOnCancel (core : Nat) (ctx : Nat)
  | deadlineReached (core : Nat) (ctx : Nat) (flag : Nat)
  | promiseReached (core : Nat) (ctx : Nat)
  | contextReady (core : Nat) (ctx : Nat)
  | priorityLift (core : Nat) (ctx : Nat)
  | runQuantumExpiry (core : Nat) (ctx : Nat)
  | queueEntryGrant (die : Nat)
  | unitStart (part : Nat) (batch : Nat)
  | launchCounterDiscard (part : Nat) (handle : Nat)
  | subqEntryTake (part : Nat)
  | unitSave (core : Nat) (ctx : Nat)
  | unitResume (part : Nat) (uid : Nat)
  | selfTestComplete (core : Nat) (pass : Bool)
  | faultRecordPerform (part : Nat) (record : List Word)
  | timetableSlotBoundary (plane : Nat) (heard : BitVec 16)
  | flitSend (plane : Nat) (peer : Nat)
  | flitFillTimeout (plane : Nat) (peer : Nat)
  | restripeHoldEnd (plane : Nat)
  | eventRecordPerform (record : List Word)
  | firmwareCheckComplete (controls : List Word)
  | attestReportComplete
  | bootGo
  | barrierUnits
  | mergeEnd (core : Nat) (ctx : Nat)
  deriving DecidableEq, Repr, Inhabited

/-- Everything but memory. `leaving` are the replies that leave a router for another package (R266). The last six fields are
the model's own: `agenda` holds the events still to come, each with the cycle from which it is due, `turn` the next core to issue in this cycle, `out` the bytes the running step has
written, `fresh` the count of free values used, `ids` the last number given to a request, command or unit. -/
structure Mach where
  cores : List Core
  parts : List Part
  dies : List Die
  planes : List Plane
  boot : Boot
  cycle : Nat
  fbTime : Nat
  npkg : Nat
  pkg : Nat
  evqBase : Nat
  evqDropped : Nat
  evqHead : Nat
  evqTail : Nat
  evqSize : Nat
  porterOwn : Word
  handlers : List Handler
  heldReqs : List NetReq
  xin : List Word
  net : List NetReq
  host : List HostReq
  sent : List PeerReq
  parked : List Msg
  leaving : List Msg
  ingress : List Arrival
  asked : List Msg
  replies : List FqReply
  contribs : List Contribution
  bars : List BarReq
  cached : List Nat
  walks : List Walk
  records : List Nat
  tests : List SelfTest
  agenda : List (Nat × Event)
  turn : Nat
  issue : Issue
  out : List (Nat × Byte)
  fresh : Nat
  ids : Nat
  deriving DecidableEq, Repr, Inhabited

/-- The state of the machine: memory, and everything else. -/
structure State where
  mem : Memory
  mach : Mach
  deriving DecidableEq, Repr, Inhabited

/-! ## The reasons a step can stop -/

/-- Faults of the model. -/
inductive Fault where
  /-- Raised by the event HOST_MEMORY_ACCESS alone, when the host names physical memory that the package does not
  have (R102, R106, R336). Safe: the spec gives no effect to such an access. -/
  | noSuchMemory (addr : Nat)
  deriving DecidableEq, Repr

/-- Refusals of the model. -/
inductive Refusal where
  /-- Raised by `exec` for an instruction that has no meaning yet, by its mnemonic. Safe. -/
  | notModelled (mnemonic : String)
  deriving DecidableEq, Repr

/-! ## The machine after package reset -/

/-- An invalid latch. -/
def LatchCell.empty : LatchCell := ⟨none, false⟩
/-- A result port from unit start until its unit's first result (R142). -/
def Port.zero : Port := ⟨0, 0, none⟩
/-- All result ports zero (R142, R313). -/
def Ports.zero : Ports := ⟨.zero, .zero, .zero, .zero, .zero, .zero, .zero, .zero⟩
/-- No loop active, rc 0 (R158). -/
def Loop.idle : Loop := ⟨false, 0, 0, 0, 0, []⟩
/-- An unset descriptor (R46). -/
def Tile.unset : Tile := ⟨false, 0, 0, 0, 0, .f32, false, none, none, none, none, none⟩
/-- A factor vector at unit start: ready, every entry +0 (R39). -/
def FactorVec.zero : FactorVec := ⟨.ready, false, .add, 0, 0, List.replicate 512 0⟩
/-- A counter that counts nothing (R11). -/
def Counter.zero : Counter := ⟨0, 0, 0, false, false⟩
/-- The trap registers' reset values (R314). -/
def TrapRegs.reset : TrapRegs := ⟨false, false, .task, 0, 0, 0, 0, 0, List.replicate 4 0⟩
/-- The 24 latches empty (R39). -/
def noLatches : List LatchCell := List.replicate 24 .empty

/-- A free context after package reset. The spec gives these values at unit start (R39); that they hold from reset
is a DESIGN CHOICE (log 1). -/
def Ctx.reset : Ctx where
  g := List.replicate 64 ⟨0, 0, 0, 0⟩
  p := List.replicate 16 false
  arms := List.replicate 16 ⟨0, 0⟩
  tl := List.replicate 32 .unset
  v := []
  vm := []
  fv := []
  acc := []
  cb := List.replicate 16 none
  pw := List.replicate 8 .unbound
  latch := noLatches
  tx := []
  rx := []
  rxReserved := 0
  peerOut := []
  hold := none
  csw := 0
  ports := .zero
  pc := 0
  issueAt := 0
  status := .free
  ticket := none
  prio := 0
  ownPrio := 0
  lifted := false
  readySince := 0
  runStart := 0
  quantumOver := false
  quantum := 20000
  wpMax := 16384
  wpCount := 0
  loop := .idle
  ranges := List.replicate 8 ⟨false, 0, 0⟩
  priv := .task
  trap := .reset
  bank := none
  passForced := false
  waitIssued := 0
  waitNext := none
  waitOld := none
  waitChanged := false
  waitOn := []
  armHeld := 0
  reached := 0
  paramDue := none
  unit := none
  spawns := 0
  children := .zero
  views := []
  frozen := false
  halted := false
  preempt := false
  record := []
  saveSet := false
  cancelled := false
  stub := none
  bundleNo := 0
  scales := []
  brec := List.replicate 2 none
  landing := []
  loads := []
  pend := []
  buffer := []
  fown := none
  ffar := none
  divUntil := 0
  cuUntil := 0
  mxwFrom := 0
  privOp := none
  fqFrozen := false
  fqHalted := false
  acquires := []

/-- No dictionary. -/
def Dict.empty : Dict := ⟨[], false, 0, 0, [], 0, 0, none⟩

/-- A core after package reset (log 8): JOB runs from 1 (R236), context 0 is chosen first at every level. -/
def Core.reset : Core where
  ctxs := List.replicate 8 .reset
  running := none
  lastChosen := [7, 7, 7, 7]
  mx := []
  bufs := List.replicate 2 ⟨none, .s4, []⟩
  tf := []
  tfEnd := 0
  rings := []
  resv := []
  waiters := []
  jobs := []
  nextJob := 1
  rr := 0
  jobsFrozen := false
  jobsHalted := false
  vuNext := 0
  dicts := List.replicate 2 .empty
  curDict := 0
  tlb := []
  nextIssue := 0
  halted := false
  haltCauses := []
  retired := false

/-- The concierge's state of a partition after reset: handles from 1 (R26), GQUOTA 28 (R287), WPMAX and Q (R290),
SLOTKB 64 (R300), no queue (R293). -/
def Work.reset : Work where
  nextHandle := 1
  launches := []
  jobs := []
  batches := []
  families := []
  saves := []
  gquota := 28
  wpMax := 16384
  quantum := 20000
  slotKb := 64
  wptab := 0
  subqBase := 0
  subqHead := 0
  subqTail := 0
  subqSize := 0
  subqStuck := false
  owed := []

/-- A partition after package reset, its registers at the Reset columns of R287 to R318. -/
def Part.reset : Part where
  trVec := 0
  brkFrz := false
  frTrap := false
  fltqBase := 0
  fltqDropped := 0
  fltqHead := 0
  fltqTail := 0
  fltqSize := 0
  note := 0
  ptEn := [false, false, false]
  ptBase := [0, 0, 0]
  en := false
  run := false
  holdRes := false
  ceil := 3
  poolSize := 0
  poolBase := 0
  poolUsed := []
  work := .reset
  res := 0
  valid := [false, false]
  saved := false
  tags := [0, 0]
  images := [none, none]
  ingress := []

/-- A die after package reset: every queue entry free. -/
def Die.reset : Die := ⟨List.replicate 64 none, []⟩

/-- A fabric port after package reset: off, the default rotor in force (R272), every lane dark as FB_STAT's reset
value says (R282). -/
def Plane.reset : Plane where
  enable := false
  current := none
  slot := 0
  slotStart := 0
  open_ := 0
  pending := none
  revert := false
  txLive := 0
  rxLive := 0
  laserOk := 0
  rejoinTx := 0
  rejoinRx := 0
  peers := []
  replay := []
  records := []
  heard := []

/-- The boot registers after package reset (R340), with an empty flash (log 9) and every UCIe module trained. -/
def Boot.reset : Boot where
  state := .reset
  before := .reset
  attDone := false
  fwVer := 0
  cause := 0
  imgAddr := 0
  attAddr := 0
  tHalt := false
  temp := 0
  throt := 0
  flash := []
  loading := []
  report := none
  reportAt := 0
  throtNext := 0
  modules := 4
  digest := []
  powerHalted := []

/-- No slot being executed. -/
def Issue.idle : Issue := ⟨0, 0, 0, none, none, none, .idle, none, 0, false, false, none⟩

/-- Everything but memory after package reset. -/
def Mach.reset : Mach where
  cores := List.replicate 160 .reset
  parts := List.replicate 8 .reset
  dies := List.replicate 4 .reset
  planes := List.replicate 4 .reset
  boot := .reset
  cycle := 0
  fbTime := 0
  npkg := 1
  pkg := 0
  evqBase := 0
  evqDropped := 0
  evqHead := 0
  evqTail := 0
  evqSize := 0
  porterOwn := 0
  handlers := List.replicate 8 ⟨false, false, false, 0, []⟩
  heldReqs := []
  xin := List.replicate 12 0
  net := []
  host := []
  sent := []
  parked := []
  leaving := []
  ingress := []
  asked := []
  replies := []
  contribs := []
  bars := []
  cached := []
  walks := []
  records := []
  tests := []
  agenda := []
  turn := 0
  issue := .idle
  out := []
  fresh := 0
  ids := 0

/-- The machine right after package reset (R6): the registers at their Reset columns, no unit in any context, memory
with nothing listed. -/
def State.reset : State := ⟨[], .reset⟩

end Sys2Proof.Machine
end

