-- ==== Sys2Proof/Machine/Access.lean ====
section
/-!
DEFINITION. Reading and changing the parts of the state by number, the places of cores (spec/05_memory_spaces.md R101),
the agenda of events, and the cycle figures of R104.
-/

namespace Sys2Proof.Machine

/-! ## Parts of the state -/

/-- Core c; a number above 159 reads as a core after reset. -/
def Mach.core (m : Mach) (c : Nat) : Core := m.cores.getD c .reset
/-- Changes core c. -/
def Mach.onCore (m : Mach) (c : Nat) (f : Core → Core) : Mach := { m with cores := modifyAt f c m.cores }
/-- Context k of core c. -/
def Mach.ctx (m : Mach) (c k : Nat) : Ctx := (m.core c).ctxs.getD k .reset
/-- Changes context k of a core. -/
def Core.onCtx (co : Core) (k : Nat) (f : Ctx → Ctx) : Core := { co with ctxs := modifyAt f k co.ctxs }
/-- Changes context k of core c. -/
def Mach.onCtx (m : Mach) (c k : Nat) (f : Ctx → Ctx) : Mach := m.onCore c (·.onCtx k f)
/-- Partition h. -/
def Mach.part (m : Mach) (h : Nat) : Part := m.parts.getD h .reset
/-- Changes partition h. -/
def Mach.onPart (m : Mach) (h : Nat) (f : Part → Part) : Mach := { m with parts := modifyAt f h m.parts }
/-- Changes the concierge state of partition h. -/
def Mach.onWork (m : Mach) (h : Nat) (f : Work → Work) : Mach := m.onPart h fun p => { p with work := f p.work }
/-- The concierge state of partition h. -/
def Mach.work (m : Mach) (h : Nat) : Work := (m.part h).work
/-- Die d. -/
def Mach.die (m : Mach) (d : Nat) : Die := m.dies.getD d .reset
/-- Changes die d. -/
def Mach.onDie (m : Mach) (d : Nat) (f : Die → Die) : Mach := { m with dies := modifyAt f d m.dies }
/-- The port of plane p. -/
def Mach.plane (m : Mach) (p : Nat) : Plane := m.planes.getD p .reset
/-- Changes the port of plane p. -/
def Mach.onPlane (m : Mach) (p : Nat) (f : Plane → Plane) : Mach := { m with planes := modifyAt f p m.planes }
/-- The context whose slot is being executed. -/
def Mach.me (m : Mach) : Ctx := m.ctx m.issue.core m.issue.ctx
/-- Changes the context whose slot is being executed. -/
def Mach.onMe (m : Mach) (f : Ctx → Ctx) : Mach := m.onCtx m.issue.core m.issue.ctx f
/-- The core whose slot is being executed. -/
def Mach.myCore (m : Mach) : Core := m.core m.issue.core
/-- Changes the core whose slot is being executed. -/
def Mach.onMyCore (m : Mach) (f : Core → Core) : Mach := m.onCore m.issue.core f
/-- A fresh number for a request, command or unit. -/
def Mach.newId (m : Mach) : Nat × Mach := (m.ids + 1, { m with ids := m.ids + 1 })

/-! ## Places (R101) -/

/-- The die of a core. -/
def dieOf (c : Nat) : Nat := c / 40
/-- The column of a core. -/
def colOf (c : Nat) : Nat := c % 10
/-- The row of a core. -/
def rowOf (c : Nat) : Nat := c / 10 % 4
/-- The half-die of a core, which is its partition (R286). -/
def partOf (c : Nat) : Nat := 2 * dieOf c + (if 5 ≤ colOf c then 1 else 0)
/-- The difference of two numbers without sign. -/
def dist (a b : Nat) : Nat := if a ≤ b then b - a else a - b
/-- The core at a die, column and row. -/
def coreAt (die x y : Nat) : Nat := 40 * die + 10 * y + x
/-- Whether a core number names a core of a partition. -/
def inPart (h c : Nat) : Bool := c < 160 && partOf c == h
/-- The partition of the context whose slot is being executed. -/
def Mach.myPart (m : Mach) : Nat := partOf m.issue.core

/-! ## The agenda -/

/-- The order of events due in one cycle: the completions of jobs, whose credits precede the barrier operations of the
cycle (R126), the barrier units, all others in the order in which they were posted, then array row writes, which follow tf
row steps (R210), the routers, which combine what has entered
by then (R266), and last contributions, which combine in the order of R85. -/
def rank : Event → Nat
  | .jobComplete _ _ => 0
  | .barrierUnits => 1
  | .mmaRowWrite _ _ => 3
  | .routerCombine _ => 4
  | .fvContribution _ => 5
  | _ => 2

/-- Inserts an event behind those due earlier, and behind those of its cycle that do not come after it. -/
def insertEvent (t : Nat) (i : Event) : List (Nat × Event) → List (Nat × Event)
  | [] => [(t, i)]
  | (t', i') :: rest =>
    if t < t' ∨ (t = t' ∧ rank i < rank i') then (t, i) :: (t', i') :: rest
    else (t', i') :: insertEvent t i rest

/-- Posts an event for a cycle; one in the past is due at once. -/
def Mach.post (m : Mach) (t : Nat) (i : Event) : Mach :=
  { m with agenda := insertEvent (if t < m.cycle then m.cycle else t) i m.agenda }

/-- Posts an event for the next cycle: what an event does whose time has come but whose condition does not hold yet. -/
def Mach.again (m : Mach) (i : Event) : Mach := m.post (m.cycle + 1) i

/-! ## Cycle figures (R104) -/

/-- From a core to a core's vault. -/
def vaultCycles (c t : Nat) : Nat :=
  if c = t then 12
  else if dieOf c = dieOf t then 24 + 2 * (dist (colOf c) (colOf t) + dist (rowOf c) (rowOf t))
  else 96 + 2 * ((9 - colOf c) + (9 - colOf t) + dist (rowOf c) (rowOf t))

/-- HBM: line present in the memory-side cache, or absent. -/
def hbmCycles (present : Bool) : Nat := if present then 150 else 380

/-- The host window. -/
def hostCycles : Nat := 900

/-- The HBM line of a key. -/
def lineOf (key : Nat) : Nat := key / 64

/-- Whether the line of a key is in the memory-side cache. -/
def Mach.isCached (m : Mach) (key : Nat) : Bool := m.cached.contains (lineOf key)

/-- Allocates the line of a key (R106, R227). -/
def Mach.allocLine (m : Mach) (key : Nat) : Mach :=
  if m.isCached key then m else { m with cached := lineOf key :: m.cached }

/-- Whether a key lies in a vault's barrier area (R54). -/
def isBarrierKey (key : Nat) : Bool := key < 0x010000000000 && 0xFFF000 ≤ key % 0x1000000

end Sys2Proof.Machine
end

