-- ==== Sys2Proof/Machine/Mem.lean ====
section
/-!
DEFINITION. Memory and how addresses reach it: the byte store and its canonical form, the address map
(spec/05_memory_spaces.md R99-R102), page tables, TLBs and walks (spec/18_translation_faults.md R306-R310).
-/

namespace Sys2Proof.Machine

/-! ## Bytes -/

/-- What a byte of memory that is not listed reads as (log 2). -/
def blank : Byte := 0

/-- The byte at a key. -/
def Memory.read (mem : Memory) (key : Nat) : Byte :=
  match mem with
  | [] => blank
  | (k, b) :: rest => if key = k then b else if key < k then blank else Memory.read rest key

/-- Writes a byte, keeping the list sorted and without blank entries. -/
def Memory.write (mem : Memory) (key : Nat) (v : Byte) : Memory :=
  match mem with
  | [] => if v = blank then [] else [(key, v)]
  | (k, b) :: rest =>
    if key < k then (if v = blank then (k, b) :: rest else (key, v) :: (k, b) :: rest)
    else if key = k then (if v = blank then rest else (key, v) :: rest)
    else (k, b) :: Memory.write rest key v

/-- Writes bytes one after another. -/
def Memory.writeAll (mem : Memory) : List (Nat × Byte) → Memory
  | [] => mem
  | (k, v) :: rest => Memory.writeAll (mem.write k v) rest

/-- Every key of a list lies above a bound and rises. -/
def risingFrom : Nat → Memory → Bool
  | _, [] => true
  | low, (k, b) :: rest => low ≤ k && b != blank && risingFrom (k + 1) rest

/-- The canonical form: keys strictly rising, and no entry that an unlisted byte would read as. -/
def Memory.wf (mem : Memory) : Bool := risingFrom 0 mem

/-- The byte at a key as the running step sees it: what it has written itself, else memory. -/
def peek (mem : Memory) (m : Mach) (key : Nat) : Byte :=
  match m.out.reverse.lookup key with
  | some b => b
  | none => mem.read key

/-- Bytes at keys. -/
def peekAll (mem : Memory) (m : Mach) (keys : List Nat) : List Byte :=
  if m.out.isEmpty then keys.map mem.read else keys.map (peek mem m)

/-- The number held by `n` bytes from a key on (R2). -/
def peekNat (mem : Memory) (m : Mach) (key n : Nat) : Nat := natLE (peekAll mem m (upFrom key n))

/-- Records byte writes of the running step. -/
def Mach.write (m : Mach) (cells : List (Nat × Byte)) : Mach := { m with out := m.out ++ cells }

/-- Records the write of bytes from a key on. -/
def Mach.writeBytes (m : Mach) (key : Nat) (bs : List Byte) : Mach := m.write ((upFrom key bs.length).zip bs)

/-- Records the write of an 8-byte word. -/
def Mach.writeWord (m : Mach) (key : Nat) (w : Nat) : Mach := m.writeBytes key (bytesLE 8 w)

/-! ## The map (R99, R102) -/

/-- The windows of the address map. -/
inductive Window where
  | code | vault | hbm | host | unassigned
  deriving DecidableEq, Repr, Inhabited

/-- The first vault address. -/
def vaultStart : Nat := 0x000100000000
/-- The first address of the HBM window, and the key of physical HBM byte 0. -/
def hbmStart : Nat := 0x010000000000
/-- The first address of the host window, and the key of host physical byte 0. -/
def hostStart : Nat := 0x040000000000
/-- The vault base of a core (R102). -/
def vaultBase (c : Nat) : Nat := vaultStart + c * 0x01000000

/-- The window of an address (R99). -/
def windowOf (a : Nat) : Window :=
  if a < 0x000100000000 then .code
  else if a < 0x0001A0000000 then .vault
  else if a < 0x010000000000 then .unassigned
  else if a < 0x020000000000 then .hbm
  else if a < 0x040000000000 then .unassigned
  else if a < 0x440000000000 then .host
  else .unassigned

/-- The core of a vault address (R102). -/
def vaultCore (a : Nat) : Nat := (a - vaultStart) / 0x01000000

/-- Whether the bytes of a range lie in one window, and for vaults in one vault (R100). -/
def oneRange (a size : Nat) : Bool :=
  let z := a + (size - 1)
  windowOf a == windowOf z && (windowOf a != .vault || vaultCore a == vaultCore z)

/-- The number of a translated window in the page-table registers (R309). -/
def Window.index : Window → Nat
  | .code => 0
  | .hbm => 1
  | _ => 2

/-- The first address of a translated window. -/
def Window.start : Window → Nat
  | .hbm => hbmStart
  | .host => hostStart
  | _ => 0

/-! ## Page tables (R307) -/

/-- V of a page-table entry. -/
def pteV (e : Word) : Bool := bits e 63 63 == 1
/-- SA, system-atomic. -/
def pteSA (e : Word) : Bool := bits e 60 60 == 1
/-- ST, streaming. -/
def pteST (e : Word) : Bool := bits e 59 59 == 1
/-- W, stores and atomics permitted. -/
def pteW (e : Word) : Bool := bits e 58 58 == 1
/-- X, fetch permitted. -/
def pteX (e : Word) : Bool := bits e 57 57 == 1
/-- S, supervisor only. -/
def pteS (e : Word) : Bool := bits e 56 56 == 1
/-- The physical address of a page entry. -/
def ptePage (e : Word) : Nat := bits e 47 16 * 65536
/-- The table address of a table entry. -/
def pteTable (e : Word) : Nat := bits e 47 8 * 256

/-- The page sizes of the three levels. -/
def levelSize : Nat → Nat
  | 0 => 0x40000000
  | 1 => 0x200000
  | _ => 0x10000

/-- The entries of a table below the root. -/
def levelEntries : Nat → Nat
  | 1 => 512
  | _ => 32

/-- Reads the tables from one level on: `fuel` levels are left, `table` is the table's HBM byte offset. The answer is
the page's first virtual address, size and entry, or an XLATE detail (R307). -/
def walkLevels (mem : Memory) (m : Mach) (win : Window) (a : Nat) : Nat → Nat → Nat → Nat → Except Nat (Nat × Nat × Word)
  | 0, _, _, _ => .error 2
  | fuel + 1, level, table, index =>
    let e := word (peekNat mem m (hbmStart + table + 8 * index) 8)
    let size := levelSize level
    if !pteV e then .error 1
    else if bits e 62 61 = 1 then
      if (win != .host && 0x10000000000 ≤ ptePage e) || (win == .host && 0x400000000000 ≤ ptePage e) then .error 1
      else if ptePage e % size ≠ 0 then .error 2
      else .ok (win.start + (a - win.start) / size * size, size, e)
    else if bits e 62 61 ≠ 0 then .error 2
    else if level = 2 then .error 2
    else
      let n := levelEntries (level + 1)
      if pteTable e % (8 * n) ≠ 0 then .error 2
      else if 0x10000000000 ≤ pteTable e then .error 2
      else walkLevels mem m win a fuel (level + 1) (pteTable e) ((a - win.start) / levelSize (level + 1) % n)

/-- The size a root table is aligned to (R309). -/
def rootAlign : Window → Nat
  | .code => 4096
  | .hbm => 8192
  | _ => 524288

/-- A whole walk of a partition's tables for an address of a translated window (R307, R309). -/
def walkNow (mem : Memory) (m : Mach) (h : Nat) (a : Nat) : Except Nat (Nat × Nat × Word) :=
  let win := windowOf a
  let p := m.part h
  if !p.ptEn.getD win.index false then .error 1
  else
    let base := p.ptBase.getD win.index 0
    if base % rootAlign win ≠ 0 ∨ 0x10000000000 ≤ base then .error 2
    else walkLevels mem m win a 3 0 base ((a - win.start) / levelSize 0)

/-- The key of an address under a page (R307). -/
def pageKey (win : Window) (vbase size : Nat) (e : Word) (a : Nat) : Nat :=
  (if win = .host then hostStart else hbmStart) + ptePage e / size * size + (a - vbase)

/-! ## TLBs (R310) -/

/-- What a lookup finds. -/
inductive Lookup where
  | hit (t : Tlb) | miss | fault (detail : Nat)
  deriving DecidableEq, Repr

/-- The cached translation of an address in a list. -/
def findTlb (l : List Tlb) (h a : Nat) : Option Tlb :=
  l.find? fun t => t.part == h && t.window == (windowOf a).index && t.vbase ≤ a && a < t.vbase + t.size

/-- Context or job `who` of core c makes the accesses that follow. -/
def Mach.asking (m : Mach) (c who : Nat) : Mach := { m with issue := { m.issue with core := c, ctx := who } }

/-- The walk of an address that has ended in a fault and that the context or job whose accesses are made has waited for. -/
def Mach.failedWalk (m : Mach) (c h a : Nat) : Option Walk :=
  m.walks.find? fun w => w.core == c && w.part == h && w.va / 65536 == a / 65536 && w.fault.isSome
    && m.issue.core == c && w.users.contains m.issue.ctx

/-- Looks an address of a translated window up in a core's cache and among the walks that have ended in a fault for the context
or job that asks. -/
def lookupPage (m : Mach) (c h a : Nat) : Lookup :=
  if !(m.part h).ptEn.getD (windowOf a).index false then .fault 1
  else match findTlb (m.core c).tlb h a with
    | some t => .hit t
    | none =>
      match (m.failedWalk c h a).bind (·.fault) with
      | some d => .fault d
      | none => .miss

/-- The key of an address under a cached translation. -/
def Tlb.key (t : Tlb) (a : Nat) : Nat := pageKey (windowOf a) t.vbase t.size t.pte a

/-- The translation a walk found, as a cache keeps it. -/
def tlbOf (h a : Nat) (r : Nat × Nat × Word) : Tlb := ⟨h, (windowOf a).index, r.1, r.2.1, r.2.2⟩

/-- The translation of a page that a walk found joins a core's cache. -/
def Core.addTlb (co : Core) (t : Tlb) : Core := { co with tlb := t :: co.tlb }

/-- The bits of R308, in their order: the detail of the PROT they raise, if any. -/
def pageDenies (e : Word) (priv : Priv) (store fetch : Bool) : Option Nat :=
  if pteS e && priv == .task then some 4
  else if store && !pteW e then some 3
  else if fetch && !pteX e then some 5
  else none

/-- Splits a range at the 64 KiB boundaries: pieces (address, length). -/
def granules64K : Nat → Nat → Nat → List (Nat × Nat)
  | 0, _, _ => []
  | fuel + 1, a, size =>
    let n := 65536 - a % 65536
    if size = 0 then []
    else if size ≤ n then [(a, size)]
    else (a, n) :: granules64K fuel (a + n) (size - n)

/-! ## Raising -/

/-- A cause of class 5 with a detail and an address (R149). -/
def trap5 (cause : Cause) (detail : Nat) (addr : Nat) : Trap := ⟨cause, detail, word addr, 5, false, false⟩

/-- XLATE with a detail. -/
def xlate {α : Type} (detail addr : Nat) : Except Stop α := .error (.raise (trap5 .xlate detail addr))
/-- PROT with a detail. -/
def prot {α : Type} (detail addr : Nat) : Except Stop α := .error (.raise (trap5 .prot detail addr))
/-- ALIGN. -/
def alignFault {α : Type} (addr : Nat) : Except Stop α := .error (.raise (trap5 .align 0 addr))
/-- ILLMOVE as a value cause of class 2 (R149). -/
def illMove {α : Type} : Except Stop α := .error (.raise ⟨.illMove, 0, 0, 2, false, false⟩)
/-- ILLMOVE with detail OPERAND, class 5 (R149, R315). -/
def illOperand {α : Type} : Except Stop α := .error (.raise (trap5 .illMove 1 0))
/-- ILLBUNDLE, class 1. -/
def illBundle {α : Type} : Except Stop α := .error (.raise ⟨.illBundle, 0, 0, 1, false, false⟩)

/-- Checks an address against the map (R99), its range (R100) and the partition (R102). -/
def checkRange (h a size : Nat) : Except Stop Unit :=
  match windowOf a with
  | .unassigned | .code => xlate 3 a
  | w =>
    if !oneRange a size then alignFault a
    else if w = .vault ∧ partOf (vaultCore a) ≠ h then prot 2 a
    else .ok ()

/-- Translates one piece of a range that stays within a 64 KiB granule: its key and its page's entry. A miss starts a
walk (R310); with no module of the link trained an access to the host window waits (R335). -/
def translatePiece (m : Mach) (c h : Nat) (priv : Priv) (store : Bool) (a : Nat) : Except Stop (Nat × Word) :=
  if windowOf a = .vault then .ok (a, 0)
  else if windowOf a = .host ∧ m.boot.modules = 0 then .error .stall
  else match lookupPage m c h a with
    | .fault d => xlate d a
    | .miss => .error (.walk c h a)
    | .hit t =>
      match pageDenies t.pte priv store false with
      | some d => prot d a
      | none => .ok (t.key a, t.pte)

/-- Translates pieces one after another: segments of keys, each with its page's entry. -/
def translateAll (m : Mach) (c h : Nat) (priv : Priv) (store : Bool) : List (Nat × Nat) → Except Stop (List (Seg × Word))
  | [] => .ok []
  | (a, n) :: rest =>
    match translatePiece m c h priv store a with
    | .error e => .error e
    | .ok (key, e) =>
      match translateAll m c h priv store rest with
      | .error e' => .error e'
      | .ok segs => .ok (((key, n), e) :: segs)

/-- A checked and translated range of memory: segments of keys, each with its page's entry (0 for a vault). -/
def rangePages (m : Mach) (c h : Nat) (priv : Priv) (store : Bool) (a size : Nat) : Except Stop (List (Seg × Word)) :=
  match checkRange h a size with
  | .error e => .error e
  | .ok _ => translateAll m c h priv store (granules64K (size / 65536 + 2) a size)

/-- A checked and translated range of memory: segments of keys and the first page's entry (0 for a vault). -/
def rangeSegs (m : Mach) (c h : Nat) (priv : Priv) (store : Bool) (a size : Nat) : Except Stop (List Seg × Word) :=
  match rangePages m c h priv store a size with
  | .error e => .error e
  | .ok l => .ok (l.map (·.1), ((l.head?).map (·.2)).getD 0)

/-- The keys of segments, in order. -/
def segKeys (segs : List Seg) : List Nat := segs.flatMap fun (k, n) => upFrom k n

/-- Whether a key lies in one of the segments. -/
def inSegs (segs : List Seg) (key : Nat) : Bool := segs.any fun (k, n) => k ≤ key && key < k + n

/-- A key in each 64-byte line of a segment. -/
def segLines (p : Seg) : List Nat := (upFrom 0 ((p.1 % 64 + p.2 + 63) / 64)).map fun i => p.1 / 64 * 64 + 64 * i

/-- Whether a key is one of HBM. -/
def isHbmKey (key : Nat) : Bool := hbmStart ≤ key && key < hostStart

/-- The figure of R104 for an access to segments in HBM: a line that is absent makes the whole access take the longer one. -/
def Mach.hbmFigure (m : Mach) (segs : List Seg) : Nat := hbmCycles ((segs.flatMap segLines).all m.isCached)

/-- The uncontended figure of R104 for an access to segments from an address on, from a core. -/
def rangeCycles (m : Mach) (c a : Nat) (segs : List Seg) : Nat :=
  match windowOf a with
  | .vault => vaultCycles c (vaultCore a)
  | .host => hostCycles
  | _ => m.hbmFigure segs

/-- The lines of HBM that an access allocates (R106): all of those on pages without the streaming attribute, and no line ever leaves
the cache but by a device that starts anew (DESIGN CHOICE, log 100). -/
def Mach.allocPages (m : Mach) (l : List (Seg × Word)) : Mach :=
  l.foldl (fun m p => if pteST p.2 || !isHbmKey p.1.1 then m else (segLines p.1).foldl Mach.allocLine m) m

/-- The entries of the tables that a walk of an address reads, as keys (R307, R310). -/
def walkReads (mem : Memory) (m : Mach) (win : Window) (a : Nat) : Nat → Nat → Nat → Nat → List Nat
  | 0, _, _, _ => []
  | fuel + 1, level, table, index =>
    let key := hbmStart + table + 8 * index
    let e := word (peekNat mem m key 8)
    if pteV e && bits e 62 61 == 0 && level != 2 then
      key :: walkReads mem m win a fuel (level + 1) (pteTable e)
        ((a - win.start) / levelSize (level + 1) % levelEntries (level + 1))
    else [key]

/-- How long a walk of an address takes: the figure of R104 for each entry that it reads (R310). -/
def walkTime (mem : Memory) (m : Mach) (h a : Nat) : Nat :=
  let win := windowOf a
  let base := (m.part h).ptBase.getD win.index 0
  ((walkReads mem m win a 3 0 base ((a - win.start) / levelSize 0)).map fun key => hbmCycles (m.isCached key)).foldl (· + ·) 0

/-- The uncontended figure of R104 for an address with a key, from a core. -/
def accessCycles (m : Mach) (c : Nat) (a key : Nat) : Nat :=
  match windowOf a with
  | .vault => vaultCycles c (vaultCore a)
  | .host => hostCycles
  | _ => hbmCycles (m.isCached key)

end Sys2Proof.Machine
end

