-- ==== Sys2Proof/Machine/Ops.lean ====
section
/-!
DEFINITION. Operations every meaning shares: ending a step, moving past a bundle, blocking at a switch point, taking a
trap and returning from one (spec/18_translation_faults.md R313-R317), fault records (R318, R319), result ports
(spec/07_encoding.md R142) and operand latches (spec/02_state.md R57).
-/

namespace Sys2Proof.Machine

open Host (Outcome)

/-- What `exec` and `step` answer. -/
abbrev Out := Outcome State Fault Refusal

/-! ## Moving past a bundle (R132, R157) -/

/-- The context after its bundle, without a branch: the next bundle, or in a loop the next of the body (R157). -/
def Ctx.advance (x : Ctx) : Ctx :=
  let next := (x.pc + 16) % 2 ^ 48
  if x.loop.active && x.pc == (x.loop.addr + 16 * x.loop.len) % 2 ^ 48 then
    if x.loop.left ≤ 1 then
      { x with pc := next, loop := { x.loop with active := false, left := 0, rc := x.loop.rc + 1 } }
    else
      { x with pc := (x.loop.addr + 16) % 2 ^ 48,
               loop := { x.loop with left := x.loop.left - 1, rc := x.loop.rc + 1 } }
  else { x with pc := next }

/-! ## Switch points (R15-R18, R289, R290) -/

/-- What a switch point does to a context: the WPMAX count restarts, a lift ends, and new values of Q, WPMAX and CEIL
apply. -/
def Ctx.atSwitch (x : Ctx) (p : Part) : Ctx :=
  let own := min x.ownPrio p.ceil
  { x with wpCount := 0, quantumOver := false, quantum := p.work.quantum, wpMax := p.work.wpMax,
           lifted := false, ownPrio := own, prio := own }

/-- The core lets a context's run end. -/
def Mach.switchOut (m : Mach) (c k : Nat) : Mach :=
  m.onCore c fun co =>
    { co.onCtx k (·.atSwitch (m.part (partOf c))) with
      running := if co.running = some k then none else co.running }

/-- A context becomes ready. -/
def Mach.makeReady (m : Mach) (c k : Nat) : Mach :=
  m.onCtx c k fun x => { x with status := .ready, readySince := m.cycle }

/-- A packet joins the blocked packets of its die, unless it waits there already (R27). -/
def Mach.joinBlocked (m : Mach) (c k h depth : Nat) : Mach :=
  m.onDie (h / 2) fun d =>
    if d.blocked.any fun b => b.core == c && b.ctx == k && b.depth == depth then d
    else { d with blocked := d.blocked ++ [⟨c, k, h, depth, none⟩] }

/-- A context blocks on what it waits for; waiting again for the same thing it keeps its place in the order. -/
def Mach.blockOn (m : Mach) (c k : Nat) (w : Wait) : Mach :=
  let (n, m1) := m.newId
  let m2 := match w with
    | .entry depth => (m1.switchOut c k).joinBlocked c k (partOf c) depth
    | _ => m1.switchOut c k
  m2.onCtx c k fun x =>
    { x with status := .blocked w,
             waitOn := [],
             ticket := match x.ticket with
               | some (w', n') => if w' = w then some (w', n') else some (w, n)
               | none => some (w, n) }

/-- Whether another context of the core that blocked earlier waits for the same thing (R163). -/
def Core.earlierWaiter (co : Core) (k : Nat) (w : Wait) : Bool :=
  let mine := match (co.ctxs.getD k .reset).ticket with
    | some (w', n) => if w' = w then some n else none
    | none => none
  (findAt (fun x : Ctx => x.status != .free && match x.ticket with
    | some (w', n) => w' == w && (match mine with
      | some n0 => n < n0
      | none => true)
    | none => false) 0 co.ctxs).isSome

/-! ## Fault records (R318, R319) -/

/-- The code of a cause (R315). -/
def Cause.code : Cause → Nat
  | .illMove => 0x01 | .illBundle => 0x02 | .latchEmpty => 0x03 | .paramUnbound => 0x04 | .align => 0x05
  | .xlate => 0x06 | .prot => 0x07 | .factorVoid => 0x08 | .waypointDistance => 0x09 | .promiseMissed => 0x0A
  | .nestDepth => 0x0B | .sys => 0x0E | .brk => 0x0F

/-- The master word of a context, traverse queue, fq port or core (R174). -/
def masterWord (core kind ctx : Nat) : Word := word (core * 2 ^ 16 + kind * 2 ^ 12 + ctx)

/-- A fault record (R319), as eight words. -/
def faultRecord (type cause detail : Nat) (master wher addr handle cursor info : Word) (time : Nat) : List Word :=
  [word (type * 2 ^ 56 + cause % 256 * 2 ^ 48 + detail % 65536 * 2 ^ 32), master, wher, addr, handle, cursor, info,
    word time]

/-- The figure after which a record can perform at its queue (R318). -/
def queueCycles (m : Mach) (base : Nat) : Nat :=
  match windowOf base with
  | .vault => 12
  | _ => hbmCycles (m.isCached base)

/-- Sends a record to a partition's fault queue. -/
def Mach.report (m : Mach) (h : Nat) (r : List Word) : Mach :=
  m.post (m.cycle + queueCycles m (m.part h).fltqBase) (.faultRecordPerform h r)

/-! ## Barrier objects (R54, R126) -/

/-- Word 0 of a barrier object from its parts. -/
def barWord (phase arrive tx : Nat) : Nat := phase * 2 ^ 63 + arrive * 2 ^ 32 + tx

/-- A phase whose ARRIVE and TXBYTES are both 0 flips (R54). -/
def barFlip (phase arrive tx init : Nat) : Nat :=
  if arrive = 0 ∧ tx = 0 then barWord (1 - phase) init 0 else barWord phase arrive tx

/-- The completion check that follows an ordinary access to barrier objects (R54, R126): a phase whose ARRIVE and TXBYTES are
both 0 flips. `keys` are the bytes read or written. -/
def Mach.settleBarriers (mem : Memory) (m : Mach) (keys : List Nat) : Mach :=
  ((keys.filter isBarrierKey).map (· / 16 * 16)).eraseDups.foldl (fun m a =>
    let w0 := word (peekNat mem m a 8)
    let n := barFlip (bits w0 63 63) (bits w0 47 32) (bits w0 31 0) (bits (word (peekNat mem m (a + 8) 8)) 15 0)
    if bits w0 47 32 = 0 ∧ bits w0 31 0 = 0 then m.writeWord a n else m) m

/-- The bytes of segments that lie in a barrier area. -/
def barrierKeys (segs : List Seg) : List Nat :=
  segs.flatMap fun g =>
    let lo := max g.1 (g.1 / 0x1000000 * 0x1000000 + 0xFFF000)
    if g.1 < hbmStart then upFrom lo (g.1 + g.2 - lo) else []

/-! ## Traps (R313-R317) -/

/-- A vault command waits for banks no longer (R108): a context's, once its bundle has ended otherwise. -/
def Core.leaveBanks (co : Core) (who : Nat) : Core := { co with waiters := co.waiters.filter (·.1 != who) }

/-- A frozen context keeps what its master word names it by, and its run ends (R317; log 130). -/
def Mach.freezeCtx (m : Mach) (c k : Nat) : Mach :=
  (if (m.ctx c k).status = .running then (m.switchOut c k).makeReady c k else m).onCtx c k
    fun x => { x with frozen := true }

/-- Freezes the context with a record of the given type (R316, R317). -/
def Mach.freezeFor (m : Mach) (c k : Nat) (type : Nat) (t : Trap) (pc : Nat) : Mach :=
  (m.freezeCtx c k).report (partOf c)
    (faultRecord type t.cause.code t.detail (masterWord c 0 k) (word pc) t.addr 0 0 0 m.cycle)

/-- What TR_PC receives, with the loop state to be suspended (R315): after SYS and `cu.brk` the next bundle, of which no
slot has issued (R162). -/
def Ctx.resumePoint (x : Ctx) (t : Trap) : Ctx :=
  if t.afterBundle then { x.advance with waitIssued := 0, waitNext := none, waitOld := none, ticket := none, bundleNo := x.bundleNo + 1 }
  else x

/-- The entry of R313 into the handler. -/
def Ctx.enterHandler (x : Ctx) (t : Trap) (vec cycle : Nat) : Ctx :=
  let r := x.resumePoint t
  { x with
    trap := { x.trap with active := true, hw := t.hw, priv := x.priv, slots := r.waitIssued,
                          cause := t.cause.code, detail := t.detail, pc := r.pc % 2 ^ 48, addr := t.addr }
    bank := some ⟨x.latch, x.scales, x.ports, r.loop, r.waitNext, r.waitOld, r.pc % 2 ^ 48⟩
    latch := noLatches
    scales := []
    ports := .zero
    loop := { x.loop with active := false }
    priv := .s
    pc := vec / 16 * 16
    issueAt := cycle + 8
    waitIssued := 0
    waitNext := none
    waitOld := none
    paramDue := none
    ticket := none
    wpCount := if t.cause = .waypointDistance then 0 else x.wpCount }

/-- What waited for walks of core c that have ended in a fault waits no more: context `who`, or a job (R310). -/
def Mach.forgetFaults (m : Mach) (c who : Nat) : Mach :=
  let drop (w : Walk) : Walk := if w.core = c ∧ w.fault.isSome then { w with users := w.users.filter (· != who) } else w
  { m with walks := (m.walks.map drop).filter fun w => w.core != c || w.fault.isNone || !w.users.isEmpty }

/-- Takes a trap: a frozen context for PROT, for BREAK under BRKFRZ and for a double fault, the handler otherwise
(R313, R316, R317). -/
def Mach.takeTrap (m : Mach) (c k : Nat) (t : Trap) : Mach :=
  let x := m.ctx c k
  let p := m.part (partOf c)
  let m := (m.forgetFaults c k).onCore c (·.leaveBanks k)
  if x.trap.active then m.freezeFor c k 0x08 t x.pc
  else if t.cause = .prot then m.freezeFor c k 0x01 t x.pc
  else if t.cause = .brk ∧ p.brkFrz then
    (m.onCtx c k fun x => { x.resumePoint t with passForced := x.passForced || t.hw }).freezeFor c k 0x01 t x.pc
  else m.onCtx c k (·.enterHandler t p.trVec m.cycle)

/-- The return of R316: the trap bank is restored with its scales (R203), the privilege becomes PRIV, ACTIVE falls, the loop is resumed and
the pc is TR_PC with the slots of a wait bundle that had issued. The rest belongs to the bundle that was interrupted: where a handler
has changed TR_PC, or cleared SLOTS, no branch target waits and the operands rename anew (R315). -/
def Ctx.leaveHandler (x : Ctx) : Ctx :=
  match x.bank with
  | none => x
  | some b =>
    let same := x.trap.pc == b.pc
    { x with
      latch := b.latch
      scales := b.scales
      ports := b.ports
      loop := b.loop
      waitNext := if same && x.trap.slots != 0 then b.waitNext else none
      waitOld := if same && x.trap.slots != 0 then b.waitOld else none
      waitIssued := x.trap.slots
      bank := none
      priv := x.trap.priv
      passForced := x.passForced || (same && x.trap.hw && x.trap.cause == 0x0F)
      trap := { x.trap with active := false } }

/-! ## Ending a slot or an event -/

/-- A state after a step's work: the bytes it wrote are committed. -/
def commit (s : State) (m : Mach) : State := ⟨s.mem.writeAll m.out, { m with out := [] }⟩

/-- Whether a walk of a core is under way for the 64 KiB granule of an address. -/
def Walk.covers (w : Walk) (c h a : Nat) : Bool := w.core == c && w.part == h && w.va / 65536 == a / 65536 && w.fault.isNone

/-- Context or job `who` waits for a walk, which starts unless it is under way, eight at most (R310); the clock edge posts its
end. -/
def Mach.startWalk (m : Mach) (c who h a : Nat) : Mach :=
  if m.walks.any (·.covers c h a) then
    let join (w : Walk) : Walk := if w.covers c h a ∧ ¬ w.users.contains who then { w with users := w.users ++ [who] } else w
    { m with walks := m.walks.map join }
  else if 8 ≤ (m.walks.filter fun w => w.core == c && w.fault.isNone).length then m
  else { m with walks := m.walks ++ [⟨c, h, a, none, m.cycle, false, [who]⟩] }

/-- A bundle starts to wait for vault banks, unless it waits already (R108). -/
def Core.awaitBanks (co : Core) (who : Nat) (mask : BitVec 64) : Core :=
  if co.waiters.any (·.1 == who) then co else { co with waiters := co.waiters ++ [(who, mask)] }

/-- What a stop does to context k of core c: its trap is taken, it blocks, or what it stalls on is started or noted. -/
def Mach.meetStop (m : Mach) (c k : Nat) (e : Stop) : Mach :=
  match e with
  | .raise t => m.takeTrap c k t
  | .block w => m.blockOn c k w
  | .stall => m
  | .walk c' h a => m.startWalk c' k h a
  | .banks mask => m.onCore c (·.awaitBanks k mask)
  | .until_ t => (m.onCtx c k fun x => { x with issueAt := t }).post t (.promiseReached c k)
  | .param t => m.onCtx c k fun x => { x with paramDue := some t }

/-- Ends the slot being executed: done, or with what the stop it met does. -/
def endSlot (s : State) (r : Except Stop Mach) : Out :=
  match r with
  | .ok m => .next (commit s { m with issue := { m.issue with out := .done } })
  | .error e =>
    let m := s.mach.meetStop s.mach.issue.core s.mach.issue.ctx e
    .next (commit s { m with issue := { m.issue with out := .stopped e } })

/-- Ends an event: its new state, with the bytes it wrote committed. -/
def endEvent (s : State) (m : Mach) : Out := .next (commit s m)

/-! ## Result ports (R142, R151) -/

/-- The result ports by name. -/
inductive PortName where
  | cu | lnk | ax | vu | lu | xe | sy | tf
  deriving DecidableEq, Repr

/-- Reads a port of the bank. -/
def Ports.get (p : Ports) : PortName → Port
  | .cu => p.cu | .lnk => p.lnk | .ax => p.ax | .vu => p.vu | .lu => p.lu | .xe => p.xe | .sy => p.sy | .tf => p.tf

/-- Replaces a port of the bank. -/
def Ports.set (p : Ports) (n : PortName) (v : Port) : Ports :=
  match n with
  | .cu => { p with cu := v } | .lnk => { p with lnk := v } | .ax => { p with ax := v } | .vu => { p with vu := v }
  | .lu => { p with lu := v } | .xe => { p with xe := v } | .sy => { p with sy := v } | .tf => { p with tf := v }

/-- The result of the slot being executed, readable after `cycles`. -/
def Mach.result (m : Mach) (n : PortName) (w : Word) (cycles : Nat) : Mach :=
  m.onMe fun x => { x with ports := x.ports.set n ⟨w, m.cycle + cycles, none⟩ }

/-- The port awaits the result with a tag. -/
def Mach.awaitResult (m : Mach) (n : PortName) (tag : Nat) : Mach :=
  m.onMe fun x => { x with ports := x.ports.set n { x.ports.get n with tag := some tag } }

/-- Puts an arriving result into a port that awaits it. -/
def Port.arrive (p : Port) (tag : Nat) (w : Word) : Port := if p.tag = some tag then ⟨w, 0, none⟩ else p

/-- A result arrives in a context: in the port that awaits it, be it set aside in the trap bank (R313). -/
def Ctx.arrive (x : Ctx) (n : PortName) (tag : Nat) (w : Word) : Ctx :=
  { x with ports := x.ports.set n ((x.ports.get n).arrive tag w)
           bank := x.bank.map fun b => { b with ports := b.ports.set n ((b.ports.get n).arrive tag w) } }

/-- Reads a port: the wait for an outstanding result is an interlock (R142). -/
def readPort (m : Mach) (p : Port) : Except Stop Word :=
  if p.tag.isSome || m.cycle < p.readyAt then .error .stall else .ok p.val

/-! ## Operand latches (R57) -/

/-- The place of a latch in the bank. -/
def latchIndex : Latch → Nat
  | .cuA => 0 | .cuB => 1 | .axA => 2 | .vuA => 3 | .vuB => 4 | .vuD => 5 | .vuM => 6
  | .mxA => 7 | .mxB => 8 | .mxArs => 9 | .mxBcs => 10 | .mxSca => 11 | .mxScb => 12 | .mxMeta => 13 | .mxAcc => 14
  | .tfA => 15 | .tfB => 16 | .tfD => 17 | .tfF => 18 | .luA => 19 | .luD => 20 | .luB => 21 | .syA => 22 | .syB => 23

/-- A latch of a context. -/
def Ctx.latchCell (x : Ctx) (l : Latch) : LatchCell := x.latch.getD (latchIndex l) .empty

/-- Writes a latch of a context. -/
def Ctx.setLatch (x : Ctx) (l : Latch) (c : LatchCell) : Ctx := { x with latch := modifyAt (fun _ => c) (latchIndex l) x.latch }

/-- A value rather than a reference. -/
def Val.isWord : Val → Bool
  | .word _ => true
  | .ref _ _ => false

/-- A reference of a kind. -/
def Val.isRef (kind : RefKind) : Val → Bool
  | .word _ => false
  | .ref k _ => k == kind

/-- The 64-bit value carried, 0 for a reference. -/
def Val.w : Val → Word
  | .word w => w
  | .ref _ _ => 0

/-- The index a reference names, 0 for a value. -/
def Val.idx : Val → Nat
  | .word _ => 0
  | .ref _ i => i

/-- Raises ILLMOVE if a valid latch of the list holds what its trigger cannot use (R144). -/
def checkKinds (m : Mach) : List (Latch × (Val → Bool)) → Except Stop Unit
  | [] => .ok ()
  | (l, ok) :: rest =>
    match (m.me.latchCell l).val with
    | some v => if ok v then checkKinds m rest else illMove
    | none => checkKinds m rest

/-- Takes a latch that a trigger needs: LATCH_EMPTY with the trigger's code if it is not valid; without hold it
becomes empty (R57). -/
def take (code : Nat) (l : Latch) (m : Mach) : Except Stop (Val × Mach) :=
  let cell := m.me.latchCell l
  match cell.val with
  | none => .error (.raise ⟨.latchEmpty, code, 0, 4, false, false⟩)
  | some v => .ok (v, if cell.hold then m else m.onMe (·.setLatch l .empty))

/-- Takes a latch that a trigger uses only when it is valid. -/
def takeIf (l : Latch) (m : Mach) : Option Val × Mach :=
  let cell := m.me.latchCell l
  match cell.val with
  | none => (none, m)
  | some v => (some v, if cell.hold then m else m.onMe (·.setLatch l .empty))

/-- A trigger that needs one latch. -/
def with1 (code : Nat) (a : Latch) (okA : Val → Bool) (m : Mach) (f : Val → Mach → Except Stop Mach) :
    Except Stop Mach := do
  let _ ← checkKinds m [(a, okA)]
  let (va, m) ← take code a m
  f va m

/-- A trigger that needs two latches. -/
def with2 (code : Nat) (a b : Latch) (okA okB : Val → Bool) (m : Mach) (f : Val → Val → Mach → Except Stop Mach) :
    Except Stop Mach := do
  let _ ← checkKinds m [(a, okA), (b, okB)]
  let (va, m) ← take code a m
  let (vb, m) ← take code b m
  f va vb m

/-- A trigger that needs three latches. -/
def with3 (code : Nat) (a b d : Latch) (okA okB okD : Val → Bool) (m : Mach)
    (f : Val → Val → Val → Mach → Except Stop Mach) : Except Stop Mach := do
  let _ ← checkKinds m [(a, okA), (b, okB), (d, okD)]
  let (va, m) ← take code a m
  let (vb, m) ← take code b m
  let (vd, m) ← take code d m
  f va vb vd m

end Sys2Proof.Machine
end

