-- ==== Sys2Proof/Machine/Lsu.lean ====
section
/-!
DEFINITION. How an access of a context reaches memory: the checks and the translation (spec/05_memory_spaces.md R99,
R100, R102; spec/18 R308), the redirection into view storage (spec/01 R32, R33; spec/19 R328), forwarding from the
context's own stores (spec/06_ordering.md R112), the order against engine accesses (R114), and the entry of a store
into the pending-store queue (R111, R131; spec/11 R220).
-/

namespace Sys2Proof.Machine

/-! ## Views (R32, R33, R328) -/

/-- The size of an element of a view entry (R32, R168). -/
def ViewEntry.esize (e : ViewEntry) : Nat := if e.op = 7 ∧ 3 ≤ e.etype then 8 else 4

/-- The identity of a view entry's operator (R32); a handler declares its own (R284). -/
def identityOf (m : Mach) (e : ViewEntry) : Nat :=
  match e.op with
  | 0 => 0x80000000
  | 1 => 0
  | 2 => 0xFF800000
  | 3 => 0x7F800000
  | 4 => 0xFFFFFFFF
  | 7 => ((m.handlers.getD e.hnd ⟨false, false, false, 0, []⟩).image.getD 1 0).toNat
  | _ => 0

/-- The region entry of a view table that holds a byte, with its number. -/
def regionOf (views : List ViewEntry) (a : Nat) : Option (Nat × ViewEntry) :=
  findAt (fun e => !e.tile && e.base ≤ a && a < e.base + e.length) 0 views

/-- The lowest block of a pool that no view holds (R292). -/
def freeBlock (used : List Nat) : Nat → Nat → Option Nat
  | _, 0 => none
  | b, n + 1 => if used.contains b then freeBlock used (b + 1) n else some b

/-- A pool block, reached through the partition's page tables with supervisor privilege (R33): its key, and the entry of its
page, whose W is not looked at (log 131). -/
def poolPage (m : Mach) (c h block a : Nat) : Except Stop (Nat × Word) :=
  let va := (m.part h).poolBase + 64 * block
  match lookupPage m c h va with
  | .fault _ => xlate 6 a
  | .miss => .error (.walk c h va)
  | .hit t => .ok (t.key va, t.pte)

/-- The block of a view line of the unit in context k of core c, taken and filled with the identity at the first touch
(R33): its key, and whether its page streams. Two entries whose regions share a line take one block each (DESIGN CHOICE, log
92). -/
def viewBlock (m : Mach) (c k : Nat) (n : Nat) (e : ViewEntry) (a : Nat) : Except Stop (Nat × Bool × Mach) :=
  let h := partOf c
  let line := a / 64 * 64
  match (m.ctx c k).unit with
  | none => xlate 5 a
  | some u =>
    match u.blocks.find? fun b => b.entry == n && b.line == line with
    | some b => do
      let (key, pte) ← poolPage m c h b.block a
      .ok (key, pteST pte, m)
    | none =>
      let p := m.part h
      match freeBlock p.poolUsed 0 (p.poolSize * 1024) with
      | none => xlate 5 a
      | some b => do
        let (key, pte) ← poolPage m c h b a
        let idn := identityOf m e
        let size := e.esize
        let fill := (upFrom 0 64).map fun i => (key + i, (BitVec.ofNat 8 (idn / 256 ^ (i % size)) : Byte))
        let m := m.onPart h fun p => { p with poolUsed := b :: p.poolUsed }
        let m := m.onCtx c k fun x =>
          { x with unit := x.unit.map fun u => { u with blocks := u.blocks ++ [⟨n, line, b⟩] } }
        .ok (key, pteST pte, m.write fill)

/-! ## Planning an access -/

/-- Where an access goes: a key for each byte in address order, whether it is local (vault, HBM or view storage),
its cycles by R104, and the page's system-atomic and streaming attributes. -/
structure Access where
  keys : List Nat
  isLocal : Bool
  cycles : Nat
  sa : Bool
  st : Bool
  deriving DecidableEq, Repr

/-- The keys of a range byte by byte where some of it lies in view regions (R328), each with whether its page streams: the
bytes inside go to the view storage, the others through the unit's own translation. -/
def splitKeys (c k h : Nat) (priv : Priv) (store : Bool) (views : List ViewEntry) :
    Mach → List Nat → Except Stop (List (Nat × Bool) × Mach)
  | m, [] => .ok ([], m)
  | m, a :: rest => do
    let (key, m) ← (match regionOf views a with
      | some (n, e) => do
        let (base, st, m) ← viewBlock m c k n e a
        .ok ((base + a % 64, st), m)
      | none => do
        let _ ← checkRange h a 1
        let (key, e) ← translatePiece m c h priv store a
        .ok ((key, pteST e), m) : Except Stop ((Nat × Bool) × Mach))
    let (keys, m) ← splitKeys c k h priv store views m rest
    .ok (key :: keys, m)

/-- The view blocks that the unit of a context holds. -/
def Mach.blocksHeld (m : Mach) (c k : Nat) : Nat := (((m.ctx c k).unit.map (·.blocks)).getD []).length

/-- The figure of R104 for keys byte by byte: the longest of those of the places they lie in; a view block that the access
takes counts as absent (R328). -/
def splitCycles (m : Mach) (c : Nat) (taken : Bool) (keys : List Nat) : Nat :=
  let own := (keys.filter fun key => !isHbmKey key).map fun key => vaultCycles c (vaultCore key)
  let hbm := keys.filter isHbmKey
  own.foldl max (if hbm.isEmpty then 0 else hbmCycles (!taken && hbm.all m.isCached))

/-- Plans an access of the context whose slot is being executed: `align` is the alignment its size asks for. It allocates the
lines that it touches as it issues (DESIGN CHOICE, log 100). -/
def planAccess (m : Mach) (addr : Word) (size align : Nat) (store : Bool) : Except Stop (Access × Mach) :=
  let c := m.issue.core
  let k := m.issue.ctx
  let h := partOf c
  let x := m.me
  let a := addr.toNat
  match windowOf a with
  | .unassigned | .code => xlate 3 a
  | w =>
    if a % align ≠ 0 then alignFault a
    else
      let views := match x.unit with
        | some u => if u.parent.isSome then u.views else []
        | none => []
      if (upFrom a size).any fun b => (regionOf views b).isSome then
        if !oneRange a size then alignFault a
        else do
          let (l, m') ← splitKeys c k h x.priv store views m (upFrom a size)
          let keys := l.map (·.1)
          let cycles := splitCycles m c (m.blocksHeld c k < m'.blocksHeld c k) keys
          .ok (⟨keys, true, cycles, false, false⟩, (l.filter fun p => !p.2 && isHbmKey p.1).foldl (fun m p => m.allocLine p.1) m')
      else do
        let l ← rangePages m c h x.priv store a size
        let segs := l.map (·.1)
        let e := ((l.head?).map (·.2)).getD 0
        .ok (⟨segKeys segs, w != .host, rangeCycles m c a segs, pteSA e, pteST e⟩, m.allocPages l)

/-! ## Forwarding and order (R112, R114, R115) -/

/-- The byte an entry would write at a key, if it has not yet performed that piece. -/
def StoreEntry.byteAt (e : StoreEntry) (key : Nat) : Option Byte := e.pieces.flatten.lookup key

/-- The youngest entry of a context's pending-store queue and store buffer that writes a key. -/
def Ctx.youngest (x : Ctx) (key : Nat) : Option StoreEntry :=
  (x.pend.reverse ++ x.buffer.reverse).find? fun e =>
    e.keys.contains key && (e.atomic.isSome || (e.byteAt key).isSome)

/-- The byte a local load of a context returns (R112): from its youngest store, else from its home; a byte whose
youngest writer is an atomic waits. -/
def loadByte (mem : Memory) (m : Mach) (x : Ctx) (key : Nat) : Except Stop Byte :=
  match x.youngest key with
  | none => .ok (peek mem m key)
  | some e => if e.atomic.isSome then .error .stall else .ok ((e.byteAt key).getD 0)

/-- Bytes by `loadByte`. -/
def loadBytes (mem : Memory) (m : Mach) (x : Ctx) : List Nat → Except Stop (List Byte)
  | [] => .ok []
  | key :: rest => do
    let b ← loadByte mem m x key
    let bs ← loadBytes mem m x rest
    .ok (b :: bs)

/-- Whether an mx command still has memory to read (R204). -/
def MxCmd.reads (q : MxCmd) (key : Nat) : Bool :=
  q.state != .writing && (inSegs q.segs key || inSegs q.metaSegs key)

/-- Whether a tf command still has accesses to a key to perform (R210). -/
def TfCmd.touches (q : TfCmd) (key : Nat) : Bool := q.rows.any (inSegs · key) || q.side.any (·.1 == key)

/-- Whether an engine of the core has an access of context k to one of the keys still to perform (R114). -/
def Core.engineTouches (co : Core) (k : Nat) (keys : List Nat) : Bool :=
  keys.any fun key => (co.mx.any fun q => q.ctx == k && q.reads key) || co.tf.any fun q => q.ctx == k && q.touches key

/-- Whether a load of the barrier area is still on its way to the vault atomic unit (R126). -/
def LoadOut.atBarrier (l : LoadOut) : Bool := l.val.isNone && l.keys.any isBarrierKey

/-- Whether local loads are held back: by a fown (R115), or by an earlier load of the barrier area that has not performed, since
local loads perform in program order (R112, R126). -/
def Ctx.fownHolds (x : Ctx) : Bool :=
  x.loads.any (·.atBarrier) || match x.fown with
    | none => false
    | some n => x.pend.any (·.seq ≤ n)

/-- Splits (address, key, byte) triples into pieces of one granule each (R130). -/
def piecesOf (granule : Nat) : List (Nat × Nat × Byte) → List (List (Nat × Byte))
  | [] => []
  | (a, key, b) :: rest =>
    match piecesOf granule rest, rest with
    | p :: ps, (a', key', _) :: _ =>
      if a / granule = a' / granule ∧ key + 1 = key' then ((key, b) :: p) :: ps else [(key, b)] :: p :: ps
    | ps, _ => [(key, b)] :: ps

/-- Whether a host request goes through the host port as a read and then a write: an atomic on a page without the system-atomic
attribute (R106, R128). -/
def HostReq.split (q : HostReq) : Bool := q.atomic.isSome && !q.sa

/-- A request joins the host channel (R111, R113). One that is split reads in the cycle before its figure (R104). -/
def Mach.joinHost (m : Mach) (q : HostReq) : Mach :=
  let m : Mach := { m with host := m.host ++ [q] }
  (if q.split then m.post (q.due - 1) (.channelDeliver q.id) else m).post q.due (.channelDeliver q.id)

/-- A context's lu queue is full (R220). -/
def Ctx.storesFull (x : Ctx) : Bool := 16 ≤ x.pend.length + x.buffer.length

/-- The most loads and atomics that await results (R220). -/
def Ctx.loadsFull (x : Ctx) : Bool := 16 ≤ x.loads.length

/-- When the last load of the barrier area of a context performs, 0 without one (R126). -/
def Mach.barLoadsDue (m : Mach) (c k : Nat) : Nat :=
  let tags := ((m.ctx c k).loads.filter (·.atBarrier)).map (·.tag)
  if tags.isEmpty then 0
  else m.agenda.foldl (fun t p => match p.2 with
    | .loadResultArrive c' k' tag _ => if c' = c ∧ k' = k ∧ tags.contains tag then max t p.1 else t
    | _ => t) 0

/-- A local store or atomic joins the tail of the pending-store queue (R111), to enter the buffer in the next cycle, after every
earlier load of its context has performed (R112). -/
def Mach.joinPending (m : Mach) (e : StoreEntry) : Mach :=
  (m.onMe fun x => { x with pend := x.pend ++ [e] }).post (max (m.cycle + 1) (m.barLoadsDue m.issue.core m.issue.ctx))
    (.storeEnter m.issue.core m.issue.ctx)

/-- A store of bytes issues: into the pending-store queue, or into the host channel (R111, R131). -/
def storeBytes (m : Mach) (addr : Word) (acc : Access) (bs : List Byte) : Except Stop Mach :=
  let x := m.me
  if m.myCore.engineTouches m.issue.ctx acc.keys then .error .stall
  else if x.storesFull && acc.isLocal then .error (.block (.luQueue true false))
  else
    let (n, m) := m.newId
    let triples := (upFrom addr.toNat bs.length).zip (acc.keys.zip bs)
    if acc.isLocal then
      .ok (m.joinPending ⟨n, acc.keys, piecesOf 16 triples, none, none, false, m.cycle + acc.cycles, false, acc.st⟩)
    else
      .ok (m.joinHost ⟨n, m.issue.core, m.issue.ctx, (x.unit.map (·.uid)).getD 0, n, piecesOf 8 triples, acc.keys, false,
        none, bs.length, false, none, acc.sa, none, m.cycle + acc.cycles, 0⟩)

/-- Whether a host-window byte of a context has an earlier request still in the channel (R113). -/
def Mach.hostPending (m : Mach) (c k : Nat) (keys : List Nat) : Bool :=
  m.host.any fun q => q.core == c && q.ctx == k && q.keys.any keys.contains

/-- Whether an entry of the context's own queues touches one of the keys. -/
def Ctx.ownTouches (x : Ctx) (keys : List Nat) : Bool := (x.pend ++ x.buffer).any fun e => e.keys.any keys.contains

/-- Reads bytes for a move or an engine that needs them at once: a local load by R112, a host-window read at its home
once no earlier request of the context to those bytes is in the channel (R55, R113). -/
def readNow (mem : Memory) (m : Mach) (acc : Access) : Except Stop (List Byte) :=
  let x := m.me
  if m.myCore.engineTouches m.issue.ctx acc.keys then .error .stall
  else if acc.isLocal then
    if x.fownHolds then .error .stall else loadBytes mem m x acc.keys
  else if m.hostPending m.issue.core m.issue.ctx acc.keys then .error .stall
  else .ok (peekAll mem m acc.keys)

/-- Reads bytes for a move: one of the barrier area performs at the vault atomic unit the figure of R104 after the bundle has
first tried to issue, and the bundle stalls until then (R55, R126); all others at once. -/
def readParamBytes (mem : Memory) (m : Mach) (acc : Access) : Except Stop (List Byte) :=
  if acc.keys.any isBarrierKey then
    if m.myCore.engineTouches m.issue.ctx acc.keys || m.me.fownHolds || m.me.ownTouches acc.keys then .error .stall
    else match m.me.paramDue with
      | none => .error (.param (m.cycle + acc.cycles))
      | some t => if m.cycle < t then .error .stall else .ok (peekAll mem m acc.keys)
  else readNow mem m acc

end Sys2Proof.Machine
end

