-- ==== Sys2Proof/Machine/Operands.lean ====
section
/-!
DEFINITION. The operand forms: guards (spec/07_encoding.md R136), immediates and literals (R137, R138), rotation
(spec/08 R158), every source (R141), every destination that is not a trigger (R143), and the frame of a trigger slot.
-/

namespace Sys2Proof.Machine

/-! ## Guards, rotation, immediates -/

/-- A flag of a context. -/
def Ctx.flag (x : Ctx) (i : Nat) : Bool := x.p.getD i false

/-- Whether a guard holds (R136). -/
def Ctx.guardHolds (x : Ctx) : Option Guard → Bool
  | none => true
  | some g => x.flag g.flag.toNat != g.inv

/-- The register a rotating g operand names (R158). -/
def Ctx.rename (x : Ctx) (rot : Bool) (i : Nat) : Nat :=
  if rot then
    let q := x.waitOld.getD (x.ranges, x.loop.rc)
    match q.1.find? fun r => r.en && r.base ≤ i && i < r.base + r.len with
    | some r => r.base + (i - r.base + q.2) % r.len
    | none => i
  else i

/-- The value of a short immediate (R137): nine bits, or seventeen where the slot has an extension byte. -/
def immValue (ext : Option Nat) (v : BitVec 9) : Word :=
  match ext with
  | none => v.signExtend 64
  | some e => sext 17 (e * 512 + v.toNat)

/-- The value of a literal whose slot has the given extension byte (R138). -/
def literalValue (ext : Option Nat) (v : BitVec 30) : Word := v.signExtend 64 <<< (4 * ext.getD 0)

/-- A slice of a general register, by the bus that reads it (R41). -/
def Gpr.slice (r : Gpr) (slot : Nat) : Word :=
  match slot with
  | 0 => r.c
  | 1 => r.v
  | 2 => r.m
  | _ => r.x

/-- Writes the slices named by a mask; an empty mask writes all four (R41). -/
def Gpr.write (r : Gpr) (mask : BitVec 4) (w : Word) : Gpr :=
  let all := mask == 0
  ⟨if all || mask.getLsbD 3 then w else r.c, if all || mask.getLsbD 2 then w else r.v,
    if all || mask.getLsbD 1 then w else r.m, if all || mask.getLsbD 0 then w else r.x⟩

/-! ## Words a context reads of itself -/

/-- The code of a transform (R82). -/
def Xf.code : Xf → Nat
  | .id => 0 | .neg => 1 | .exp2 => 2 | .rcp => 3 | .exp2neg => 4

/-- The code of a tile format (R45). -/
def Fmt.code : Fmt → Nat
  | .f32 => 0 | .f16 => 1 | .bf16 => 2 | .i32 => 3

/-- The geometry word of a descriptor, with RAW_OVF current (R45). -/
def Tile.word (t : Tile) : Word :=
  Machine.word (b2n t.rawOvf * 2 ^ 30 + t.fmt.code * 2 ^ 28 + t.ccnt * 2 ^ 25 + t.col0 * 2 ^ 19 + t.rows * 2 ^ 9 + t.row0)

/-- The code of a factor vector's operator (R49). -/
def FvOp.code : FvOp → Nat
  | .add => 0 | .max => 1 | .min => 2

/-- The state word of a factor vector (R49). -/
def FactorVec.word (f : FactorVec) : Word :=
  match f.state with
  | .ready => 0
  | .pending => Machine.word (2 ^ 62 + b2n f.nn * 2 ^ 61 + f.op.code * 2 ^ 59 + f.remain * 2 ^ 32)
  | .void => Machine.word (2 ^ 63 + f.vcause)

/-- fq.cnt (R56). -/
def Ctx.fqCount (x : Ctx) : Word := Machine.word (x.rx.length * 256 + (64 - x.tx.length))

/-- A field of the unit in a context, 0 where there is none. -/
def Ctx.ofUnit (x : Ctx) (f : UnitId → Nat) : Word := Machine.word ((x.unit.map f).getD 0)

/-- A tl or fv reference that is not usable: beyond its window, or an unset descriptor (R40, R46). -/
def refFaults (x : Ctx) (kind : RefKind) (i : Nat) : Bool :=
  match kind with
  | .v => x.v.length ≤ i
  | .tl => !(x.tl.getD i .unset).isSet
  | .fv => x.fv.length ≤ i
  | .cb => x.cb.length ≤ i
  | .vm => x.vm.length ≤ i

/-- A reference as a move carries it. -/
def refVal (m : Mach) (kind : RefKind) (i : Nat) : Except Stop (Val × Mach) :=
  if refFaults m.me kind i then illMove else .ok (.ref kind i, m)

/-- A value as a move carries it. -/
def okWord (m : Mach) (w : Word) : Except Stop (Val × Mach) := .ok (.word w, m)

/-- A result port as a source. -/
def portVal (m : Mach) (p : Port) : Except Stop (Val × Mach) :=
  match readPort m p with
  | .ok w => okWord m w
  | .error e => .error e

/-- A read of a parameter window (R55): the word at the slot's extension byte. -/
def readParam (mem : Memory) (m : Mach) (i : Nat) : Except Stop (Val × Mach) :=
  let e := m.issue.ext.getD 0
  let bound (m : Mach) : Mach := m.onMe fun x => { x with csw := x.csw ||| 8 }
  match m.me.pw.getD i .unbound with
  | .unbound => .error (.raise ⟨.paramUnbound, i, 0, 4, false, false⟩)
  | .inl ws => if ws.length ≤ e then okWord (bound m) 0 else okWord m (ws.getD e 0)
  | .window a size =>
    if size ≤ e then okWord (bound m) 0
    else do
      let (acc, m) ← planAccess m (word ((a + 8 * e) % 2 ^ 64)) 8 8 false
      let bs ← readParamBytes mem m acc
      okWord (m.settleBarriers mem acc.keys) (word (natLE bs))

/-- A source, as a move of the slot being executed reads it (R141, R142). -/
def readSrc (mem : Memory) (m : Mach) (s : Src) (rot : Bool) : Except Stop (Val × Mach) :=
  let x := m.me
  let i := m.issue
  match s with
  | .g r => okWord m ((x.g.getD (x.rename rot r.toNat) ⟨0, 0, 0, 0⟩).slice i.slot)
  | .v r => refVal m .v r.toNat
  | .tl r => refVal m .tl r.toNat
  | .fv r => refVal m .fv r.toNat
  | .cb r => refVal m .cb r.toNat
  | .vm r => refVal m .vm r.toNat
  | .p r => okWord m (word (b2n (x.flag r.toNat)))
  | .cuRes => portVal m x.ports.cu
  | .cuLnk => portVal m x.ports.lnk
  | .axRes => portVal m x.ports.ax
  | .vuRes => portVal m x.ports.vu
  | .luRes => portVal m x.ports.lu
  | .xeRes => portVal m x.ports.xe
  | .syRes => portVal m x.ports.sy
  | .tfRes => portVal m x.ports.tf
  | .fqRx =>
    match x.rx with
    | [] => .error (.block .fqRx)
    | w :: rest => okWord (m.onMe fun x => { x with rx := rest }) w
  | .fqCnt => okWord m x.fqCount
  | .pw r => readParam mem m r.toNat
  | .cycle => okWord m (word m.cycle)
  | .ctx => okWord m (word i.ctx)
  | .unit => okWord m (x.ofUnit (·.index))
  | .lsize => okWord m (x.ofUnit (·.packet.units))
  | .core => okWord m (word i.core)
  | .die => okWord m (word (dieOf i.core))
  | .pkg => okWord m (word m.pkg)
  | .csw => okWord m x.csw
  | .depth => okWord m (x.ofUnit (·.depth))
  | .prio => okWord m (word x.prio)
  | .lhandle => okWord m (x.ofUnit (·.handle))
  | .jobw => okWord m (x.ofUnit fun u => u.job * 2 ^ 24 + u.phase * 2 ^ 16 + u.graph)
  | .wins => okWord m (x.ofUnit fun u => u.packet.nvm * 2 ^ 29 + u.packet.ncb * 2 ^ 24 + u.packet.nacc * 2 ^ 14
      + u.packet.nfv * 2 ^ 7 + u.packet.nv)
  | .wpcnt => okWord m (word x.wpCount)
  | .part => okWord m (word (partOf i.core))
  | .literal => okWord m (i.lit.getD 0)
  | .zero => okWord m 0

/-- What a trigger slot moves. -/
def readT (mem : Memory) (m : Mach) (o : TOp) : Except Stop (Val × Mach) :=
  match o.src with
  | .src s => readSrc mem m s o.rot
  | .imm v => okWord m (immValue m.issue.ext v)

/-! ## Destinations (R143) -/

/-- Whether a geometry word is invalid for a window of NACC rows (R46). -/
def badGeometry (w : Word) (nacc : Nat) : Bool :=
  bits w 27 25 == 7 || bits w 18 9 == 0 || nacc < bits w 8 0 + bits w 18 9
    || 256 < 4 * bits w 24 19 + 4 * 2 ^ bits w 27 25

/-- The format with a code (R45). -/
def fmtOf : Nat → Fmt
  | 0 => .f32
  | 1 => .f16
  | 2 => .bf16
  | _ => .i32

/-- A descriptor after a valid geometry word (R45, R46): geometry set, every slot empty. -/
def Tile.setGeometry (t : Tile) (w : Word) : Tile :=
  ⟨true, bits w 8 0, bits w 18 9, bits w 24 19, bits w 27 25, fmtOf (bits w 29 28),
    t.rawOvf && bits w 30 30 == 0, none, none, none, none, none⟩

/-- A v register with a value in every lane (R44). -/
def broadcast (w : Word) : List Cell := List.replicate 256 (w.setWidth 32)

/-- Sets a flag of a context; a wait bundle is re-evaluated (R43, R160). -/
def Ctx.setFlag (x : Ctx) (i : Nat) (b : Bool) : Ctx :=
  { x with p := modifyAt (fun _ => b) i x.p, waitChanged := x.waitChanged || x.flag i != b }

/-- What a latch receives (R51): a tl or fv reference moved into a cu latch is converted to a value; a v, vm or cb
reference moved into a cu or ax latch is refused. -/
def latchVal (x : Ctx) (l : Latch) (v : Val) : Except Stop Val :=
  match l, v with
  | .cuA, .ref .tl i | .cuB, .ref .tl i => .ok (.word (x.tl.getD i .unset).word)
  | .cuA, .ref .fv i | .cuB, .ref .fv i => .ok (.word (x.fv.getD i .zero).word)
  | .cuA, .ref _ _ | .cuB, .ref _ _ | .axA, .ref .v _ | .axA, .ref .vm _ | .axA, .ref .cb _ => illMove
  | _, v => .ok v

/-- The writes of mx.sca and mx.scb take effect two bundles later (R203): the latest six are enough to know them by. -/
def Ctx.noteScale (x : Ctx) (l : Latch) (v : Val) : Ctx :=
  let add (isB : Bool) (w : Word) : Ctx :=
    let same := x.scales.filter fun s => s.isB == isB && s.bundle != x.bundleNo
    { x with scales := x.scales.filter (·.isB != isB) ++ same.drop (same.length - 2) ++ [⟨isB, w.setWidth 32, x.bundleNo⟩] }
  match l, v with
  | .mxSca, .word w => add false w
  | .mxScb, .word w => add true w
  | _, _ => x

/-- The effective scale of A or B in the bundle being issued (R203). -/
def Ctx.effectiveScale (x : Ctx) (isB : Bool) : Option Cell :=
  ((x.scales.filter fun w => w.isB == isB && w.bundle + 2 ≤ x.bundleNo).getLast?).map (·.val)

/-- Whether a register or mask that a reference names has an outstanding write (R178). -/
def Ctx.outstanding (x : Ctx) (v : Val) : Bool :=
  match v with
  | .ref .v i => x.landing.any fun l => match l.dst with
    | .v j _ => i == j
    | _ => false
  | .ref .vm i => x.landing.any fun l => match l.dst with
    | .vm j _ => i == j
    | _ => false
  | .ref .fv i => x.landing.any fun l => match l.dst with
    | .fv j _ => i == j
    | _ => false
  | _ => false

/-- Checks what a move carries against its destination: the value causes of R46 and R51, the window of a v destination
(R40), and the scoreboard (R178). -/
def checkDst (x : Ctx) (d : Dst) (v : Val) : Except Stop Unit :=
  match d, v with
  | .v i, .word _ =>
    if x.v.length ≤ i.toNat then illMove
    else if x.outstanding (.ref .v i.toNat) then .error .stall
    else .ok ()
  | .tl _, .word w => if badGeometry w x.acc.length then illMove else .ok ()
  | .latch l _, v => do let _ ← latchVal x l v; .ok ()
  | _, .word _ => .ok ()
  | _, .ref _ _ => illMove

/-- Writes a destination that is not a trigger (R143). -/
def Ctx.writeDst (x : Ctx) (d : Dst) (rot : Bool) (v : Val) : Ctx :=
  match d with
  | .g i mask => { x with g := modifyAt (·.write mask v.w) (x.rename rot i.toNat) x.g }
  | .v i => { x with v := modifyAt (fun _ => broadcast v.w) i.toNat x.v }
  | .tl i => { x with tl := modifyAt (·.setGeometry v.w) i.toNat x.tl }
  | .p i => { x.setFlag i.toNat (v.w != 0) with reached := x.reached &&& ~~~ ((1 : BitVec 16) <<< i.toNat) }
  | .latch l hold =>
    match latchVal x l v with
    | .ok v' => (x.setLatch l ⟨some v', hold⟩).noteScale l v'
    | .error _ => x
  | .none => x

/-! ## The frame of a slot -/

/-- The operand of the slot being executed: none where the guard fails; what the step has already read where it has
(R42, R136). -/
def operand (m : Mach) (guard : Option Guard) (read : Mach → Except Stop (Val × Mach)) :
    Except Stop (Option (Val × Mach)) :=
  match m.issue.ready with
  | some v => .ok (some (v, m))
  | none =>
    if m.me.guardHolds guard then
      match read m with
      | .ok r => .ok (some r)
      | .error e => .error e
    else .ok none

/-- A trigger slot: its guard, its operand T, then the operation. -/
def trigger (o : TOp) (s : State) (f : Memory → Mach → Val → Except Stop Mach) : Out :=
  endSlot s (match operand s.mach o.guard (readT s.mem · o) with
    | .error e => .error e
    | .ok none => .ok s.mach
    | .ok (some (v, m)) => f s.mem m v)

/-- A trigger whose T must be a value: a reference raises ILLMOVE (R144). -/
def triggerW (o : TOp) (s : State) (f : Memory → Mach → Word → Except Stop Mach) : Out :=
  trigger o s fun mem m v =>
    match v with
    | .word w => f mem m w
    | .ref _ _ => illMove

end Sys2Proof.Machine
end

