-- ==== Sys2Proof/Machine/Flags.lean ====
section
/-!
DEFINITION. The status bits an operation sets: the sticky bits and counters of CSW and its write by access code
(spec/02_state.md R58, spec/00_scope.md R5, R8), and the flags of a context (R43).
-/

namespace Sys2Proof.Machine

/-- CSW.FV_EXTRA. -/
def cswFvExtra : Word := 0x80
/-- CSW.SPARSE_META. -/
def cswSparseMeta : Word := 0x40
/-- CSW.SCALE_UNF. -/
def cswScaleUnf : Word := 0x20
/-- CSW.ESC_OVR. -/
def cswEscOvr : Word := 0x10
/-- CSW.PW_BOUND. -/
def cswPwBound : Word := 0x08
/-- CSW.INVALID. -/
def cswInvalid : Word := 0x04

/-- Sets a sticky bit (R8). -/
def Ctx.raiseCsw (x : Ctx) (bit : Word) : Ctx := { x with csw := x.csw ||| bit }

/-- A 16-bit counter of CSW at a place, increased and stopping at 0xFFFF (R58). -/
def addCsw (csw : Word) (place n : Nat) : Word :=
  let old := bits csw (place + 15) place
  let new := min (old + n) 0xFFFF
  word (csw.toNat - old * 2 ^ place + new * 2 ^ place)

/-- FORCED increases (R58, R89). -/
def Ctx.countForced (x : Ctx) (n : Nat) : Ctx := { x with csw := addCsw x.csw 48 n }

/-- SCALE_OVF increases (R58, R75). -/
def Ctx.countScaleOvf (x : Ctx) (n : Nat) : Ctx := { x with csw := addCsw x.csw 32 n }

/-- A write of CSW by the access codes of R58: FORCED and SCALE_OVF are set, each 1 among bits 7:2 clears its bit. -/
def writeCsw (old w : Word) : Word :=
  (w &&& 0xFFFFFFFF00000000) ||| (old &&& 0xFC &&& ~~~ w)

end Sys2Proof.Machine
end

