-- ==== Sys2Proof/Machine/Fetch.lean ====
section
/-!
DEFINITION. Instruction fetch (spec/18_translation_faults.md R306, R308; spec/07_encoding.md R132): the four slots of
the bundle at an address of the code window.
-/

namespace Sys2Proof.Machine

/-- The 32-bit slots in a list of bytes, slot 0 first (R2, R132). -/
def slotsOf (bs : List Byte) : List Cell := (chunks 4 4 bs).map fun c => BitVec.ofNat 32 (natLE c)

/-- Fetches the bundle at an address: XLATE with detail 0x04 outside the code window, the faults of translation, or a
walk to be waited for. -/
def fetchBundle (mem : Memory) (m : Mach) (c : Nat) (priv : Priv) (pc : Nat) : Except Stop (List Cell) :=
  if 0x100000000 ≤ pc then xlate 4 pc
  else match lookupPage m c (partOf c) pc with
    | .fault d => xlate d pc
    | .miss => .error (.walk c (partOf c) pc)
    | .hit t =>
      match pageDenies t.pte priv false true with
      | some d => prot d pc
      | none => .ok (slotsOf (peekAll mem m (upFrom (t.key pc) 16)))

/-- Fetches consecutive bundles: the body of a loop as it stands in memory (R157). -/
def fetchBody (mem : Memory) (m : Mach) (c : Nat) (priv : Priv) (pc : Nat) : Nat → Except Stop (List (List Cell))
  | 0 => .ok []
  | n + 1 => do
    let b ← fetchBundle mem m c priv pc
    let rest ← fetchBody mem m c priv (pc + 16) n
    .ok (b :: rest)

end Sys2Proof.Machine
end

