-- ==== Sys2Proof/Machine/Cu.lean ====
section
/-!
DEFINITION. The cu and ax triggers (spec/08_ops_control.md R150-R158, R162): scalar arithmetic, control flow, the loop
buffer and the rotating ranges, traps, CSW, and the address unit.
-/

namespace Sys2Proof.Machine

/-! ## Shared operations -/

/-- A cu trigger stalls while a privileged operation of the context is still to return its status (R173). -/
def cuFree (m : Mach) : Except Stop Unit := if m.me.privOp.isSome || m.cycle < m.me.cuUntil then .error .stall else .ok ()

/-- A cu operation on T alone. -/
def cuUnary (cycles : Nat) (f : Word → Word) (o : TOp) (s : State) : Out :=
  triggerW o s fun _ m t => do
    let _ ← cuFree m
    .ok (m.result .cu (f t) cycles)

/-- A cu operation on latch a and T. -/
def cuBinary (code cycles : Nat) (f : Word → Word → Word) (o : TOp) (s : State) : Out :=
  triggerW o s fun _ m t =>
    with1 code .cuA Val.isWord m fun a m => do
      let _ ← cuFree m
      .ok (m.result .cu (f a.w t) cycles)

/-- A cu operation on latches a and b and T. -/
def cuTernary (code : Nat) (f : Word → Word → Word → Word) (o : TOp) (s : State) : Out :=
  triggerW o s fun _ m t =>
    with2 code .cuA .cuB Val.isWord Val.isWord m fun a b m => do
      let _ ← cuFree m
      .ok (m.result .cu (f a.w b.w t) 1)

/-- A division (R151): it waits while an earlier one is in progress, and its result lands 24 cycles later. -/
def cuDivision (code : Nat) (f : Word → Word → Word) (o : TOp) (s : State) : Out :=
  triggerW o s fun _ m t =>
    with1 code .cuA Val.isWord m fun a m => do
      let _ ← cuFree m
      if m.cycle < m.me.divUntil then .error .stall
      else
        let (tag, m) := m.newId
        let m := m.onMe fun x => { x with divUntil := m.cycle + 24, ports := { x.ports with cu := ⟨f a.w t, 0, some tag⟩ } }
        .ok (m.post (m.cycle + 24) (.divisionComplete m.issue.core m.issue.ctx tag))

/-- An ax operation (R155). -/
def axBinary (code : Nat) (f : Word → Word → Word) (o : TOp) (s : State) : Out :=
  triggerW o s fun _ m t => with1 code .axA Val.isWord m fun a m => .ok (m.result .ax (f a.w t) 1)

/-- A branch (R156): the target, after a bubble of two cycles. -/
def Mach.branch (m : Mach) (target : Nat) : Mach := { m with issue := { m.issue with next := some target, bubble := 2 } }

/-- jmp, call and ret raise ALIGN on a target that is no bundle address (R156). -/
def branchTo (m : Mach) (t : Word) : Except Stop Mach :=
  if bits t 3 0 ≠ 0 then alignFault t.toNat else .ok (m.branch t.toNat)

/-! ## Arithmetic (R152-R154) -/

/-- The position field of a field control (R154). -/
def fieldPos (t : Word) : Nat := bits t 5 0
/-- The bits of the field, from POS on (R154). -/
def fieldWidth (t : Word) : Nat := min (bits t 12 6) (64 - fieldPos t)
/-- bfx. -/
def bitFieldExtract (a t : Word) : Word := word (a.toNat / 2 ^ fieldPos t % 2 ^ fieldWidth t)
/-- bfi. -/
def bitFieldInsert (a b t : Word) : Word :=
  let old := a.toNat / 2 ^ fieldPos t % 2 ^ fieldWidth t
  word (a.toNat - old * 2 ^ fieldPos t + b.toNat % 2 ^ fieldWidth t * 2 ^ fieldPos t)
/-- Leading zero bits; 64 for 0. -/
def leadingZeros (t : Word) : Word := match topBit t.toNat 64 with
  | some i => word (63 - i)
  | none => 64
/-- Trailing zero bits; 64 for 0. -/
def trailingZeros (t : Word) : Word := match lowBit t.toNat 0 64 with
  | some i => word i
  | none => 64
/-- The high 64 bits of the i64 product. -/
def mulHighSigned (a t : Word) : Word := wordOfInt (a.toInt * t.toInt / 2 ^ 64)
/-- The high 64 bits of the n64 product. -/
def mulHighUnsigned (a t : Word) : Word := word (a.toNat * t.toNat / 2 ^ 64)
/-- divi (R153). -/
def divSigned (a t : Word) : Word := if t = 0 then BitVec.allOnes 64 else wordOfInt (a.toInt.tdiv t.toInt)
/-- divn (R153). -/
def divUnsigned (a t : Word) : Word := if t = 0 then BitVec.allOnes 64 else word (a.toNat / t.toNat)
/-- remi (R153): a − T × divi(a, T). -/
def remSigned (a t : Word) : Word := if t = 0 then a else wordOfInt (a.toInt.tmod t.toInt)
/-- remn (R153). -/
def remUnsigned (a t : Word) : Word := if t = 0 then a else word (a.toNat % t.toNat)
/-- 1 or 0 by a test. -/
def truth (b : Bool) : Word := if b then 1 else 0
/-- ax.lea (R155). -/
def loadEffective (a t : Word) : Word :=
  word ((a + sext 56 (bits t 55 0) <<< bits t 58 56).toNat % 2 ^ 48)

/-! ## The integer triggers (R152) -/

/-- cu.add (R152). -/
def execCuAdd (o : TOp) (s : State) : Out := 
  cuBinary 0x102 1 (fun a t => a + t) o s

/-- cu.sub (R152). -/
def execCuSub (o : TOp) (s : State) : Out := 
  cuBinary 0x103 1 (fun a t => a - t) o s

/-- cu.mul (R152). -/
def execCuMul (o : TOp) (s : State) : Out := 
  cuBinary 0x104 3 (fun a t => a * t) o s

/-- cu.mulh (R152). -/
def execCuMulh (o : TOp) (s : State) : Out := 
  cuBinary 0x105 3 (mulHighSigned) o s

/-- cu.mulhn (R152). -/
def execCuMulhn (o : TOp) (s : State) : Out := 
  cuBinary 0x106 3 (mulHighUnsigned) o s

/-- cu.and (R152). -/
def execCuAnd (o : TOp) (s : State) : Out := 
  cuBinary 0x10B 1 (fun a t => a &&& t) o s

/-- cu.or (R152). -/
def execCuOr (o : TOp) (s : State) : Out := 
  cuBinary 0x10C 1 (fun a t => a ||| t) o s

/-- cu.xor (R152). -/
def execCuXor (o : TOp) (s : State) : Out := 
  cuBinary 0x10D 1 (fun a t => a ^^^ t) o s

/-- cu.andn (R152). -/
def execCuAndn (o : TOp) (s : State) : Out := 
  cuBinary 0x10E 1 (fun a t => a &&& ~~~ t) o s

/-- cu.shl (R152). -/
def execCuShl (o : TOp) (s : State) : Out := 
  cuBinary 0x10F 1 (fun a t => a <<< bits t 5 0) o s

/-- cu.shr (R152). -/
def execCuShr (o : TOp) (s : State) : Out := 
  cuBinary 0x110 1 (fun a t => a >>> bits t 5 0) o s

/-- cu.sar (R152). -/
def execCuSar (o : TOp) (s : State) : Out := 
  cuBinary 0x111 1 (fun a t => a.sshiftRight (bits t 5 0)) o s

/-- cu.rol (R152). -/
def execCuRol (o : TOp) (s : State) : Out := 
  cuBinary 0x112 1 (fun a t => a.rotateLeft (bits t 5 0)) o s

/-- cu.mini (R152). -/
def execCuMini (o : TOp) (s : State) : Out := 
  cuBinary 0x116 1 (fun a t => if a.toInt ≤ t.toInt then a else t) o s

/-- cu.maxi (R152). -/
def execCuMaxi (o : TOp) (s : State) : Out := 
  cuBinary 0x117 1 (fun a t => if a.toInt ≤ t.toInt then t else a) o s

/-- cu.minn (R152). -/
def execCuMinn (o : TOp) (s : State) : Out := 
  cuBinary 0x118 1 (fun a t => if a.toNat ≤ t.toNat then a else t) o s

/-- cu.maxn (R152). -/
def execCuMaxn (o : TOp) (s : State) : Out := 
  cuBinary 0x119 1 (fun a t => if a.toNat ≤ t.toNat then t else a) o s

/-- cu.bfx (R152). -/
def execCuBfx (o : TOp) (s : State) : Out := 
  cuBinary 0x120 1 (bitFieldExtract) o s

/-- cu.ceq (R152). -/
def execCuCeq (o : TOp) (s : State) : Out := 
  cuBinary 0x123 1 (fun a t => truth (a == t)) o s

/-- cu.cne (R152). -/
def execCuCne (o : TOp) (s : State) : Out := 
  cuBinary 0x124 1 (fun a t => truth (a != t)) o s

/-- cu.clti (R152). -/
def execCuClti (o : TOp) (s : State) : Out := 
  cuBinary 0x125 1 (fun a t => truth (a.toInt < t.toInt)) o s

/-- cu.cltn (R152). -/
def execCuCltn (o : TOp) (s : State) : Out := 
  cuBinary 0x126 1 (fun a t => truth (a.toNat < t.toNat)) o s

/-- cu.clei (R152). -/
def execCuClei (o : TOp) (s : State) : Out := 
  cuBinary 0x127 1 (fun a t => truth (a.toInt ≤ t.toInt)) o s

/-- cu.clen (R152). -/
def execCuClen (o : TOp) (s : State) : Out := 
  cuBinary 0x128 1 (fun a t => truth (a.toNat ≤ t.toNat)) o s

/-- cu.divi (R152, R153). -/
def execCuDivi (o : TOp) (s : State) : Out := cuDivision 0x107 divSigned o s

/-- cu.divn (R152, R153). -/
def execCuDivn (o : TOp) (s : State) : Out := cuDivision 0x108 divUnsigned o s

/-- cu.remi (R152, R153). -/
def execCuRemi (o : TOp) (s : State) : Out := cuDivision 0x109 remSigned o s

/-- cu.remn (R152, R153). -/
def execCuRemn (o : TOp) (s : State) : Out := cuDivision 0x10A remUnsigned o s

/-- cu.clz (R152). -/
def execCuClz (o : TOp) (s : State) : Out := cuUnary 1 (leadingZeros) o s

/-- cu.ctz (R152). -/
def execCuCtz (o : TOp) (s : State) : Out := cuUnary 1 (trailingZeros) o s

/-- cu.popc (R152). -/
def execCuPopc (o : TOp) (s : State) : Out := cuUnary 1 (fun t => word (popCount t.toNat 64)) o s

/-- cu.sxb (R152). -/
def execCuSxb (o : TOp) (s : State) : Out := cuUnary 1 (fun t => sext 8 t.toNat) o s

/-- cu.sxh (R152). -/
def execCuSxh (o : TOp) (s : State) : Out := cuUnary 1 (fun t => sext 16 t.toNat) o s

/-- cu.sxw (R152). -/
def execCuSxw (o : TOp) (s : State) : Out := cuUnary 1 (fun t => sext 32 t.toNat) o s

/-- cu.zxb (R152). -/
def execCuZxb (o : TOp) (s : State) : Out := cuUnary 1 (fun t => t &&& 0xFF) o s

/-- cu.zxh (R152). -/
def execCuZxh (o : TOp) (s : State) : Out := cuUnary 1 (fun t => t &&& 0xFFFF) o s

/-- cu.zxw (R152). -/
def execCuZxw (o : TOp) (s : State) : Out := cuUnary 1 (fun t => t &&& 0xFFFFFFFF) o s

/-- cu.bfi (R154). -/
def execCuBfi (o : TOp) (s : State) : Out := cuTernary 0x121 bitFieldInsert o s

/-- cu.sel (R152). -/
def execCuSel (o : TOp) (s : State) : Out := cuTernary 0x122 (fun a b t => if t = 0 then b else a) o s

/-! ## Branches (R156) -/

/-- cu.br (R156). -/
def execCuBr (o : TOp) (s : State) : Out :=
  triggerW o s fun _ m t => do
    let _ ← cuFree m
    .ok (m.branch ((m.me.pc + 16 * t.toNat) % 2 ^ 48))

/-- cu.jmp (R156). -/
def execCuJmp (o : TOp) (s : State) : Out :=
  triggerW o s fun _ m t => do
    let _ ← cuFree m
    branchTo m t

/-- cu.call (R156): cu.lnk := address of the next bundle. -/
def execCuCall (o : TOp) (s : State) : Out :=
  triggerW o s fun _ m t => do
    let _ ← cuFree m
    branchTo (m.result .lnk (word ((m.me.pc + 16) % 2 ^ 48)) 1) t

/-- cu.ret (R156). -/
def execCuRet (o : TOp) (s : State) : Out :=
  triggerW o s fun _ m t => do
    let _ ← cuFree m
    branchTo m t

/-! ## Loops and rotating ranges (R157, R158) -/

/-- cu.loop (R157): the extension byte gives L; the body is captured as the bundle issues. With T = 0 the next bundle follows at
once in an ordinary bundle (DESIGN CHOICE, log 119). -/
def execCuLoop (o : TOp) (s : State) : Out :=
  triggerW o s fun mem m t => do
    let _ ← cuFree m
    let x := m.me
    let len := m.issue.ext.getD 0
    let n := bits t 31 0
    if x.loop.active then .error (.raise (trap5 .nestDepth 2 0))
    else if n = 0 then
      .ok { m with issue := { m.issue with next := some ((x.pc + 16 * (len + 1)) % 2 ^ 48) } }
    else
      let body ← fetchBody mem m m.issue.core x.priv (x.pc + 16) len
      .ok (m.onMe fun x => { x with loop := ⟨true, x.pc, len, n, 0, body⟩ })

/-- Whether an enabled range shares a register with another (R158). -/
def Range.meets (r q : Range) : Bool := r.en && q.en && r.base < q.base + q.len && q.base < r.base + r.len

/-- Whether a range descriptor is invalid among the ranges of a context, its own number apart (R158). -/
def badRange (ranges : List Range) (idx : Nat) (r : Range) : Bool :=
  r.len == 0 || 64 < r.base + r.len || (modifyAt (fun _ => ⟨false, 0, 0⟩) idx ranges).any r.meets

/-- cu.rings (R158). -/
def execCuRings (o : TOp) (s : State) : Out :=
  triggerW o s fun _ m t => do
    let _ ← cuFree m
    let idx := bits t 2 0
    let r : Range := ⟨bits t 23 23 == 1, bits t 13 8, bits t 22 16⟩
    let bad := r.en && badRange m.me.ranges idx r
    let new : Range := if bad || !r.en then ⟨false, 0, 0⟩ else r
    .ok ((m.onMe fun x => { x with ranges := modifyAt (fun _ => new) idx x.ranges }).result .cu (truth (!bad)) 1)

/-! ## Traps and the status word (R58, R162) -/

/-- cu.trap (R162): raises SYS. -/
def execCuTrap (o : TOp) (s : State) : Out :=
  triggerW o s fun _ m t => do
    let _ ← cuFree m
    .error (.raise ⟨.sys, bits t 15 0, 0, 5, false, true⟩)

/-- cu.brk (R162): raises BREAK. -/
def execCuBrk (o : TOp) (s : State) : Out :=
  triggerW o s fun _ m t => do
    let _ ← cuFree m
    .error (.raise ⟨.brk, bits t 15 0, 0, 5, false, true⟩)

/-- cu.csw (R58, R145). -/
def execCuCsw (o : TOp) (s : State) : Out :=
  triggerW o s fun _ m t => do
    let _ ← cuFree m
    .ok (m.onMe fun x => { x with csw := writeCsw x.csw t })

/-! ## The address unit (R155) -/

/-- ax.add (R155). -/
def execAxAdd (o : TOp) (s : State) : Out := axBinary 0x141 (fun a t => a + t) o s

/-- ax.sub (R155). -/
def execAxSub (o : TOp) (s : State) : Out := axBinary 0x142 (fun a t => a - t) o s

/-- ax.shl (R155). -/
def execAxShl (o : TOp) (s : State) : Out := axBinary 0x143 (fun a t => a <<< bits t 5 0) o s

/-- ax.lea (R155). -/
def execAxLea (o : TOp) (s : State) : Out := axBinary 0x144 (loadEffective) o s

/-- ax.and (R155). -/
def execAxAnd (o : TOp) (s : State) : Out := axBinary 0x145 (fun a t => a &&& t) o s

/-! ## A division ends (R151) -/

/-- DIVISION_COMPLETE: the result becomes readable, unless a later cu trigger has replaced cu.res. -/
def execDivisionComplete (core ctx tag : Nat) (s : State) : Out :=
  let land (p : Port) : Port := if p.tag = some tag then ⟨p.val, 0, none⟩ else p
  endEvent s (s.mach.onCtx core ctx fun x =>
    { x with ports := { x.ports with cu := land x.ports.cu }
             bank := x.bank.map fun b => { b with ports := { b.ports with cu := land b.ports.cu } } })

end Sys2Proof.Machine
end

