-- ==== Sys2Proof/Machine/Link.lean ====
section
/-!
DEFINITION. The sending side of the fabric ports (spec/16_fabric.md R268-R278): the entry in force on a plane, the
choice of a plane, the send queues and the filling of flits, and requests on their way to a peer.
-/

namespace Sys2Proof.Machine

/-! ## The timetable in force (R271, R272) -/

/-- The channel of lane `lane` of plane `plane` in slot `slot` of the default rotor. -/
def rotorChannel (plane lane slot : Nat) : Nat := 1 + 3 * (16 * plane + lane) + slot

/-- An entry of the default rotor for a package. -/
def rotorEntry (pkg plane slot : Nat) : TtEntry :=
  let tx (l : Nat) : Nat := if rotorChannel plane l slot = 192 then 255 else (pkg + rotorChannel plane l slot) % 192
  let rx (l : Nat) : Nat :=
    if rotorChannel plane l slot = 192 then 255 else (pkg + 192 - rotorChannel plane l slot) % 192
  ⟨240, 10, (upFrom 0 16).map tx, (upFrom 0 16).map rx⟩

/-- The entries in force on a plane: of the programmed table, else of the default rotor. -/
def Mach.entries (m : Mach) (plane : Nat) : List TtEntry :=
  match (m.plane plane).current with
  | some t => t.entries
  | none => (upFrom 0 3).map (rotorEntry m.pkg plane)

/-- The lanes of an entry that name a peer and are live. -/
def lanesTo (peers : List Nat) (live : BitVec 16) (peer : Nat) : List Nat :=
  (upFrom 0 16).filter fun l => peers.getD l 255 == peer && live.getLsbD l

/-- Whether the timetable of a plane holds at least one live transmit lane to a peer (R270). -/
def Mach.reaches (m : Mach) (plane peer : Nat) : Bool :=
  let p := m.plane plane
  p.enable && (m.entries plane).any fun e => !(lanesTo e.tx p.txLive peer).isEmpty

/-- The plane a new request takes: that of the issuing die, then the next in ascending order mod 4 (R270). -/
def Mach.choosePlane (m : Mach) (die peer : Nat) : Option Nat :=
  ((upFrom die 4).map (· % 4)).find? fun p => m.reaches p peer

/-! ## Send queues (R276, R331) -/

/-- What a port keeps for a peer it has not spoken to yet. -/
def Peer.new (peer : Nat) : Peer := ⟨peer, [], none, 0, 0, 0, false, none, none, 0, 0⟩

/-- What the port of a plane keeps for a peer. -/
def Mach.peer (m : Mach) (plane peer : Nat) : Peer :=
  ((m.plane plane).peers.find? (·.peer == peer)).getD (.new peer)

/-- Replaces what a port keeps for a peer. -/
def Plane.setPeer (p : Plane) (q : Peer) : Plane :=
  if p.peers.any (·.peer == q.peer) then
    { p with peers := p.peers.map fun r => if r.peer = q.peer then q else r }
  else { p with peers := p.peers ++ [q] }

/-- The bytes of the flit being filled. -/
def Peer.filled (q : Peer) : Nat :=
  match q.fill with
  | some (_, f) => f.payload.length
  | none => 0

/-- Whether a message of a number of bytes finds room in a send queue of 64 flits, that being filled among them (R276). -/
def Peer.room (q : Peer) (bytes : Nat) : Bool := q.queue.length + (q.filled + bytes + 127) / 128 ≤ 64

/-- Packs bytes into flits: a full flit joins the queue; `msg` is noted in the flit that holds its last byte. -/
def Peer.pack (pkg now : Nat) (msg : Msg) : Nat → List Byte → Peer → Peer
  | 0, _, q => q
  | fuel + 1, bs, q =>
    let (since, f) := q.fill.getD (now, ⟨pkg, q.peer, 0, 0, 1, [], 0, []⟩)
    let room := 128 - f.payload.length
    if bs.length < room then
      { q with fill := some (since, { f with payload := f.payload ++ bs, msgs := f.msgs ++ [msg] }) }
    else if bs.length = room then
      { q with queue := q.queue ++ [{ f with payload := f.payload ++ bs, msgs := f.msgs ++ [msg] }], fill := none }
    else
      Peer.pack pkg now msg fuel (bs.drop room)
        { q with queue := q.queue ++ [{ f with payload := f.payload ++ bs.take room }], fill := none }

/-- The bytes of a message on the wire. -/
def Msg.bytes (g : Msg) : List Byte := (g.words.flatMap fun w => bytesLE 8 w.toNat).take g.size

/-- Posts an event for a domain time. -/
def Mach.postAt (m : Mach) (t : Nat) (e : Event) : Mach := m.post (m.cycle + (t - m.fbTime)) e

/-- Posts the sending of a flit to a peer: at once, and where the entry is still to open, when it opens (R275). -/
def Mach.postFlit (m : Mach) (p peer : Nat) : Mach :=
  let m := m.post m.cycle (.flitSend p peer)
  if m.fbTime < (m.plane p).open_ then m.postAt (m.plane p).open_ (.flitSend p peer) else m

/-- A message joins the send queue of its plane and peer; a flit that begins to fill is sent 8 ns later at the latest. -/
def Mach.sendMsg (m : Mach) (g : Msg) : Mach :=
  let old := m.peer g.plane g.peer
  let q := Peer.pack m.pkg m.cycle g (g.size / 128 + 2) g.bytes old
  let m := m.onPlane g.plane (·.setPeer q)
  let m := match q.fill with
    | some (since, _) => if since = m.cycle then m.post (m.cycle + 8) (.flitFillTimeout g.plane g.peer) else m
    | none => m
  if q.queue.isEmpty then m else m.postFlit g.plane g.peer

/-! ## Peer requests (R113, R270) -/

/-- The context a request belongs to, where it belongs to a fabric queue. -/
def Origin.queue : Origin → Option (Nat × Nat)
  | .fq c k _ => some (c, k)
  | _ => none

/-- Whether an undelivered request holds back a later one: of the same context, with a common byte, on another plane or
itself held back. -/
def Mach.holdsBack (m : Mach) (old new : PeerReq) : Bool :=
  old.who.queue.isSome && old.who.queue == new.who.queue && old.peer == new.peer && old.id < new.id
    && old.lo < new.lo + new.size && new.lo < old.lo + old.size
    && (old.plane != new.plane || m.parked.any (·.id == old.id))

/-- Sends the parked messages that nothing holds back any more and whose send queue has room, at most `n` (R270, R276). -/
def Mach.unpark (m : Mach) : Nat → Mach
  | 0 => m
  | n + 1 =>
    let free (g : Msg) : Bool := (m.peer g.plane g.peer).room g.size && match m.sent.find? (·.id == g.id) with
      | some r => !(m.sent.any fun old => m.holdsBack old r)
      | none => true
    match m.parked.find? free with
    | some g => Mach.unpark (({ m with parked := m.parked.filter (·.id != g.id) } : Mach).sendMsg g) n
    | none => m

/-- A peer request has been delivered (R111): the drains of its unit, saved or not, no longer wait for it. -/
def Mach.delivered (m : Mach) (id : Nat) : Mach :=
  match m.sent.find? (·.id == id) with
  | none => m
  | some r =>
    let m := { m with sent := m.sent.filter (·.id != id) }
    let m := match r.who.queue with
      | some (c, k) =>
        let gone (x : Ctx) : Ctx := { x with peerOut := x.peerOut.filter (· != id) }
        let each (v : Save) : Save := { v with image := gone v.image }
        (m.onCtx c k gone).onWork (partOf c) fun (w : Work) => { w with saves := w.saves.map each }
      | none => m
    m.unpark m.parked.length

/-- A message that finds its send queue full waits at its port (R276). -/
def Mach.offerMsg (m : Mach) (g : Msg) : Mach :=
  if (m.peer g.plane g.peer).room g.size then m.sendMsg g else { m with parked := m.parked ++ [g] }

/-- A request to a peer is handed to its port: into the ingress of the own package a cycle later, or into the send queue
of its plane, once no earlier request holds it back. -/
def Mach.launchRequest (m : Mach) (g : Msg) (lo size : Nat) : Mach :=
  let r : PeerReq := ⟨g.id, g.plane, g.peer, g.who, lo, size⟩
  let held := m.sent.any fun old => m.holdsBack old r
  let m := { m with sent := m.sent ++ [r] }
  let m := match g.who.queue with
    | some (c, k) => m.onCtx c k fun x => { x with peerOut := x.peerOut ++ [g.id] }
    | none => m
  if g.peer = m.pkg then Mach.post { m with ingress := m.ingress ++ [⟨g, 0, [], none⟩] } (m.cycle + 1) (.channelDeliver g.id)
  else if held then { m with parked := m.parked ++ [g] }
  else m.offerMsg g

end Sys2Proof.Machine
end

