-- ==== Sys2Proof/Machine/Wait.lean ====
section
/-!
DEFINITION. What a context can wait for, and when it has come (spec/01_execution_model.md R15): the conditions of drains and releases
(spec/06_ordering.md R117, R121), of queues, vectors and ring slots.
-/

namespace Sys2Proof.Machine

/-! ## Factor vectors as earlier commands leave them (R264) -/

/-- The state a tf command of the context leaves a vector in, judged before it runs. -/
def TfCmd.leaves (q : TfCmd) (i : Nat) (st : FvState) : FvState :=
  if q.fv ≠ i then st
  else match q.op with
    | .fvset => if bits q.ctl 47 32 = 0 then .ready else .pending
    | .trsum | .trmax | .tcsum | .tcmax | .trsumr | .trmaxr => if bits q.ctl 3 3 = 1 then .pending else .ready
    | _ => st

/-- The state of factor vector i of context k as its earlier tf commands leave it (R264). -/
def Mach.fvState (m : Mach) (c k i : Nat) : FvState :=
  ((m.core c).tf.filter fun q => q.ctx == k && !q.ended).foldl (fun st q => q.leaves i st) (((m.ctx c k).fv.getD i .zero).state)

/-! ## Conditions of a drain or release -/

/-- A job that is neither complete nor cancelled (R237). -/
def Job.live (j : Job) : Bool :=
  match j.state with
  | .queued | .running | .suspended => true
  | _ => false

/-- Whether a job is of the unit in context k. -/
def Core.ownsJob (co : Core) (k : Nat) (j : Job) : Bool := (co.ctxs.getD k .reset).unit.any fun u => u.uid == j.uid

/-- Whether a tf command has memory accesses still to perform. -/
def TfCmd.unread (q : TfCmd) : Bool := q.rows.any (!·.isEmpty) || !q.side.isEmpty

/-- Whether no mx or tf command of context k older than the number `n` has memory accesses still to perform. -/
def Core.enginesDrained (co : Core) (k n : Nat) : Bool :=
  !(co.mx.any fun q => q.ctx == k && decide (q.id < n) && q.state != .writing)
    && !(co.tf.any fun q => q.ctx == k && decide (q.id < n) && q.unread)

/-- Whether the loads of a context older than the number `n` have read their values. -/
def Ctx.loadsRead (x : Ctx) (n : Nat) : Bool := x.loads.all fun l => n ≤ l.tag || l.val.isSome || l.keys.isEmpty

/-- Whether every access of the context older than the number `n` in the local classes has performed. -/
def Mach.localDone (m : Mach) (c k n : Nat) : Bool :=
  let x := m.ctx c k
  x.pend.all (n ≤ ·.seq) && x.buffer.all (n ≤ ·.seq) && (m.core c).enginesDrained k n && x.loadsRead n

/-- Whether no host-window access of the unit in a context older than `n` is in the channel. -/
def Mach.hostDone (m : Mach) (c k n : Nat) : Bool :=
  !(m.host.any fun q => (m.ctx c k).unit.any (·.uid == q.uid) && q.seq < n)

/-- Whether every peer request of the context older than `n` has been delivered. -/
def Mach.peerDone (m : Mach) (c k n : Nat) : Bool := (m.ctx c k).peerOut.all (n ≤ ·)

/-- Whether the accesses that a scope covers and that are older than `n` have performed (R120, R121). -/
def Mach.coveredDone (m : Mach) (c k scope n : Nat) : Bool :=
  m.localDone c k n && (scope < 2 || m.peerDone c k n) && (scope < 3 || m.hostDone c k n)

/-- The condition of a drain of the classes in a mask (R117, R226). -/
def Mach.drainDone (m : Mach) (c k mask : Nat) : Bool :=
  let all := m.ids + 1
  (!bit mask 0 || ((m.ctx c k).pend.isEmpty && (m.ctx c k).buffer.isEmpty && (m.core c).enginesDrained k all))
    && (!bit mask 1 || m.peerDone c k all)
    && (!bit mask 2 || m.hostDone c k all)
    && (!bit mask 3 || !((m.core c).jobs.any fun j => (m.core c).ownsJob k j && j.live))

/-! ## When a blocked context is ready (R15) -/

/-- The ring record a base names. -/
def Core.ring (co : Core) (base : Nat) : Option Ring := co.rings.find? (·.base == base)

/-- The state of a slot of a ring. -/
def Ring.slotState (r : Ring) (i : Nat) : SlotState := (r.slots.getD i ⟨.free, false, none, false, 0⟩).state

/-- Commands of a context in the mx queue: those that are not over (R204; log 14). -/
def Core.mxQueued (co : Core) (k : Nat) : Nat := (co.mx.filter fun q => q.ctx == k).length

/-- Commands of a context in the tf queue: those that have not ended (R210; spec/13_prog_pending_tiles.md). -/
def Core.tfQueued (co : Core) (k : Nat) : Nat := (co.tf.filter fun q => q.ctx == k && !q.ended).length

/-- Words of fq.rx neither occupied nor reserved (R245). -/
def Ctx.rxSpace (x : Ctx) : Nat := 64 - (x.rx.length + x.rxReserved)

/-- Whether what a context waits for has come (R15): of several vectors, that none is pending or one is void (R94; log 113). -/
def Mach.waitDone (m : Mach) (c k : Nat) (w : Wait) : Bool :=
  let co := m.core c
  let x := m.ctx c k
  match w with
  | .mxQueue => co.mxQueued k < 4
  | .tfQueue => co.tfQueued k < 4
  | .xeQueue => (co.jobs.filter (·.live)).length < 32
  | .luQueue store load => !(store && x.storesFull) && !(load && x.loadsFull)
  | .fqTx => x.tx.length < 64
  | .fqRx => !x.rx.isEmpty
  | .fqPort => !x.fqFrozen && !x.fqHalted
  | .fqSpace n => n ≤ x.rxSpace
  | .sendQueue p peer bytes =>
    match (m.plane p).peers.find? (·.peer == peer) with
    | some q => q.room bytes
    | none => true
  | .factor l => (l.any fun i => m.fvState c k i == .void) || l.all fun i => m.fvState c k i != .pending
  | .ringFree b => match co.ring b with
    | some r => r.slotState r.head == .free
    | none => true
  | .ringFull b => match co.ring b with
    | some r => r.slotState r.tail == .full
    | none => true
  | .waitFlags => false
  | .entry _ => (m.die (dieOf c)).blocked.any fun b => b.core == c && b.ctx == k && b.granted.isSome
  | .join => !((m.work (partOf c)).families.any fun f => some f.parent == x.unit.map (·.uid))
  | .drain mask => m.drainDone c k mask
  | .ffar => x.ffar.isNone
  | .dictFree =>
    let g := 1 - co.curDict
    !(co.jobs.any fun j => j.live && j.gen == some g) && !(co.dicts.getD g .empty).loading

end Sys2Proof.Machine
end

