-- ==== Sys2Proof/Machine/Bundle.lean ====
section
/-!
DEFINITION. How a bundle issues (spec/07_encoding.md R132-R149, spec/02_state.md R42): its encoding checks, the reading
of every source before any write, latch writes before triggers, the choice among several faults, wait bundles
(spec/08_ops_control.md R160), and what happens as it retires: the pc, the loop, the WPMAX count, yields and
waypoints (spec/17_scheduling.md R295). The meaning of one slot is a parameter, which the step gives as `exec`.
-/

namespace Sys2Proof.Machine

/-- The meaning of one slot. -/
abbrev Exec := Instr → State → Out

/-! ## The encoding of a bundle (R138-R140, R148) -/

/-- The form of a slot (R134). -/
def formOf (w : Cell) : Nat := field w.toNat 31 30
/-- The source field of a slot. -/
def sourceOf (w : Cell) : Nat := field w.toNat 23 15
/-- The destination field of a slot. -/
def destOf (w : Cell) : Nat := field w.toNat 14 6
/-- A slot of the move form whose source is the literal. -/
def takesLiteral (w : Cell) : Bool := formOf w == 0 && sourceOf w == 0x1FE
/-- Whether slot 0 of a bundle holds a header. -/
def hasHeader (ws : List Cell) : Bool := formOf (ws.getD 0 0) == 3
/-- The extension byte of a slot (R139), none without a header and in slot 0. -/
def extOf (ws : List Cell) (k : Nat) : Option Nat :=
  if hasHeader ws ∧ k ≠ 0 then some (field (ws.getD 0 0).toNat (8 * k - 1) (8 * (k - 1))) else none

/-- Whether a slot carries a trigger of cu, privileged or not (R133). -/
def isCuTrigger (w : Cell) : Bool :=
  formOf w < 2 && (trigOfCode (destOf w)).isSome && (unitOfCode (destOf w) == .cu || unitOfCode (destOf w) == .cuPriv)

/-- The ILLBUNDLE conditions of one slot (R138-R140). -/
def illBundleSlot (ws : List Cell) (k : Nat) : Bool :=
  let w := ws.getD k 0
  match formOf w with
  | 3 => k != 0 || field w.toNat 26 24 != 0
  | 2 => k == 0 || !takesLiteral (ws.getD (k - 1) 0) || 15 < (extOf ws k).getD 0
  | form =>
    let loop := destOf w == 0x12D
    let param := form == 0 && 0x140 ≤ sourceOf w && sourceOf w < 0x148
    (takesLiteral w && (k == 3 || formOf (ws.getD (k + 1) 0) != 2))
      || (loop && (form == 1 || param))
      || match extOf ws k with
        | none => loop
        | some e => if loop then e == 0 || 32 < e else form == 0 && !param && e != 0

/-- ILLBUNDLE of a bundle (R148). -/
def illBundleOf (ws : List Cell) : Bool :=
  (upFrom 0 4).any (illBundleSlot ws) || 1 < (ws.filter isCuTrigger).length

/-- A window index at or above the window's size in a slot's source or destination (R40). -/
def windowFault (x : Ctx) (i : Instr) : Bool :=
  let src : Src → Bool
    | .v r => x.v.length ≤ r.toNat
    | .fv r => x.fv.length ≤ r.toNat
    | .cb r => x.cb.length ≤ r.toNat
    | .vm r => x.vm.length ≤ r.toNat
    | _ => false
  let dst : Dst → Bool
    | .v r => x.v.length ≤ r.toNat
    | _ => false
  match i with
  | .move _ s d _ => src s || dst d
  | .shortImmediate _ _ d _ => dst d
  | i => match i.trigger with
    | some (_, ⟨_, .src s, _⟩) => src s
    | _ => false

/-- ILLMOVE among the encoding causes of one slot (R148): refused by the decoder, on a bus that may not carry it, or
beyond a window. -/
def illMoveSlot (x : Ctx) (ws : List Cell) (k : Nat) : Bool :=
  match decodeSlot (ws.getD k 0) with
  | .error _ => true
  | .ok i =>
    windowFault x i || match i.trigger with
      | some (d, _) => !busCarries k (unitOfCode d)
      | none => false

/-- The encoding cause of a bundle, if it has one (R149). -/
def encodingTrap (x : Ctx) (ws : List Cell) : Option Trap :=
  if illBundleOf ws then some ⟨.illBundle, 0, 0, 1, false, false⟩
  else if (upFrom 0 4).any (illMoveSlot x ws) then some ⟨.illMove, 0, 0, 2, false, false⟩
  else none

/-! ## Slots -/

/-- A slot ready to issue: its number, instruction, extension byte and literal. -/
structure Slot where
  k : Nat
  instr : Instr
  ext : Option Nat
  lit : Option Word
  deriving DecidableEq, Repr

/-- The literal a slot consumes (R138). -/
def literalOf (ws : List Cell) (k : Nat) : Option Word :=
  if takesLiteral (ws.getD k 0) then
    match decodeSlot (ws.getD (k + 1) 0) with
    | .ok (.literal v) => some (literalValue (extOf ws (k + 1)) v)
    | _ => none
  else none

/-- The slots of a bundle that hold moves: neither a header nor a literal. -/
def moveSlots (ws : List Cell) : List Slot :=
  (upFrom 0 4).filterMap fun k =>
    match decodeSlot (ws.getD k 0) with
    | .ok (.header _ _ _ _ _ _) | .ok (.literal _) | .error _ => none
    | .ok i => some ⟨k, i, extOf ws k, literalOf ws k⟩

/-- The guard of a slot's move. -/
def guardOfInstr : Instr → Option Guard
  | .move g _ _ _ => g
  | .shortImmediate g _ _ _ => g
  | i => match i.trigger with
    | some (_, o) => o.guard
    | none => none

/-- The state in which a slot is executed for context k of core c. -/
def Mach.atSlot (m : Mach) (c k : Nat) (sl : Slot) (ready : Option Val) : Mach :=
  { m with issue := { m.issue with core := c, ctx := k, slot := sl.k, ext := sl.ext, lit := sl.lit, ready := ready,
                                   out := .idle } }

/-- Reads the source of a slot and checks its destination (R42, R149). -/
def readSlot (mem : Memory) (m : Mach) (c k : Nat) (sl : Slot) : Except Stop (Val × Mach) :=
  let m := m.atSlot c k sl none
  match sl.instr with
  | .move _ s d rot => do
    let (v, m) ← readSrc mem m s rot
    let _ ← checkDst m.me d v
    .ok (v, m)
  | .shortImmediate _ v d _ => do
    let w := Val.word (immValue sl.ext v)
    let _ ← checkDst m.me d w
    .ok (w, m)
  | i => match i.trigger with
    | some (_, o) => readT mem m o
    | none => okWord m 0

/-- The stop that decides for a bundle: a trap before all else, the first class and within it the lowest slot (R149);
then a block; then a stall. -/
def worse : Option (Nat × Stop) → Nat × Stop → Nat × Stop
  | none, b => b
  | some (i, .raise t), (j, .raise u) => if u.cls < t.cls ∨ (u.cls = t.cls ∧ j < i) then (j, .raise u) else (i, .raise t)
  | some (i, .raise t), _ => (i, .raise t)
  | some _, (j, .raise u) => (j, .raise u)
  | some (i, .block w), _ => (i, .block w)
  | some _, (j, .block w) => (j, .block w)
  | some a, _ => a

/-- What a bundle's slots have read so far: the values, the state with what the reads changed, the trap met, the slots whose
source raised it, each with a value of the kind that its source gives, and what a source or a destination makes the bundle wait
for. -/
structure Reads where
  vals : List (Slot × Val)
  mach : Mach
  stop : Option (Nat × Stop)
  late : List (Slot × Val)
  wait : Option (Nat × Stop)

/-- The unit whose latches or trigger a slot's destination belongs to; the privileged triggers use those of cu. -/
def Slot.unit (sl : Slot) : Option Funit :=
  let own (u : Funit) : Funit := if u = .cuPriv then .cu else u
  match sl.instr with
  | .move _ _ (.latch l _) _ => some (unitOfCode l.code)
  | .shortImmediate _ _ (.latch l _) _ => some (unitOfCode l.code)
  | i => i.trigger.map fun d => own (unitOfCode d.1)

/-- Whether a slot writes an operand latch. -/
def Slot.isLatchMove (sl : Slot) : Bool :=
  match sl.instr with
  | .move _ _ d _ => d.isLatch
  | .shortImmediate _ _ d _ => d.isLatch
  | _ => false

/-- The source of a slot, none where it holds an immediate. -/
def Slot.source (sl : Slot) : Option Src :=
  match sl.instr with
  | .move _ s _ _ => some s
  | .shortImmediate _ _ _ _ => none
  | i => match i.trigger with
    | some (_, ⟨_, .src s, _⟩) => some s
    | _ => none

/-- A value of the kind that a slot's source gives: a reference where it names one, a word otherwise. -/
def Slot.standIn (sl : Slot) : Val :=
  match sl.source with
  | some (.v r) => .ref .v r.toNat
  | some (.tl r) => .ref .tl r.toNat
  | some (.fv r) => .ref .fv r.toNat
  | some (.cb r) => .ref .cb r.toNat
  | some (.vm r) => .ref .vm r.toNat
  | _ => .word 0

/-- What a slot reads of csw and fq.cnt is what they held before the bundle, whatever a lower slot's read of a parameter
window or of fq.rx has changed (R42). -/
def asBefore (m0 : Mach) (c k : Nat) (sl : Slot) (v : Val) : Val :=
  match sl.source with
  | some .csw => .word (m0.ctx c k).csw
  | some .fqCnt => .word (m0.ctx c k).fqCount
  | _ => v

/-- Reads the sources of slots in order; `m0` is the state before the bundle. -/
def readSlots (mem : Memory) (m0 : Mach) (c k : Nat) : List Slot → Reads → Reads
  | [], r => r
  | sl :: rest, r =>
    match readSlot mem r.mach c k sl with
    | .ok (v, m) =>
      let v := if r.vals.isEmpty then v else asBefore m0 c k sl v
      readSlots mem m0 c k rest { r with vals := r.vals ++ [(sl, v)], mach := m }
    | .error (.raise t) =>
      readSlots mem m0 c k rest { r with stop := some (worse r.stop (sl.k, .raise t)), late := r.late ++ [(sl, sl.standIn)] }
    | .error e => readSlots mem m0 c k rest { r with wait := some (worse r.wait (sl.k, e)) }

/-- Reads the sources of the slots whose guards hold (R42). -/
def readAll (s : State) (c k : Nat) (slots : List Slot) : Reads :=
  let live := slots.filter fun sl => (s.mach.ctx c k).guardHolds (guardOfInstr sl.instr)
  readSlots s.mem s.mach c k live ⟨[], s.mach, none, [], none⟩

/-- The empty slot (R147), which has no effect. -/
def Slot.isEmpty (sl : Slot) : Bool := sl.instr == .move none .zero .none false

/-- Whether a slot is a trigger. -/
def Slot.isTrigger (sl : Slot) : Bool := sl.instr.trigger.isSome

/-- Whether a slot is a trigger of cu. -/
def Slot.isCu (sl : Slot) : Bool := sl.isTrigger && sl.unit == some .cu

/-- sy.merge, which ends the unit after the other moves of its bundle (R169). -/
def Slot.isMerge (sl : Slot) : Bool :=
  match sl.instr with
  | .syMerge _ => true
  | _ => false

/-- The triggers whose effect follows the other moves of their bundle: sy.merge, cu.tret and sy.farm (R169, R263, R316). -/
def Slot.isLast (sl : Slot) : Bool :=
  match sl.instr with
  | .syMerge _ | .cuTret _ | .syFarm _ => true
  | _ => false

/-- The ring triggers that change what a ring handle or a ring's HEAD or TAIL names: they act after the other units'
triggers, which use the handle and the ring as they stood before the bundle (R42). -/
def Slot.movesRing (sl : Slot) : Bool :=
  match sl.instr with
  | .syRinit _ | .syRclaim _ | .syRtake _ | .syRgive _ => true
  | _ => false

/-- What became of the slot executed last, as a stop. -/
def SlotOut.stop : SlotOut → Option Stop
  | .stopped e => some e
  | .idle | .done => none

/-- Applies latch writes one after another through `ex`, each with its value. -/
def runLatches (ex : Exec) (c k : Nat) : List (Slot × Val) → State → Out
  | [], s => .next s
  | (sl, v) :: rest, s =>
    match ex sl.instr { s with mach := s.mach.atSlot c k sl (some v) } with
    | .next s' => runLatches ex c k rest s'
    | o => o

/-! ## The choice among several faults (R149) -/

/-- The stop that a trigger meets with a value as its operand, if any. -/
def stopOf (ex : Exec) (c k : Nat) (s : State) (sl : Slot) (v : Val) : Option Stop :=
  match ex sl.instr { s with mach := s.mach.atSlot c k sl (some v) } with
  | .next s' => s'.mach.issue.out.stop
  | _ => none

/-- Tries triggers on the state after the latch writes: the stops they meet. -/
def probeSlots (ex : Exec) (c k : Nat) (s : State) (l : List (Slot × Val)) : List (Nat × Stop) :=
  l.filterMap fun p => (stopOf ex c k s p.1 p.2).map fun st => (p.1.k, st)

/-- Whether a stop is a stall: neither a trap nor a wait at a switch point. -/
def Stop.isStall : Stop → Bool
  | .raise _ | .block _ => false
  | _ => true

/-- The stop that decides among those that the slots of a bundle meet once their sources are read. While one stalls the bundle has
not issued, and no trap is decided, so that none comes before an earlier class or a lower slot (R149; DEDUCED, log 18). -/
def chooseStop (e : Option (Nat × Stop)) (l : List (Nat × Stop)) : Option (Nat × Stop) :=
  match l.foldl (fun e p => some (worse e p)) e, l.find? (·.2.isStall) with
  | some (_, .raise _), some p => some p
  | r, _ => r

/-- The trap that every one of several outcomes is, of the classes from `lo` to 4: the last class among them, none where one
of them is no such trap. -/
def trapOfAll (lo : Nat) : List (Option Stop) → Option Trap
  | [] => none
  | [some (.raise t)] => if lo ≤ t.cls && t.cls ≤ 4 then some t else none
  | some (.raise t) :: rest =>
    match trapOfAll lo rest with
    | some u => if lo ≤ t.cls && t.cls ≤ 4 then some (if u.cls < t.cls then t else u) else none
    | none => none
  | _ => none

/-- What a trigger whose operand could not be read is tried with: its own reference, or several words where it moves one. -/
def trials (v : Val) : List Val :=
  match v with
  | .word _ => [.word 0, .word 1, .word 3]
  | v => [v]

/-- Tries triggers of which something could not be read, T or a latch of the unit, on a state in which stand-ins hold its place: a
trap of the classes `lo` to 4 that does not rest on the missing value is decided with the others (R149). One of an earlier class
rests on the stand-in itself, and is passed over. -/
def probeLate (ex : Exec) (c k : Nat) (s : State) (lo : Nat) (l : List (Slot × List Val)) (e : Option (Nat × Stop)) :
    Option (Nat × Stop) :=
  let counts (st : Option Stop) : Bool := match st with
    | some (.raise t) => lo ≤ t.cls
    | _ => true
  l.foldl (fun e p => match trapOfAll lo ((p.2.map (stopOf ex c k s p.1)).filter counts) with
    | some t => some (worse e (p.1.k, .raise t))
    | none => e) e

/-- A slot whose latch could not be written for want of its value, with a stand-in written instead. -/
def placeStandIn (c k : Nat) (m : Mach) (p : Slot × Val) : Mach :=
  match p.1.instr with
  | .move _ _ (.latch l h) _ => m.onCtx c k (·.setLatch l ⟨some p.2, h⟩)
  | _ => m

/-- The stop that decides for a bundle's slots, if any: `r` what they have read, `s1` the state after the latch writes. What a source
waits for comes first, and nothing is judged until it has been read (R142, R149; DEDUCED, log 18). -/
def decideStop (ex : Exec) (c k : Nat) (s1 : State) (r : Reads) : Option (Nat × Stop) :=
  if r.wait.isSome then r.wait else
  let triggers := r.vals.filter (·.1.isTrigger)
  let lateLatches := r.late.filter (·.1.isLatchMove)
  let isLate (sl : Slot) : Bool := lateLatches.any fun q => q.1.unit == sl.unit
  let e := chooseStop r.stop (probeSlots ex c k s1 (triggers.filter fun p => !isLate p.1))
  if r.late.isEmpty || e.any (·.2.isStall) then e
  else
    let sp := { s1 with mach := lateLatches.foldl (placeStandIn c k) s1.mach }
    let e := probeLate ex c k sp 1 ((triggers.filter fun p => isLate p.1).map fun p => (p.1, [p.2])) e
    probeLate ex c k sp 2 ((r.late.filter (·.1.isTrigger)).map fun p => (p.1, trials p.2)) e

/-! ## Issuing slots together (R42, R132) -/

/-- What the slots of a bundle that have acted already have added to what interlocks look at: landings, and commands of the
matrix array and of the tile unit. -/
structure Added where
  landing : List Landing
  mx : List MxCmd
  tf : List TfCmd
  deriving DecidableEq

/-- How much of each a state holds for context k of core c. -/
def Mach.marks (m : Mach) (c k : Nat) : Nat × Nat × Nat :=
  ((m.ctx c k).landing.length, (m.core c).mx.length, (m.core c).tf.length)

/-- What has been added since the marks were taken. -/
def Mach.added (m : Mach) (c k : Nat) (n : Nat × Nat × Nat) : Added :=
  ⟨(m.ctx c k).landing.drop n.1, (m.core c).mx.drop n.2.1, (m.core c).tf.drop n.2.2⟩

/-- Whether nothing has been added. -/
def Added.isEmpty (a : Added) : Bool := a.landing.isEmpty && a.mx.isEmpty && a.tf.isEmpty

/-- The state without what has been added since. -/
def Mach.hide (m : Mach) (c k : Nat) (n : Nat × Nat × Nat) : Mach :=
  m.onCore c fun co =>
    { co.onCtx k fun x => { x with landing := x.landing.take n.1 } with mx := co.mx.take n.2.1, tf := co.tf.take n.2.2 }

/-- What was hidden takes its place again, before what has been added since. -/
def Mach.unhide (m : Mach) (c k : Nat) (n : Nat × Nat × Nat) (a : Added) : Mach :=
  m.onCore c fun co =>
    { co.onCtx k fun x => { x with landing := x.landing.take n.1 ++ a.landing ++ x.landing.drop n.1 } with
      mx := co.mx.take n.2.1 ++ a.mx ++ co.mx.drop n.2.1
      tf := co.tf.take n.2.2 ++ a.tf ++ co.tf.drop n.2.2 }

/-- Executes one slot with its value. The interlocks it meets are those of the state before the bundle: what lower slots have
added is hidden from it, but for the slots that act last. An lu access in slot 3 is so not ordered after a command that slot 2 of
its bundle issues (DESIGN CHOICE, log 117). -/
def runSlot (ex : Exec) (c k : Nat) (n : Nat × Nat × Nat) (sl : Slot) (v : Val) (s : State) : Out :=
  let a := s.mach.added c k n
  if a.isEmpty || sl.isLast then ex sl.instr { s with mach := s.mach.atSlot c k sl (some v) }
  else
    match ex sl.instr { s with mach := (s.mach.hide c k n).atSlot c k sl (some v) } with
    | .next s' => .next { s' with mach := s'.mach.unhide c k n a }
    | o => o

/-- Executes slots one after another; a stop that one of them meets keeps all of them from taking effect. -/
def runSlots (ex : Exec) (c k : Nat) (n : Nat × Nat × Nat) : List (Slot × Val) → State → Except Stop Out
  | [], s => .ok (.next s)
  | (sl, v) :: rest, s =>
    match runSlot ex c k n sl v s with
    | .next s' =>
      match s'.mach.issue.out.stop with
      | some e => .error e
      | none => runSlots ex c k n rest s'
    | o => .ok o

/-- What two moves of one bundle must not both write (R42): a whole v register, flag or tile descriptor. -/
def Slot.wholeDst (sl : Slot) : Option Dst :=
  match sl.instr with
  | .move _ _ d _ => match d with
    | .v _ | .p _ | .tl _ => some d
    | _ => none
  | .shortImmediate _ _ d _ => match d with
    | .v _ | .p _ | .tl _ => some d
    | _ => none
  | _ => none

/-- The moves that determine their destination: without those that a higher slot's move to the same v register, flag or
descriptor replaces (R42). -/
def effectiveMoves : List (Slot × Val) → List (Slot × Val)
  | [] => []
  | p :: rest =>
    if p.1.wholeDst.isSome && rest.any (·.1.wholeDst == p.1.wholeDst) then effectiveMoves rest else p :: effectiveMoves rest

/-- The order in which the slots of a bundle act after its latch writes, so that each finds what it uses as it stood before
the bundle (R42): the triggers of the units, those that move rings after the others; the moves, which rename by the ranges and
rc of before; the triggers of cu; and the triggers that act last. -/
def inOrder (vals : List (Slot × Val)) : List (Slot × Val) :=
  let triggers := vals.filter fun p => p.1.isTrigger && !p.1.isLast
  let units := triggers.filter fun p => !p.1.isCu
  units.filter (!·.1.movesRing) ++ units.filter (·.1.movesRing)
    ++ effectiveMoves (vals.filter fun p => !p.1.isTrigger && !p.1.isLatchMove)
    ++ triggers.filter (·.1.isCu) ++ vals.filter fun p => p.1.isTrigger && p.1.isLast

/-- Issues slots together (R42): sources, latch writes, triggers and other writes. Either the state after all of them, or
the stop that keeps all of them from taking effect. -/
def issueSlots (ex : Exec) (s : State) (c k : Nat) (slots : List Slot) : Except Stop Out :=
  let r := readAll s c k slots
  match runLatches ex c k (r.vals.filter (·.1.isLatchMove)) { s with mach := r.mach } with
  | .next s1 =>
    match decideStop ex c k s1 r with
    | some e => .error e.2
    | none => runSlots ex c k (s1.mach.marks c k) (inOrder r.vals) s1
  | o => .ok o

/-- The bits of slots that have issued. -/
def issuedMask (slots : List Slot) : BitVec 4 :=
  slots.foldl (fun b sl => b ||| BitVec.ofNat 4 (2 ^ sl.k)) 0

/-- The slots of a bundle that are still to act: of a bundle whose sy.merge waits after its other moves have taken effect the
merge alone, whose guard has held (R169). -/
def toAct (x : Ctx) (slots : List Slot) : List Slot :=
  if slots.any (·.isMerge) && slots.any (fun sl => x.waitIssued.getLsbD sl.k) then
    (slots.filter (·.isMerge)).map fun sl => match sl.instr with
      | .syMerge o => { sl with instr := .syMerge { o with guard := none } }
      | _ => sl
  else slots

/-- Whether a stop is a wait rather than a trap. -/
def Stop.waits : Stop → Bool
  | .raise _ => false
  | _ => true

/-- A bundle whose other moves have taken effect while its sy.merge waits: it keeps the pc and the set of issued slots. -/
def waitToMerge (s : State) (c k : Nat) (e : Stop) (others : List Slot) : State :=
  let m := (s.mach.meetStop c k e).onCtx c k fun x => { x with waitIssued := x.waitIssued ||| issuedMask others }
  { s with mach := { m with issue := { m.issue with ended := true } } }

/-- Issues the slots of a bundle together (R42, R132). Where only its sy.merge must wait, for the join or for a place in the
tf queue, the other moves take effect first (R169). -/
def issueTogether (ex : Exec) (s : State) (c k : Nat) (slots : List Slot) : Except Stop Out :=
  let slots := toAct (s.mach.ctx c k) slots
  match issueSlots ex s c k slots with
  | .ok o => .ok o
  | .error e =>
    let others := slots.filter (!·.isMerge)
    if e.waits && slots.any (·.isMerge) && others.any (!·.isEmpty) then
      match issueSlots ex s c k others with
      | .ok (.next s') => .ok (.next (waitToMerge s' c k e others))
      | .ok o => .ok o
      | .error _ => .error e
    else .error e

/-! ## Waypoint records (R294, R295) -/

/-- The key of a byte the device itself reads at a virtual address of a partition, by a fresh walk with supervisor
privilege; none where it cannot be reached. -/
def deviceKey (mem : Memory) (m : Mach) (h a : Nat) : Option Nat :=
  match windowOf a with
  | .vault => if partOf (vaultCore a) = h then some a else none
  | .hbm | .host =>
    match walkNow mem m h a with
    | .ok (vbase, size, e) => some (pageKey (windowOf a) vbase size e a)
    | .error _ => none
  | _ => none

/-- Reads 64 bytes at a virtual address as eight words. -/
def deviceWords (mem : Memory) (m : Mach) (h a n : Nat) : Option (List Word) :=
  match deviceKey mem m h a with
  | some key => some ((upFrom 0 n).map fun i => word (peekNat mem m (key + 8 * i) 8))
  | none => none

/-- The waypoint record of a bundle address among the next `n` records from `a` on. -/
def findRecord (mem : Memory) (m : Mach) (h pc : Nat) : Nat → Nat → Option (List Word)
  | _, 0 => none
  | a, n + 1 =>
    match deviceWords mem m h a 8 with
    | none => none
    | some ws => if bits (ws.getD 0 0) 47 0 = pc then some ws else findRecord mem m h pc (a + 64) n

/-- The lookup of R295. -/
def waypointRecord (mem : Memory) (m : Mach) (h pc : Nat) : Option (List Word) :=
  let t := (m.work h).wptab
  findRecord mem m h pc (bits t 47 6 * 64) (bits t 63 48)

/-- XJOB of a record. -/
def recordXjob (r : List Word) : Bool := bits (r.getD 6 0) 32 32 == 1

/-- Whether the engines are quiescent for a waypoint of context k (R295). -/
def Core.quiescent (co : Core) (k : Nat) (xjob : Bool) : Bool :=
  !(co.mx.any (·.ctx == k)) && !(co.tf.any fun q => q.ctx == k && !q.ended) && (xjob || !(co.jobs.any fun j => co.ownsJob k j && j.live))

/-! ## Retiring -/

/-- Whether a context is blocked. -/
def Ctx.isBlocked (x : Ctx) : Bool :=
  match x.status with
  | .blocked _ => true
  | _ => false

/-- What the next bundle of a context must wait for, where it has not come: the condition of a drain or ffar that has retired (R116,
R117). -/
def Mach.heldFor (m : Mach) (c k : Nat) : Option Wait :=
  let x := m.ctx c k
  if x.waitIssued = 0 then x.hold.filter (!m.waitDone c k ·) else none

/-- A context that a drain or ffar holds back blocks, whether it runs or has reached a switch point; one that it holds back no
longer goes on. -/
def Mach.holdBack (m : Mach) (c k : Nat) : Mach :=
  let x := m.ctx c k
  if x.hold.isNone || x.waitIssued != 0 then m
  else match m.heldFor c k, x.status with
    | none, _ => m.onCtx c k fun x => { x with hold := none }
    | some w, .running => m.blockOn c k w
    | some w, .ready => m.onCtx c k fun x => { x with status := .blocked w, waitOn := [] }
    | some _, _ => m

/-- A cancelled unit stops: it issues nothing more. -/
def Mach.stopUnit (m : Mach) (c k : Nat) : Mach :=
  ((m.switchOut c k).onCtx c k fun x => { x with status := .stopping, frozen := false }).post m.cycle (.unitStopOnCancel c k)

/-- The unit stops here if it is cancelled (R14). -/
def Mach.stopIfCancelled (m : Mach) (c k : Nat) : Mach :=
  let x := m.ctx c k
  if x.cancelled && !x.trap.active && (x.status == .running || x.status == .ready || x.isBlocked) then m.stopUnit c k else m

/-- A context switched out at a switch point that leaves it ready (R15). -/
def Mach.yieldCtx (m : Mach) (c k : Nat) : Mach := (m.switchOut c k).makeReady c k

/-- An honoured waypoint (R295): the save of a pending pre-emption is attempted, or a run that has lasted Q cycles
ends, or the context goes on. -/
def Mach.honour (m : Mach) (c k : Nat) (r : List Word) : Mach :=
  let x := m.ctx c k
  let m := m.onCtx c k fun x => { x with wpCount := 0 }
  if x.preempt && !x.frozen then
    ((m.switchOut c k).onCtx c k fun x => { x with status := .saving, record := r, saveSet := false }).post m.cycle
      (.unitSave c k)
  else if x.quantumOver || x.quantum ≤ m.cycle - x.runStart then m.yieldCtx c k
  else m

/-- A retiring bundle with P set (R295, R301). -/
def Mach.waypoint (m : Mach) (mem : Memory) (c k : Nat) (pc : Nat) : Mach :=
  let x := m.ctx c k
  if x.trap.active then m
  else match x.stub with
    | some st =>
      m.onCtx c k fun x => { x with stub := none, pc := st.pc, loop := st.loop, wpCount := 0, issueAt := m.cycle + 3 }
    | none =>
      match waypointRecord mem m (partOf c) pc with
      | some r => if (m.core c).quiescent k (recordXjob r) then m.honour c k r else m
      | none => m

/-- The pc, loop and issue cycle of a context whose bundle has retired: a branch target, or the next bundle. -/
def Ctx.moveOn (x : Ctx) (i : Issue) (cycle : Nat) : Ctx :=
  match i.next with
  | some t =>
    { x with pc := t, issueAt := cycle + 1 + i.bubble,
             loop := if i.keepLoop then x.loop else { x.loop with active := false } }
  | none => { x.advance with issueAt := cycle + 1 }

/-- A bundle retires: the pc moves, the bundle counts, and its header acts (R139, R156, R159, R295). -/
def retire (mem : Memory) (m : Mach) (c k : Nat) (yield waypoint : Bool) : Mach :=
  let i := m.issue
  if i.ended then m
  else
    let pc := (m.ctx c k).pc
    let wasActive := (m.ctx c k).trap.active || i.keepLoop
    let m := m.onCtx c k fun x =>
      { x.moveOn i m.cycle with
        wpCount := if wasActive then x.wpCount else x.wpCount + 1
        bundleNo := x.bundleNo + 1
        ticket := none
        paramDue := none
        waitIssued := if i.keepLoop then x.waitIssued else 0
        waitNext := if i.keepLoop then x.waitNext else none
        waitOld := if i.keepLoop then x.waitOld else none
        passForced := if wasActive then x.passForced else false }
    let m := if waypoint && !i.keepLoop then m.waypoint mem c k pc else m
    let m := if yield && (m.ctx c k).status == .running then m.yieldCtx c k else m
    let m := m.holdBack c k
    if yield || waypoint || i.keepLoop then m.stopIfCancelled c k else m

/-! ## Issuing a bundle -/

/-- The core is busy for the rest of the cycle. -/
def Mach.markIssue (m : Mach) (c : Nat) : Mach := m.onCore c fun co => { co with nextIssue := m.cycle + 1 }

/-- What an attempt leaves of the cycle: a context that blocks before any slot but empty ones has issued leaves it to the
next run of the core (R16). -/
def Mach.afterAttempt (m : Mach) (c : Nat) (e : Stop) (issued : Bool) : Mach :=
  match e, issued with
  | .block _, false => { m with turn := min m.turn c }
  | _, _ => m.markIssue c

/-- Applies the stop that kept a bundle, or the slots of a wait bundle, from taking effect. -/
def applyStop (s : State) (c k : Nat) (e : Stop) (issued : Bool) : State :=
  commit s ((s.mach.meetStop c k e).afterAttempt c e issued)

/-- The issue record of a new bundle. -/
def freshIssue (c k : Nat) : Issue := { Issue.idle with core := c, ctx := k }

/-- Whether a later bundle of the context must wait: for an acquire (R121), a btest among them (R127), or a result of its own
(R167). The rest of a wait bundle that has begun is no later bundle. -/
def Ctx.heldBack (x : Ctx) : Bool := x.waitIssued == 0 && (x.loads.any (·.acquire) || !x.acquires.isEmpty || x.ffar.isSome)

/-- Retires a bundle whose slots have issued: through its header where it has one. -/
def retireBundle (ex : Exec) (s : State) (c k : Nat) (ws : List Cell) : Out :=
  let done : Out :=
    match decodeSlot (ws.getD 0 0) with
    | .ok (.header y w p e3 e2 e1) =>
      ex (.header y w p e3 e2 e1) { s with mach := { s.mach with issue := { s.mach.issue with slot := 0 } } }
    | _ => .next { s with mach := retire s.mem s.mach c k false false }
  match done with
  | .next s' => .next (commit s' (s'.mach.markIssue c))
  | o => o

/-- A header bit of a bundle. -/
def headerBit (ws : List Cell) (b : Nat) : Bool := hasHeader ws && field (ws.getD 0 0).toNat b b == 1

/-- An ordinary bundle. -/
def issueOrdinary (ex : Exec) (s : State) (c k : Nat) (ws : List Cell) : Out :=
  match issueTogether ex s c k (moveSlots ws) with
  | .error e => .next (applyStop s c k e false)
  | .ok (.next s') => retireBundle ex s' c k ws
  | .ok o => o

/-- The slots of a wait bundle that can issue now: not yet issued, and without a guard or with one that holds (R160). -/
def ableSlots (x : Ctx) (ws : List Cell) : List Slot :=
  (moveSlots ws).filter fun sl => !x.waitIssued.getLsbD sl.k && x.guardHolds (guardOfInstr sl.instr)

/-- The sets of slots among some, in slot order, those with the lowest slots first. -/
def slotSets : List Slot → List (List Slot)
  | [] => [[]]
  | sl :: rest => (slotSets rest).map (sl :: ·) ++ slotSets rest

/-- Whether slots can issue together. -/
def canIssue (ex : Exec) (s : State) (c k : Nat) (slots : List Slot) : Bool :=
  match issueTogether ex s c k slots with
  | .ok _ => true
  | .error _ => false

/-- The slots among the able ones that neither block nor stall (R160), with the stops of the others: a slot that must wait
does not hold back the rest. They issue together in slot order (R42), so that a word of fq.rx goes to the lowest that can use it; a
trigger and the latches it takes are judged together. -/
def freeSlots (ex : Exec) (s : State) (c k : Nat) (able : List Slot) : List Slot × List Stop :=
  let free := ((slotSets able).find? (canIssue ex s c k)).getD []
  let stop (sl : Slot) : Option Stop :=
    match issueTogether ex s c k (able.filter fun q => free.contains q || q == sl) with
    | .error e => some e
    | .ok _ => none
  (free, (able.filter (!free.contains ·)).filterMap stop)

/-- The trap among several stops: the first class, and within it the lowest slot (R149). -/
def trapAmong (stops : List Stop) : Option Trap :=
  match stops.foldl (fun e st => some (worse e (0, st))) (none : Option (Nat × Stop)) with
  | some (_, .raise t) => some t
  | _ => none

/-- What the slots of a wait bundle that can issue now do: the outcome of those that issue, which they are, and the stops of
the others. A trap among them keeps all slots of this cycle from taking effect (DESIGN CHOICE, log 99). -/
def tryWait (ex : Exec) (s : State) (c k : Nat) (able : List Slot) : Out × List Slot × List Stop :=
  match issueTogether ex s c k able with
  | .ok o => (o, able, [])
  | .error (.raise t) => (.next s, [], [.raise t])
  | .error _ =>
    let (free, stops) := freeSlots ex s c k able
    match trapAmong stops with
    | some t => (.next s, [], [.raise t])
    | none =>
      match issueTogether ex s c k free with
      | .ok o => (o, free, stops)
      | .error e => (.next s, [], stops ++ [e])

/-- What a block waits for. -/
def Stop.blocked : Stop → Option Wait
  | .block w => some w
  | _ => none

/-- Whether a wait has a place in the order of a ring's waiters (R163). -/
def Wait.ofRing : Wait → Bool
  | .ringFree _ | .ringFull _ => true
  | _ => false

/-- Starts what the slots of a wait bundle stall on: a page walk, the wait for vault banks, or a parameter read. -/
def Mach.meetStalls (m : Mach) (c k : Nat) (stops : List Stop) : Mach :=
  stops.foldl (fun m e => match e with
    | .walk _ _ _ | .banks _ | .param _ => m.meetStop c k e
    | _ => m) m

/-- A wait bundle stays: it stalls while a slot of it stalls on an interlock, or can issue in the next cycle, one of this cycle's flag
writes having made it able; otherwise its context blocks on all that its slots wait for, and where a guard does not hold on a change
of its flags too (R15, R160). `able` are the slots that could issue in this cycle, `issued` says that one has. -/
def waitOn (s : State) (c k : Nat) (ws : List Cell) (able : List Slot) (stops : List Stop) (issued : Bool) : State :=
  let x := s.mach.ctx c k
  let fresh := (ableSlots x ws).any fun sl => !able.contains sl
  let waits := stops.filterMap (·.blocked)
  let idle := (moveSlots ws).any fun sl => !x.waitIssued.getLsbD sl.k && !x.guardHolds (guardOfInstr sl.instr)
  let flags : List Wait := if idle then [.waitFlags] else []
  if fresh || stops.any (·.blocked.isNone) then commit s ((s.mach.meetStalls c k stops).markIssue c)
  else match waits.filter (·.ofRing) ++ waits.filter (!·.ofRing) with
    | [] => if (ableSlots x ws).isEmpty then applyStop s c k (.block .waitFlags) issued else applyStop s c k .stall true
    | w :: rest =>
      let s' := applyStop s c k (.block w) issued
      { s' with mach := s'.mach.onCtx c k fun x => { x with waitOn := rest ++ flags } }

/-- A wait bundle (R160): the able slots issue; it retires once all have; while none can, the context waits for a change
of its flags. Its operands rename by the ranges and rc of the cycle in which it began (R158). A slot that issues cycles after a
trigger of the bundle reads that trigger's result, once it has landed (DESIGN CHOICE, log 118), and a `cu.loop` with T = 0 costs the
bubble of a branch as it retires (DESIGN CHOICE, log 119). -/
def issueWait (ex : Exec) (s : State) (c k : Nat) (ws : List Cell) : Out :=
  let s := { s with mach := s.mach.onCtx c k fun x => { x with waitChanged := false } }
  let x := s.mach.ctx c k
  let able := ableSlots x ws
  match tryWait ex s c k able with
  | (.next s1, done, stops) =>
    let mask := x.waitIssued ||| issuedMask (if s1.mach.issue.ended then done.filter (!·.isMerge) else done)
    let next := match s1.mach.issue.next with
      | some t => some t
      | none => x.waitNext
    let old := if done.any (!·.isEmpty) then x.waitOld.or (some (x.ranges, x.loop.rc)) else x.waitOld
    let m1 := s1.mach.onCtx c k fun x => { x with waitIssued := mask, waitNext := next, waitOld := old }
    let s1 := { s1 with mach := m1 }
    match trapAmong stops with
    | some t => .next (applyStop s1 c k (.raise t) true)
    | none =>
      if s1.mach.issue.ended || s1.mach.issue.keepLoop || (moveSlots ws).all fun sl => mask.getLsbD sl.k then
        let m2 := { m1 with issue := { m1.issue with next := next, bubble := if next.isSome then 2 else 0 } }
        retireBundle ex { s1 with mach := m2 } c k ws
      else .next (waitOn s1 c k ws able stops (done.any (!·.isEmpty)))
  | (o, _, _) => o

/-- Takes WAYPOINT_DISTANCE (R296): the trap of the bundle that would be the (WPMAX + 1)-th counted. -/
def Mach.waypointTrap (m : Mach) (c k : Nat) : Mach :=
  m.takeTrap c k ⟨.waypointDistance, 0, 0, 0, false, false⟩

/-- Whether the next bundle of a context would be the (WPMAX + 1)-th counted. -/
def Ctx.pastWpMax (x : Ctx) : Bool := !x.trap.active && x.wpMax ≤ x.wpCount

/-- The bundle a context issues next: from its loop buffer, or fetched (R157). -/
def nextBundle (mem : Memory) (m : Mach) (c k : Nat) : Except Stop (List Cell) :=
  let x := m.ctx c k
  let n := (x.pc - (x.loop.addr + 16)) / 16
  if x.loop.active && x.loop.addr < x.pc && n < x.loop.len then .ok (x.loop.body.getD n [])
  else fetchBundle mem m c x.priv x.pc

/-- Whether the control word of a slot's trigger can be an ILLBUNDLE (R177, R208, R223). -/
def Slot.hasControl (sl : Slot) : Bool :=
  match sl.instr with
  | .luAmo _ | .luCas _ | .luFamo _ | .luRed _ | .luHnd _ => true
  | _ => sl.isTrigger && (sl.unit == some .vu || sl.unit == some .tf)

/-- Whether a slot writes a latch whose factor operand word can be an ILLBUNDLE to a trigger of its unit (R84). -/
def Slot.isFactorMove (sl : Slot) : Bool :=
  match sl.instr with
  | .move _ _ (.latch l _) _ | .shortImmediate _ _ (.latch l _) _ => l == .tfF || l == .mxArs || l == .mxBcs
  | _ => false

/-- The slots of a bundle on whose values a value ILLBUNDLE can rest, among those that the encoding causes leave alone and whose guards
hold. -/
def illBundleSlots (x : Ctx) (ws : List Cell) : List Slot :=
  let slots := (moveSlots ws).filter fun sl => !illMoveSlot x ws sl.k && x.guardHolds (guardOfInstr sl.instr)
  slots.filter fun sl => sl.hasControl || (sl.isTrigger && sl.unit == some .mx)
    || (sl.isFactorMove && slots.any fun q => q.isTrigger && q.unit == sl.unit)

/-- What keeps a bundle with an ILLMOVE by its encoding from being judged: the wait for a control word or factor operand word that can
still make it ILLBUNDLE. -/
def encodingWait (s : State) (c k : Nat) (ws : List Cell) : Option Stop :=
  ((readAll s c k ((illBundleSlots (s.mach.ctx c k) ws).filter fun sl => sl.hasControl || sl.isFactorMove)).wait).map (·.2)

/-- ILLBUNDLE by a value in a slot that the encoding causes leave alone (R149, R177, R208, R223): it comes before the ILLMOVE
of another slot's encoding. A trigger of mx is judged by its factor latches alone. -/
def valueIllBundle (ex : Exec) (s : State) (c k : Nat) (ws : List Cell) : Option Trap :=
  let slots := illBundleSlots (s.mach.ctx c k) ws
  let r := readAll s c k slots
  match runLatches ex c k (r.vals.filter (·.1.isLatchMove)) { s with mach := r.mach } with
  | .next s1 =>
    let val (sl : Slot) : Option Val :=
      ((r.vals.find? (·.1.k == sl.k)).map (·.2)).or (if sl.unit = some .mx then some (.word 0) else none)
    let stops := probeSlots ex c k s1 ((slots.filter (·.isTrigger)).filterMap fun sl => (val sl).map fun v => (sl, v))
    trapAmong ((stops.map (·.2)).filter fun e => match e with
      | .raise t => t.cls == 1
      | _ => false)
  | _ => none

/-- What a bundle with an encoding cause does (R149): a wait bundle takes that cause; of an ordinary one ILLBUNDLE by a value comes
before ILLMOVE, and while a value that can make it ILLBUNDLE is still to be read the bundle waits (DEDUCED, log 18). -/
def encodingStop (ex : Exec) (s : State) (c k : Nat) (ws : List Cell) (t : Trap) : Stop :=
  if t.cause = .illBundle || headerBit ws 28 then .raise t
  else match encodingWait s c k ws with
    | some e => e
    | none => .raise ((valueIllBundle ex s c k ws).getD t)

/-- Runs a decoded bundle of context k of core c. -/
def runBundle (ex : Exec) (s : State) (c k : Nat) (ws : List Cell) : Out :=
  match encodingTrap (s.mach.ctx c k) ws with
  | some t => .next (applyStop s c k (encodingStop ex s c k ws t) (!(encodingStop ex s c k ws t).waits))
  | none => if headerBit ws 28 then issueWait ex s c k ws else issueOrdinary ex s c k ws

/-- Issues the next bundle of context k of core c. -/
def issueBundle (ex : Exec) (s : State) (c k : Nat) : Out :=
  let s := { s with mach := { s.mach with issue := freshIssue c k } }
  let x := s.mach.ctx c k
  if x.pastWpMax then .next (commit s ((s.mach.waypointTrap c k).markIssue c))
  else match s.mach.heldFor c k with
  | some w => .next (applyStop s c k (.block w) false)
  | none =>
  let s := { s with mach := s.mach.holdBack c k }
  if x.heldBack then .next (applyStop s c k .stall true)
  else match nextBundle s.mem s.mach c k with
    | .error e => .next (applyStop s c k e false)
    | .ok ws => runBundle ex s c k ws

/-! ## The forms that are not triggers -/

/-- MOVE (R135): writes what its source holds into its destination. -/
def execMove (g : Option Guard) (src : Src) (dst : Dst) (rot : Bool) (s : State) : Out :=
  endSlot s (match operand s.mach g (readSrc s.mem · src rot) with
    | .error e => .error e
    | .ok none => .ok s.mach
    | .ok (some (v, m)) =>
      match checkDst m.me dst v with
      | .error e => .error e
      | .ok _ => .ok (m.onMe (·.writeDst dst rot v)))

/-- SHORT_IMMEDIATE (R137): writes its immediate into its destination. -/
def execShortImmediate (g : Option Guard) (imm : BitVec 9) (dst : Dst) (rot : Bool) (s : State) : Out :=
  endSlot s (match operand s.mach g (fun m => okWord m (immValue m.issue.ext imm)) with
    | .error e => .error e
    | .ok none => .ok s.mach
    | .ok (some (v, m)) =>
      match checkDst m.me dst v with
      | .error e => .error e
      | .ok _ => .ok (m.onMe (·.writeDst dst rot v)))

/-- LITERAL (R138): drives no move of its own; its value is that of the move in the slot below. -/
def execLiteral (v : BitVec 30) (s : State) : Out :=
  endSlot s (.ok { s.mach with issue := { s.mach.issue with lit := some (literalValue s.mach.issue.ext v) } })

/-- HEADER (R139, R295): the bundle being executed retires, and its Y and P bits act. W has acted before: it is what
makes the slots issue one by one (R160); the extension bytes have been read by their slots (R140), and are left as
the extension byte of the slot that is named. -/
def execHeader (y _w p : Bool) (e3 e2 e1 : Byte) (s : State) : Out :=
  let i := s.mach.issue
  let ext := match i.slot with
    | 0 => none
    | 1 => some e1.toNat
    | 2 => some e2.toNat
    | _ => some e3.toNat
  endSlot s (.ok (retire s.mem { s.mach with issue := { i with ext := ext } } i.core i.ctx y p))

/-- WAYPOINT_DISTANCE (R296). -/
def execWaypointDistance (core ctx : Nat) (s : State) : Out :=
  endEvent s (if (s.mach.ctx core ctx).pastWpMax then s.mach.waypointTrap core ctx else s.mach)

end Sys2Proof.Machine
end

