-- ==== Sys2Proof/Machine/Sched.lean ====
section
/-!
DEFINITION. Which context runs (spec/01_execution_model.md R15-R18): when a blocked context is ready, the choice of the
next run, the lift of a context that has waited too long, and the run quantum.
-/

namespace Sys2Proof.Machine

/-! ## When a blocked context is ready (R15) -/

/-- Whether a blocked context can become ready: what it waits for has come, or of a wait bundle something else that its slots
wait for, or one of its flags has changed (R160). -/
def Mach.canWake (m : Mach) (c k : Nat) : Bool :=
  let x := m.ctx c k
  match x.status with
  | .blocked w => m.waitDone c k w || (w == .waitFlags && x.waitChanged) || (x.waitIssued != 0 && x.waitChanged)
      || x.waitOn.any (m.waitDone c k) || (x.waitOn.contains .waitFlags && x.waitChanged)
  | _ => false

/-- CONTEXT_READY (R15). -/
def execContextReady (core ctx : Nat) (s : State) : Out :=
  endEvent s (if s.mach.canWake core ctx then s.mach.makeReady core ctx else s.mach)

/-! ## The choice of the next run (R16, R17) -/

/-- A context that can be chosen in a cycle. -/
def Ctx.choosable (x : Ctx) : Bool := x.status == .ready && !x.frozen && !x.halted

/-- The first choosable context of a level among `n` contexts from k on, wrapping at 8. -/
def chooseFrom (ctxs : List Ctx) (now level : Nat) : Nat → Nat → Option Nat
  | _, 0 => none
  | k, n + 1 =>
    let x := ctxs.getD (k % 8) .reset
    if x.choosable && x.readySince ≤ now && x.prio == level then some (k % 8) else chooseFrom ctxs now level (k + 1) n

/-- The next run of a core: the highest level with a ready context, and within it the first after the one last chosen. -/
def Core.choose (co : Core) (now : Nat) : Option (Nat × Nat) :=
  [3, 2, 1, 0].findSome? fun level =>
    (chooseFrom co.ctxs now level (co.lastChosen.getD level 7 + 1) 8).map fun k => (level, k)

/-- A context is chosen: its run begins. -/
def Mach.startRun (m : Mach) (c level k : Nat) : Mach :=
  m.onCore c fun co =>
    { co.onCtx k fun x => { x with status := .running, runStart := m.cycle, quantumOver := false } with
      running := some k, lastChosen := modifyAt (fun _ => k) level co.lastChosen }

/-- PRIORITY_LIFT (R17): a context ready for 4 × Q cycles without being chosen runs its next run at priority 3. -/
def Mach.liftDue (m : Mach) (c k : Nat) : Bool :=
  let x := m.ctx c k
  x.choosable && !x.lifted && 4 * x.quantum ≤ m.cycle - x.readySince

/-- PRIORITY_LIFT (R17). -/
def execPriorityLift (core ctx : Nat) (s : State) : Out :=
  endEvent s (if s.mach.liftDue core ctx then s.mach.onCtx core ctx fun x => { x with lifted := true, prio := 3 }
    else s.mach)

/-- Whether the run of a context has lasted Q cycles (R18). -/
def Mach.quantumDue (m : Mach) (c k : Nat) : Bool :=
  let x := m.ctx c k
  x.status == .running && !x.frozen && !x.quantumOver && x.quantum ≤ m.cycle - x.runStart

/-- RUN_QUANTUM_EXPIRY (R18): the run is due to end at its next honoured waypoint. -/
def execRunQuantumExpiry (core ctx : Nat) (s : State) : Out :=
  endEvent s (if s.mach.quantumDue core ctx then s.mach.onCtx core ctx fun x => { x with quantumOver := true } else s.mach)

/-! ## Who issues (R342) -/

/-- Whether cores may issue in this cycle: in 16 − THROT cycles of every 16, with firmware running (R338, R342). -/
def Mach.mayIssue (m : Mach) : Bool := m.cycle % 16 < 16 - m.boot.throt && m.boot.state != .recovery

/-- The context of a core that issues in this cycle, or whose new run begins in it, at which level. -/
def Mach.issuer (m : Mach) (co : Core) : Option (Nat × Option Nat) :=
  if m.cycle < co.nextIssue || co.retired || co.halted then none
  else match co.running with
    | some k =>
      let x := co.ctxs.getD k .reset
      if x.status != .running || x.frozen || x.halted || m.cycle < x.issueAt then none else some (k, none)
    | none =>
      match co.choose m.cycle with
      | some (level, k) => some (k, some level)
      | none => none

/-- The first core at or after number c, of those listed, that issues in this cycle or begins a run. -/
def Mach.nextIssuer (m : Mach) : Nat → List Core → Option (Nat × Nat × Option Nat)
  | _, [] => none
  | c, co :: rest =>
    match m.issuer co with
    | some (k, level) => some (c, k, level)
    | none => Mach.nextIssuer m (c + 1) rest

/-- Core c issues the next bundle of its context k, a new run beginning where `level` says so; a context that is chosen while its
next bundle is still on the way, after a branch or a trap entry, has the core and waits for it (R16). -/
def issueRun (ex : Exec) (s : State) (c k : Nat) (level : Option Nat) : Out :=
  let m := match level with
    | some l => s.mach.startRun c l k
    | none => s.mach
  let s := { s with mach := { m with turn := c + 1 } }
  if (m.ctx c k).issueAt ≤ m.cycle then issueBundle ex s c k else .next s

/-- WAIT_SLOT_ISSUE (R160): the waiting wait bundle is re-evaluated. The context becomes ready; where its core is idle
and chooses it, the step issues the bundle at once. -/
def execWaitSlotIssue (core ctx : Nat) (s : State) : Out :=
  endEvent s (if s.mach.canWake core ctx && (s.mach.ctx core ctx).waitChanged then
    let m := s.mach.makeReady core ctx
    match m.issuer (m.core core) with
    | some (k, some level) =>
      if k = ctx ∧ m.mayIssue ∧ (m.ctx core ctx).issueAt ≤ m.cycle then
        { m.startRun core level k with issue := { m.issue with go := some (core, ctx) } }
      else m
    | _ => m
  else s.mach)

end Sys2Proof.Machine
end

