-- ==== Sys2Proof/Machine/Ring.lean ====
section
/-!
DEFINITION. What contexts share a vault by: rings and their reservations (spec/02_state.md R52, R53; spec/05_memory_spaces.md
R107, R108; spec/08_ops_control.md R165, R166), barrier objects (R54, R164; spec/06_ordering.md R126, R127), and the
events a flag can be armed to (R161, R263).
-/

namespace Sys2Proof.Machine

/-! ## sy.res (R163) -/

/-- The form of sy.res: status and value. -/
def syWord (status value : Nat) : Word := word (status * 2 ^ 56 + value)
/-- BAD_OPERAND. -/
def badOperand : Nat := 0x10
/-- BAR_OVER. -/
def barOver : Nat := 0x11
/-- BAD_RING. -/
def badRing : Nat := 0x12
/-- RING_FULL. -/
def ringFull : Nat := 0x13
/-- BAD_SLOT. -/
def badSlot : Nat := 0x14
/-- BAD_VIEW. -/
def badView : Nat := 0x15
/-- VIEWS_BUSY. -/
def viewsBusy : Nat := 0x16
/-- NOT_OWN. -/
def notOwn : Nat := 0x17

/-- A sy trigger ends with a status and a value, readable after `cycles`. -/
def sySay (m : Mach) (cycles status value : Nat) : Except Stop Mach := .ok (m.result .sy (syWord status value) cycles)

/-! ## Ring records (R52, R53) -/

/-- A slot as a record is made. -/
def RingSlot.new : RingSlot := ⟨.free, false, none, false, 0⟩

/-- Slot i of a ring. -/
def Ring.at (r : Ring) (i : Nat) : RingSlot := r.slots.getD i .new

/-- The slot count. -/
def Ring.n (r : Ring) : Nat := r.slots.length

/-- The address of slot i. -/
def Ring.slotAddr (r : Ring) (i : Nat) : Nat := r.base + i * r.slot

/-- Whether slot i holds a key. -/
def Ring.slotHas (r : Ring) (i key : Nat) : Bool := r.slotAddr i ≤ key && key < r.slotAddr i + r.slot

/-- Slots in a state. -/
def Ring.count (r : Ring) (st : SlotState) : Nat := (r.slots.filter (·.state == st)).length

/-- Changes slot i. -/
def Ring.setSlot (r : Ring) (i : Nat) (f : RingSlot → RingSlot) : Ring := { r with slots := modifyAt f i r.slots }

/-- Changes the ring with a base. -/
def Core.onRing (co : Core) (base : Nat) (f : Ring → Ring) : Core :=
  { co with rings := co.rings.map fun r => if r.base = base then f r else r }

/-- Claims the slot at HEAD (R53). -/
def Ring.claim (r : Ring) (byJob : Bool) : Ring :=
  let r' := r.setSlot r.head fun s => { s with state := .filling, byJob, fillBy := none, given := false }
  { r' with head := (r.head + 1) % r.n }

/-- Takes the slot at TAIL (R53). -/
def Ring.take (r : Ring) : Ring :=
  let r' := r.setSlot r.tail fun s => { s with state := .draining, given := false }
  { r' with tail := (r.tail + 1) % r.n }

/-- The banks that a region of the vault touches (R102). -/
def bankMask (base size : Nat) : BitVec 64 :=
  (upFrom (field base 23 18) (field (base + size - 1) 23 18 + 1 - field base 23 18)).foldl (fun b k => b ||| (1 <<< k)) 0

/-- Whether R52 allows a description on core c. -/
def ringAllowed (c base slot n : Nat) : Bool :=
  vaultBase c ≤ base && base % 64 == 0 && slot % 64 == 0 && 64 ≤ slot && slot ≤ 0x100000 && 2 ≤ n && n ≤ 256
    && base + n * slot ≤ vaultBase c + 0xFFF000

/-- A new record. -/
def Ring.make (base slot n : Nat) : Ring := ⟨base, slot, 0, 0, List.replicate n .new, bankMask base (n * slot)⟩

/-- Whether some handle names a ring, in a context or in a save (R52, R299). -/
def Mach.ringHeld (m : Mach) (c base : Nat) : Bool :=
  (m.core c).ctxs.any (·.cb.contains (some base))
    || (m.work (partOf c)).saves.any fun s => s.core == c && s.image.cb.contains (some base)

/-- Records without a handle and without a reservation end (R165). -/
def Mach.dropRings (m : Mach) (c : Nat) : Mach :=
  let keep (co : Core) (r : Ring) : Bool :=
    m.ringHeld c r.base || co.resv.any fun v => v.base == r.base && v.released.isNone
  m.onCore c fun co => { co with rings := co.rings.filter (keep co) }

/-! ## Reservations (R107, R108) -/

/-- Whether no reservation of another command shares a bank with a mask. -/
def Core.noConflict (co : Core) (now : Nat) (mask : BitVec 64) : Bool :=
  co.resv.all fun r => r.mask &&& mask == 0 || match r.released with
    | some t => t < now
    | none => false

/-- Whether a waiter can still issue. -/
def Core.waits (co : Core) (who : Nat) : Bool :=
  if who < 8 then co.running == some who && !(co.ctxs.getD who .reset).frozen
  else co.jobs.any fun j => j.num + 8 == who && j.state == .queued

/-- Whether a command may issue: no conflict, and no earlier waiter that could issue as well (R108). -/
def Core.banksFree (co : Core) (now who : Nat) (mask : BitVec 64) : Bool :=
  co.noConflict now mask
    && (co.waiters.takeWhile (·.1 != who)).all fun w => !(co.waits w.1 && w.2 &&& mask != 0 && co.noConflict now w.2)

/-- A command takes its reservation. -/
def Core.reserve (co : Core) (who holder : Nat) (r : Ring) : Core :=
  { co with resv := co.resv ++ [⟨holder, r.base, r.banks, none⟩], waiters := co.waiters.filter (·.1 != who) }

/-- The trigger being executed takes a reservation for its command, or its bundle stalls. -/
def reserveBanks (m : Mach) (holder : Nat) (r : Ring) : Except Stop Mach :=
  if m.myCore.banksFree m.cycle m.issue.ctx r.banks then .ok (m.onMyCore (·.reserve m.issue.ctx holder r))
  else .error (.banks r.banks)

/-- A command's last vault access has performed: its reservation is released. -/
def Mach.release (m : Mach) (c holder : Nat) : Mach :=
  let free (r : Reservation) : Reservation :=
    if r.holder = holder ∧ r.released = none then { r with released := some m.cycle } else r
  (m.onCore c fun co => { co with resv := co.resv.map free }).dropRings c

/-- Reservations released in an earlier cycle are gone. -/
def Core.dropReleased (co : Core) (now : Nat) : Core :=
  let kept := co.resv.filter fun r => match r.released with
    | some t => now ≤ t
    | none => true
  { co with resv := kept, waiters := co.waiters.filter fun w => co.waits w.1 }

/-- An engine starts to use a slot. -/
def Mach.useSlot (m : Mach) (c : Nat) (ring : Option (Nat × Nat)) : Mach :=
  match ring with
  | some (b, i) => m.onCore c (·.onRing b (·.setSlot i fun s => { s with users := s.users + 1 }))
  | none => m

/-- An engine's last access to a slot has performed. -/
def Mach.leaveSlot (m : Mach) (c : Nat) (ring : Option (Nat × Nat)) : Mach :=
  match ring with
  | some (b, i) => m.onCore c (·.onRing b (·.setSlot i fun s => { s with users := s.users - 1 }))
  | none => m

/-! ## Slot transitions that follow later (R53, R125, R166) -/

/-- Whether a tf command writes memory (R209). -/
def TfCmd.fills (q : TfCmd) : Bool :=
  match q.op with
  | .tst | .tstr | .tquant | .fvst => true
  | _ => false

/-- Whether a tf command has accesses to a range of keys still to perform. -/
def TfCmd.meetsRange (q : TfCmd) (lo n : Nat) : Bool :=
  q.rows.any (·.any fun p => p.1 < lo + n && lo < p.1 + p.2) || q.side.any fun b => lo ≤ b.1 && b.1 < lo + n
    || q.puts.any fun p => p.mem.any fun b => lo ≤ b.1 && b.1 < lo + n

/-- Whether a filling slot is due to become full: `sy.rfill` has issued, and the stores before it and every engine access
to the slot have performed, by ring operand or by address (R53). -/
def Mach.fullDue (m : Mach) (c : Nat) (r : Ring) (i : Nat) : Bool :=
  let s := r.at i
  match s.fillBy with
  | some (k, mark) =>
    let x := m.ctx c k
    s.state == .filling && s.users == 0
      && !((x.pend ++ x.buffer).any fun e => e.seq ≤ mark && e.keys.any (r.slotHas i))
      && !((m.core c).tf.any fun q => q.id ≤ mark && q.fills && q.meetsRange (r.slotAddr i) r.slot)
  | none => false

/-- Whether a draining slot is due to become free: `sy.rgive` has issued and no command that read it through a cb reference is
still reading it (R53); reads by address do not count (R262). -/
def Ring.freeDue (r : Ring) (i : Nat) : Bool :=
  let s := r.at i
  s.state == .draining && s.given && s.users == 0

/-- RING_SLOT_FULL (R53). -/
def execRingSlotFull (core base slot : Nat) (s : State) : Out :=
  let m := s.mach
  endEvent s (match (m.core core).ring base with
    | some r =>
      if m.fullDue core r slot then
        m.onCore core (·.onRing base (·.setSlot slot fun q => { q with state := .full, fillBy := none }))
      else m
    | none => m)

/-- RING_SLOT_FREE (R53). -/
def execRingSlotFree (core base slot : Nat) (s : State) : Out :=
  let m := s.mach
  endEvent s (match (m.core core).ring base with
    | some r =>
      if r.freeDue slot then m.onCore core (·.onRing base (·.setSlot slot fun _ => .new)) else m
    | none => m)

/-! ## The ring triggers (R165, R166) -/

/-- Unbinds a handle of the context. -/
def unbind (m : Mach) (i : Nat) : Mach :=
  (m.onMe fun x => { x with cb := modifyAt (fun _ => none) i x.cb }).dropRings m.issue.core

/-- Binds a handle of the context to the ring with a base. -/
def bind (m : Mach) (i base : Nat) : Mach := m.onMe fun x => { x with cb := modifyAt (fun _ => some base) i x.cb }

/-- A trigger whose T must be a ring handle (R144). -/
def triggerRing (o : TOp) (s : State) (f : Mach → Nat → Except Stop Mach) : Out :=
  trigger o s fun _ m v =>
    match v with
    | .ref .cb i => f m i
    | _ => illMove

/-- sy.rinit (R165). -/
def execSyRinit (o : TOp) (s : State) : Out :=
  triggerRing o s fun m i =>
    with1 0x1EF .syA Val.isWord m fun a m =>
      let base := a.w.toNat
      if base = 0 then sySay (unbind m i) 2 0 0
      else with1 0x1EF .syB Val.isWord m fun b m =>
        let slot := bits b.w 63 32
        let n := bits b.w 8 0
        let m := unbind m i
        let c := m.issue.core
        if !ringAllowed c base slot n then sySay m 2 badRing 0
        else match m.myCore.ring base with
          | some r => if r.slot = slot ∧ r.n = n then sySay (bind m i base) 2 0 0 else sySay m 2 badRing 0
          | none =>
            if 32 ≤ m.myCore.rings.length then sySay m 2 ringFull 0
            else sySay (bind (m.onMyCore fun co => { co with rings := co.rings ++ [.make base slot n] }) i base) 2 0 0

/-- The ring a handle of the context names. -/
def Mach.myRing (m : Mach) (i : Nat) : Option Ring :=
  match m.me.cb.getD i none with
  | some b => m.myCore.ring b
  | none => none

/-- VALUE of rclaim and rtake. -/
def slotValue (r : Ring) (i : Nat) : Nat := i * 2 ^ 48 + r.slotAddr i

/-- sy.rclaim (R166). -/
def execSyRclaim (o : TOp) (s : State) : Out :=
  triggerRing o s fun m i =>
    match m.myRing i with
    | none => sySay m 2 badRing 0
    | some r =>
      if r.slotState r.head ≠ .free ∨ m.myCore.earlierWaiter m.issue.ctx (.ringFree r.base) then
        .error (.block (.ringFree r.base))
      else sySay (m.onMyCore (·.onRing r.base (·.claim false))) 2 0 (slotValue r r.head)

/-- sy.rtake (R166). -/
def execSyRtake (o : TOp) (s : State) : Out :=
  triggerRing o s fun m i =>
    match m.myRing i with
    | none => sySay m 2 badRing 0
    | some r =>
      if r.slotState r.tail ≠ .full ∨ m.myCore.earlierWaiter m.issue.ctx (.ringFull r.base) then
        .error (.block (.ringFull r.base))
      else sySay (m.onMyCore (·.onRing r.base Ring.take)) 2 0 (slotValue r r.tail)

/-- A slot operation that names its slot in latch a. -/
def slotTrigger (code : Nat) (ok : RingSlot → Bool) (f : Mach → RingSlot → RingSlot) (o : TOp) (s : State) : Out :=
  triggerRing o s fun m i =>
    with1 code .syA Val.isWord m fun a m =>
      match m.myRing i with
      | none => sySay m 2 badRing 0
      | some r =>
        let n := a.w.toNat
        if r.n ≤ n then sySay m 2 badOperand 0
        else if !ok (r.at n) then sySay m 2 badSlot 0
        else sySay (m.onMyCore (·.onRing r.base (·.setSlot n (f m)))) 2 0 0

/-- sy.rgive (R166). -/
def execSyRgive (o : TOp) (s : State) : Out :=
  slotTrigger 0x1F2 (fun q => q.state == .draining) (fun _ q => { q with given := true }) o s

/-- sy.rfill (R166): the slot becomes full once every earlier store of the context to it has performed. -/
def execSyRfill (o : TOp) (s : State) : Out :=
  slotTrigger 0x1F3 (fun q => q.state == .filling && !q.byJob)
    (fun m q => { q with fillBy := match q.fillBy with
      | some p => some p
      | none => some (m.issue.ctx, m.ids) }) o s

/-- sy.rstat (R166). -/
def execSyRstat (o : TOp) (s : State) : Out :=
  triggerRing o s fun m i =>
    match m.myRing i with
    | none => sySay m 2 badRing 0
    | some r =>
      sySay m 2 0 (r.head + r.tail * 2 ^ 8 + r.count .free * 2 ^ 16 + r.count .full * 2 ^ 25 + r.count .filling * 2 ^ 34
        + r.count .draining * 2 ^ 43)

/-! ## Barriers (R54, R126, R164) -/

/-- What an operation does to a barrier's two words: the new words, after the completion check that follows it (R126), and the
result (R164). An arrival at ARRIVE = 0 flips nothing. -/
def BarOp.apply (op : BarOp) (w0 w1 : Word) : Nat × Nat × Word :=
  let phase := bits w0 63 63
  let arrive := bits w0 47 32
  let tx := bits w0 31 0
  let init := bits w1 15 0
  match op with
  | .binit v => (v * 2 ^ 32, v, syWord 0 0)
  | .barr =>
    if arrive = 0 then (w0.toNat, w1.toNat, syWord barOver phase)
    else (barFlip phase (arrive - 1) tx init, w1.toNat, syWord 0 phase)
  | .bexp n => (barFlip phase arrive ((tx + n) % 2 ^ 32) init, w1.toNat, syWord 0 phase)
  | .btest => (barFlip phase arrive tx init, w1.toNat, syWord 0 (phase * 2 ^ 48 + arrive * 2 ^ 32 + tx))
  | .barm v => (barFlip phase arrive tx v, v, syWord 0 0)
  | .credit n => (barFlip phase arrive ((tx + 2 ^ 32 - n) % 2 ^ 32) init, w1.toNat, 0)

/-- The classes of R126, in their order. -/
def BarOp.cls : BarOp → Nat
  | .barr | .credit _ => 0
  | .bexp _ => 1
  | _ => 2

/-- Whether one barrier operation is applied before another that performs at the units in the same cycle (R126). -/
def BarReq.before (p q : BarReq) : Bool :=
  p.op.cls < q.op.cls || (p.op.cls == q.op.cls && (p.core < q.core || (p.core == q.core && p.ctx < q.ctx)))

/-- Inserts an operation in the order of R126. -/
def insertBar (b : BarReq) : List BarReq → List BarReq
  | [] => [b]
  | q :: rest => if b.before q then b :: q :: rest else q :: insertBar b rest

/-- Whether an operation can be applied: its cycle has come, and an arrival is a release at package scope (R127). -/
def Mach.barReady (m : Mach) (b : BarReq) : Bool :=
  b.due ≤ m.cycle && (b.op != .barr || m.coveredDone b.core b.ctx 1 b.tag)

/-- Applies one operation at its vault atomic unit; a btest that has performed holds its context back no more (R127). -/
def applyBar (mem : Memory) (m : Mach) (b : BarReq) : Mach :=
  let w0 := word (peekNat mem m b.addr 8)
  let w1 := word (peekNat mem m (b.addr + 8) 8)
  let (n0, n1, res) := b.op.apply w0 w1
  let m := (m.writeWord b.addr n0).writeWord (b.addr + 8) n1
  if b.tag = 0 then m
  else m.onCtx b.core b.ctx fun x => { x.arrive .sy b.tag res with acquires := x.acquires.filter (· != b.tag) }

/-- The key of a barrier. -/
def barrierKey (c n : Nat) : Nat := vaultBase c + 0xFFF000 + 16 * n

/-- The core a barrier operand word names. -/
def barrierCore (w : Word) (own : Nat) : Nat := if bits w 31 31 = 1 then bits w 23 16 else own

/-- A barrier trigger: `arg` gives its operation, or none where latch a is outside its limits (R164). A btest is an acquire: the
context's later bundles wait until it has performed (R121, R127). -/
def barTrigger (m : Mach) (t : Word) (op : Option BarOp) : Except Stop Mach :=
  let own := m.issue.core
  let c := barrierCore t own
  if 159 < c then sySay m 12 badOperand 0
  else if !inPart m.myPart c then prot 2 0
  else
    let cycles := vaultCycles own c
    match op with
    | none => sySay m cycles badOperand 0
    | some op =>
      let (tag, m) := m.newId
      let m := m.awaitResult .sy tag
      let m := if op = .btest then m.onMe fun x => { x with acquires := tag :: x.acquires } else m
      let due := m.cycle + cycles
      .ok (Mach.post { m with bars := m.bars ++ [⟨barrierKey c (bits t 7 0), op, own, m.issue.ctx, tag, due⟩] } due
        .barrierUnits)

/-- An INIT from 1 to 65,535. -/
def initOf (a : Word) : Option Nat := if 1 ≤ a.toNat ∧ a.toNat ≤ 65535 then some a.toNat else none

/-- sy.binit (R164). -/
def execSyBinit (o : TOp) (s : State) : Out :=
  triggerW o s fun _ m t =>
    with1 0x1EA .syA Val.isWord m fun a m => barTrigger m t ((initOf a.w).map .binit)

/-- sy.barr (R164, R127). -/
def execSyBarr (o : TOp) (s : State) : Out := triggerW o s fun _ m t => barTrigger m t (some .barr)

/-- sy.bexp (R164). -/
def execSyBexp (o : TOp) (s : State) : Out :=
  triggerW o s fun _ m t =>
    with1 0x1EC .syA Val.isWord m fun a m => barTrigger m t (some (.bexp (bits a.w 31 0)))

/-- sy.btest (R164). -/
def execSyBtest (o : TOp) (s : State) : Out := triggerW o s fun _ m t => barTrigger m t (some .btest)

/-- sy.barm (R164). -/
def execSyBarm (o : TOp) (s : State) : Out :=
  triggerW o s fun _ m t =>
    with1 0x1EE .syA Val.isWord m fun a m => barTrigger m t ((initOf a.w).map .barm)

/-! ## Armed flags (R161, R263) -/

/-- Whether a job record is over: complete or cancelled. -/
def Job.over (j : Job) : Bool :=
  match j.state with
  | .complete | .failed | .cancelled => true
  | _ => false

/-- Whether a job of a core is complete, cancelled or retired (R237). -/
def Core.jobOver (co : Core) (num : Nat) : Bool :=
  match co.jobs.find? (·.num == num) with
  | some j => j.over
  | none => true

/-- Whether the condition of an arming holds in this cycle. -/
def armHolds (mem : Memory) (m : Mach) (c k : Nat) (a : Arm) : Bool :=
  let x := m.ctx c k
  let co := m.core c
  let ringCount (st : SlotState) : Bool := match x.cb.getD (bits a.arg 3 0) none with
    | some b => match co.ring b with
      | some r => bits a.arg 16 8 ≤ r.count st
      | none => false
    | none => false
  match a.kind with
  | 1 => bits (word (peekNat mem m (barrierKey (barrierCore a.arg c) (bits a.arg 7 0)) 8)) 63 63 == bits a.arg 8 8
  | 2 => ringCount .full
  | 3 => ringCount .free
  | 4 => !x.rx.isEmpty
  | 5 => co.jobOver (bits a.arg 63 48)
  | 6 => (x.fv.getD (bits a.arg 5 0) .zero).state != .pending
  | 7 => a.arg.toNat ≤ m.cycle
  | _ => false

/-- What is wrong with the argument of an arming: a status, or none (R161). Of two for a ring, BAD_OPERAND goes first (log 134). -/
def armStatus (x : Ctx) (kind : Nat) (a : Word) (own : Nat) : Nat :=
  match kind with
  | 0 | 4 | 7 => 0
  | 1 => if 159 < barrierCore a own then badOperand else 0
  | 2 | 3 =>
    if x.cb.length ≤ bits a 3 0 ∨ bits a 16 8 = 0 ∨ 256 < bits a 16 8 then badOperand
    else if (x.cb.getD (bits a 3 0) none).isNone then badRing
    else 0
  | 5 => if bits a 63 48 = 0 then badOperand else 0
  | 6 => if x.fv.length ≤ bits a 5 0 then badOperand else 0
  | _ => badOperand

/-- A flag's earlier arming ends (R263): what it has done in this cycle is undone, unless a move of the bundle has written the
flag since. -/
def Ctx.disarm (x : Ctx) (i : Nat) : Ctx :=
  let mask : BitVec 16 := 1 <<< i
  let x := if x.reached &&& mask ≠ 0 then x.setFlag i false else x
  { x with armHeld := x.armHeld &&& ~~~ mask, reached := x.reached &&& ~~~ mask }

/-- Arms a flag, and sets it where the condition holds already (R161, R263). -/
def armFlag (mem : Memory) (m : Mach) (t a : Word) : Except Stop Mach :=
  let kind := bits t 7 4
  let i := bits t 3 0
  let own := m.issue.core
  if kind = 1 ∧ barrierCore a own ≤ 159 ∧ !inPart m.myPart (barrierCore a own) then prot 2 0
  else
    let st := armStatus m.me kind a own
    if st ≠ 0 then sySay m 1 st 0
    else
      let m := m.onMe fun x => { x.disarm i with arms := modifyAt (fun _ => ⟨kind, a⟩) i x.arms }
      let m := if armHolds mem m own m.issue.ctx ⟨kind, a⟩ then m.onMe (·.setFlag i true) else m
      sySay m 1 0 0

/-- sy.farm (R161): kinds 0 and 4 ignore a, and a reserved kind uses nothing. -/
def execSyFarm (o : TOp) (s : State) : Out :=
  triggerW o s fun mem m t =>
    let kind := bits t 7 4
    if kind = 0 ∨ kind = 4 ∨ 8 ≤ kind then armFlag mem m t 0
    else with1 0x1FC .syA Val.isWord m fun a m => armFlag mem m t a.w

/-- The flags of a context whose armed condition, a deadline apart, holds now (R161). -/
def armedNow (mem : Memory) (m : Mach) (c k : Nat) : BitVec 16 :=
  ((upFrom 0 16).zip (m.ctx c k).arms).foldl (fun b p =>
    if p.2.kind ≠ 0 && p.2.kind ≠ 7 && armHolds mem m c k p.2 then b ||| (1 : BitVec 16) <<< p.1 else b) 0

/-- What is armed to flags of a context and holds now is noted (R43). -/
def Ctx.noteArmed (mem : Memory) (m : Mach) (c k : Nat) (x : Ctx) : Ctx :=
  if x.status == .free || x.arms.all (·.kind == 0) then x else { x with armHeld := x.armHeld ||| armedNow mem m c k }

/-- Notes for every context what its flags are armed to and holds now: a condition that does not last until the clock edge sets
its flag too (R43). -/
def noteArmed (mem : Memory) (m : Mach) : Mach :=
  { m with cores := ((upFrom 0 m.cores.length).zip m.cores).map fun p =>
      if p.2.ctxs.all fun x => x.arms.all (·.kind == 0) then p.2
      else { p.2 with ctxs := ((upFrom 0 p.2.ctxs.length).zip p.2.ctxs).map fun q => q.2.noteArmed mem m p.1 q.1 } }

/-- The vault atomic units apply the barrier operations that have reached them, in the order of R126; an arrival that must
wait is tried again in the next cycle. -/
def barrierUnits (s : State) : Out :=
  let m := s.mach
  let ready := (m.bars.filter m.barReady).foldl (fun l b => insertBar b l) []
  let rest := m.bars.filter fun b => !m.barReady b
  let m := ready.foldl (fun m b => noteArmed s.mem (applyBar s.mem m b)) { m with bars := rest }
  endEvent s (if rest.any (·.due ≤ m.cycle) then m.again .barrierUnits else m)

/-- The flags whose deadline had come in the cycle before (R161). -/
def overdue (x : Ctx) (now : Nat) : BitVec 16 :=
  ((upFrom 0 16).zip x.arms).foldl (fun b p =>
    if p.2.kind = 7 ∧ p.2.arg.toNat < now then b ||| (1 : BitVec 16) <<< p.1 else b) 0

/-- At the clock edge sets the flags of a context whose armed condition has held in the cycle that ends or holds now, whatever a
bundle has written into them (R43, R161). -/
def setArmedAll (mem : Memory) (c : Nat) (m : Mach) (k : Nat) : Mach :=
  let x := m.ctx c k
  if x.status == .free || (x.arms.all (·.kind == 0) && x.armHeld == 0 && x.reached == 0) then m
  else
    let now := armedNow mem m c k
    let held := x.armHeld ||| now ||| overdue x m.cycle
    let m := (upFrom 0 16).foldl (fun m i =>
      if held.getLsbD i && !(m.ctx c k).flag i then m.onCtx c k (·.setFlag i true) else m) m
    m.onCtx c k fun x => { x with armHeld := now, reached := 0 }

/-- Whether a deadline armed on a flag has come and the flag is not set. -/
def Ctx.deadlineDue (x : Ctx) (now i : Nat) : Bool :=
  let a := x.arms.getD i ⟨0, 0⟩
  a.kind == 7 && a.arg.toNat ≤ now && !x.flag i

/-- DEADLINE_REACHED (R161). -/
def execDeadlineReached (core ctx flag : Nat) (s : State) : Out :=
  endEvent s (if (s.mach.ctx core ctx).deadlineDue s.mach.cycle flag then s.mach.onCtx core ctx fun x =>
        { x.setFlag flag true with reached := x.reached ||| (1 : BitVec 16) <<< flag }
    else s.mach)

end Sys2Proof.Machine
end

