-- ==== Sys2Proof/Machine/Atom.lean ====
section
/-!
DEFINITION. Atomics: what an operation does to a word (spec/11_ops_memory_engines.md R223, R224; spec/03_numbers.md
R78, R79), the porter's handlers (spec/16_fabric.md R283, R284), and how fetch-and-operate requests travel, combine and
are answered (spec/06_ordering.md R118-R123; spec/15_prog_ticket_combining.md R265-R267).
-/

namespace Sys2Proof.Machine

/-! ## Types and operands (R223) -/

/-- The access size of a TYPE. -/
def typeSize : Nat → Nat
  | 0 | 1 | 4 => 4
  | 2 | 3 => 8
  | _ => 2

/-- The floating format of a TYPE. -/
def typeFloat : Nat → FloatFmt
  | 5 => f16
  | 6 => bf16
  | _ => f32

/-- Whether a TYPE is signed. -/
def typeSigned (t : Nat) : Bool := t == 0 || t == 2

/-- The low bytes of a TYPE's size, sign-extended for i32 and zero-extended otherwise (R224). -/
def typeExtend (t : Nat) (v : Word) : Word :=
  if t = 0 then sext 32 v.toNat else word (v.toNat % 2 ^ (8 * typeSize t))

/-- The operand as it travels: C40 for a floating add, else extended to 64 bits (R78, R79, R277). -/
def carry (a : Atomic) (d : Word) : Word :=
  if a.aop = 7 ∧ a.kind ≠ .hnd ∧ a.kind ≠ .cas then
    (toC40 ((typeFloat a.type).decode (typeExtend a.type d).toNat)).setWidth 64
  else typeExtend a.type d

/-- The C40 value a carried word holds. -/
def carriedC40 (w : Word) : BitVec 40 := w.setWidth 40

/-- Minimum of two carried integers. -/
def minBy (signed : Bool) (a b : Word) : Word :=
  if signed then (if a.toInt ≤ b.toInt then a else b) else if a.toNat ≤ b.toNat then a else b
/-- Maximum of two carried integers. -/
def maxBy (signed : Bool) (a b : Word) : Word :=
  if signed then (if a.toInt ≤ b.toInt then b else a) else if a.toNat ≤ b.toNat then b else a

/-! ## Handlers (R283, R284) -/

/-- Splits a word into lanes of `w` bits, lowest first. -/
def laneList (w : Nat) (v : Word) : List Nat := (upFrom 0 (64 / w)).map fun i => field v.toNat (w * i + w - 1) (w * i)

/-- The word of lanes. -/
def ofLanes (w : Nat) : List Nat → Nat
  | [] => 0
  | x :: rest => x % 2 ^ w + 2 ^ w * ofLanes w rest

/-- Lane-wise operation. -/
def laneWise (w : Nat) (f : Nat → Nat → Nat) (v d : Word) : Word :=
  word (ofLanes w (((laneList w v).zip (laneList w d)).map fun p => f p.1 p.2))

/-- Lane-wise operation on signed lanes. -/
def laneSigned (w : Nat) (f : Int → Int → Int) : Word → Word → Word :=
  laneWise w fun a b => (BitVec.ofInt w (f (sint w a) (sint w b))).toNat

/-- Lane-wise floating operation. -/
def laneFloat (f : FloatFmt) (w : Nat) (op : Fl → Fl → Fl) : Word → Word → Word :=
  laneWise w fun a b => f.encode false (op (f.decode a) (f.decode b))

/-- Entries 8 and 9: the value with its index that replaces the old one. -/
def keepBest (greater : Bool) (v d : Word) : Word :=
  let fv := f32Of (bits v 63 32)
  let fd := f32Of (bits d 63 32)
  if fd.isNan then v
  else if fv.isNan then d
  else if (if greater then fv.lt fd else fd.lt fv) || (fd.eq fv && bits d 31 0 < bits v 31 0) then d else v

/-- A fixed entry: the new value and the result (R283). -/
def fixedHandler (h : Nat) (v d b : Word) : Word × Word :=
  let bitAt := bits d 5 0
  let sum := v.toNat + d.toNat
  match h with
  | 0 => (minBy false (word (min sum (2 ^ 64 - 1))) b, v)
  | 1 => (if d.toNat ≤ v.toNat ∧ b.toNat ≤ v.toNat - d.toNat then v - d else v, v)
  | 2 => (if b = 0 then v + d else word (sum % b.toNat), v)
  | 3 => (v ||| (1 <<< bitAt), v)
  | 4 => (v &&& ~~~ ((1 : Word) <<< bitAt), v)
  | 5 => (v ||| (1 <<< bitAt), word (b2n (bit v.toNat bitAt)))
  | 6 => ((v &&& ~~~ b) ||| (d &&& b), v)
  | 7 => (if v = 0 then d else v, v)
  | 8 => (keepBest true v d, v)
  | 9 => (keepBest false v d, v)
  | 10 => (laneSigned 32 (· + ·) v d, v)
  | 11 => (laneSigned 16 (· + ·) v d, v)
  | 12 => (laneSigned 16 (fun a c => satInt (-32768) 32767 (a + c)) v d, v)
  | 13 => (laneSigned 16 max v d, v)
  | 14 => (laneSigned 16 min v d, v)
  | 15 => (laneWise 8 (· + ·) v d, v)
  | 16 => (laneFloat f32 32 Fl.add v d, v)
  | 17 => (laneFloat bf16 16 Fl.add v d, v)
  | 18 => (laneFloat f16 16 Fl.add v d, v)
  | 19 => (laneFloat f32 32 Fl.max v d, v)
  | 20 => if v.toNat < b.toNat then (v + 1, v) else (v, BitVec.allOnes 64)
  | 21 => (v + d, if v + d = b then 1 else 0)
  | 22 => (word (bits d 31 0 * 2 ^ 32 + bits v 31 0), v)
  | _ => (wordOfInt (satInt (-(2 ^ 63)) (2 ^ 63 - 1) (v.toInt + d.toInt)), v)

/-- The porter's registers while a loadable program runs. -/
structure PorterRegs where
  x : Word
  n : Word
  q : Word
  deriving DecidableEq, Repr

/-- One step of a loadable program (R284). -/
def porterStep (v d b : Word) (r : PorterRegs) (st : Nat) : PorterRegs :=
  let read (i : Nat) : Word := match i with
    | 0 => v
    | 1 => d
    | 2 => b
    | _ => r.x
  let p : Word := read (field st 9 8)
  let q : Word := if bit st 5 then word (field st 4 0) else read (field st 7 6)
  let res : Word := match field st 15 12 with
    | 0 => p
    | 1 => p + q
    | 2 => p - q
    | 3 => p &&& q
    | 4 => p ||| q
    | 5 => p ^^^ q
    | 6 => p &&& ~~~ q
    | 7 => p <<< (q.toNat % 64)
    | 8 => p >>> (q.toNat % 64)
    | 9 => minBy true p q
    | 10 => maxBy true p q
    | 11 => minBy false p q
    | 12 => maxBy false p q
    | 13 => if r.x ≠ 0 then p else q
    | 14 => word (b2n (p == q))
    | _ => word (b2n (decide (p.toNat < q.toNat)))
  match field st 11 10 with
  | 0 => { r with x := res }
  | 1 => { r with n := res }
  | _ => { r with q := res }

/-- Runs a loadable entry's image: N and Q. -/
def porterRun (image : List Word) (v d b : Word) : Word × Word :=
  let steps := laneList 16 (image.getD 2 0) ++ laneList 16 (image.getD 3 0)
  let r := (steps.take (bits (image.getD 0 0) 3 0)).foldl (porterStep v d b) ⟨0, v, v⟩
  (r.n, r.q)

/-- A loadable entry's state. -/
def Mach.handler (m : Mach) (h : Nat) : Handler := m.handlers.getD (h - 24) ⟨false, false, false, 0, []⟩

/-- What handler `h` does: the new value and the result; a loadable entry never loaded gives 0 and changes nothing
(R285). -/
def Mach.runHandler (m : Mach) (h : Nat) (v d b : Word) : Word × Word :=
  if h < 24 then fixedHandler h v d b
  else if (m.handler h).loaded then porterRun (m.handler h).image v d b
  else (v, 0)

/-! ## Folding (R123, R224) -/

/-- The combined operand of two carried operands (R123, R284). -/
def Mach.combine (m : Mach) (a : Atomic) (p q : Word) : Word :=
  if a.kind = .hnd then (porterRun (m.handler a.hnd).image p q (typeExtend a.type a.b)).1
  else match a.aop with
    | 1 => p + q
    | 2 => p &&& q
    | 3 => p ||| q
    | 4 => p ^^^ q
    | 5 => maxBy (typeSigned a.type) p q
    | 6 => minBy (typeSigned a.type) p q
    | _ => (c40Add (carriedC40 p) (carriedC40 q)).setWidth 64

/-- The range a saturating request saturates to (R79). -/
def satRange (t : Nat) : Int × Int := if t = 0 then (-2147483648, 2147483647) else (0, 4294967295)

/-- The value of a word advanced by a carried operand, extended by its TYPE (R79, R123, R224). -/
def Mach.advanceBy (m : Mach) (a : Atomic) (v p : Word) : Word :=
  if a.kind = .hnd then typeExtend a.type (porterRun (m.handler a.hnd).image v p (typeExtend a.type a.b)).1
  else
    let f := typeFloat a.type
    let vf := f.decode v.toNat
    match a.aop with
    | 0 => typeExtend a.type p
    | 1 =>
      if a.sat then
        let vi : Int := if a.type = 0 then v.toInt else v.toNat
        typeExtend a.type (wordOfInt (satInt (satRange a.type).1 (satRange a.type).2 (vi + p.toInt)))
      else typeExtend a.type (v + p)
    | 2 => v &&& p
    | 3 => v ||| p
    | 4 => v ^^^ p
    | 5 => maxBy (typeSigned a.type) v p
    | 6 => minBy (typeSigned a.type) v p
    | 7 => word (f.encode false (vf.add (c40.decode (carriedC40 p).toNat)))
    | 8 => word (f.encode false (vf.max (f.decode p.toNat)))
    | _ => word (f.encode false (vf.min (f.decode p.toNat)))

/-- A request that stands alone: the new value, whether it is written, and the result (R224). -/
def Mach.performOne (m : Mach) (a : Atomic) (v d : Word) : Word × Bool × Word :=
  match a.kind with
  | .cas => (typeExtend a.type d, v == typeExtend a.type a.b, v)
  | .hnd =>
    let (n, r) := m.runHandler a.hnd v (typeExtend a.type d) (typeExtend a.type a.b)
    (typeExtend a.type n, true, typeExtend a.type r)
  | _ => (m.advanceBy a v d, true, v)

/-- The operand a combination carries. -/
def Mach.comboValue (m : Mach) (a : Atomic) : Combo → Word
  | .leaf _ d _ => d
  | .pair p q => m.combine a (m.comboValue a p) (m.comboValue a q)

/-- What each constituent receives: who, the prefix, the cycles of its way back (R123). `acc` is the combined operand of
those before it. -/
def Mach.prefixes (m : Mach) (a : Atomic) (v : Word) : Option Word → Combo → List (Origin × Word × Nat)
  | acc, .leaf who _ hops =>
    [(who, match acc with
      | none => v
      | some p => m.advanceBy a v p, hops)]
  | acc, .pair p q =>
    let pv := m.comboValue a p
    m.prefixes a v acc p ++ m.prefixes a v (some (match acc with
      | none => pv
      | some x => m.combine a x pv)) q

/-! ## Paths (R265) -/

/-- The routers from one column to another in a row of a die, the first left out, with the port each is entered on. -/
def alongRow (die y : Nat) : Nat → Nat → Nat → List (Nat × Nat)
  | 0, _, _ => []
  | fuel + 1, x, x' =>
    if x = x' then []
    else if x < x' then (coreAt die (x + 1) y, 4) :: alongRow die y fuel (x + 1) x'
    else (coreAt die (x - 1) y, 2) :: alongRow die y fuel (x - 1) x'

/-- The routers from one row to another in a column of a die. -/
def alongColumn (die x : Nat) : Nat → Nat → Nat → List (Nat × Nat)
  | 0, _, _ => []
  | fuel + 1, y, y' =>
    if y = y' then []
    else if y < y' then (coreAt die x (y + 1), 1) :: alongColumn die x fuel (y + 1) y'
    else (coreAt die x (y - 1), 3) :: alongColumn die x fuel (y - 1) y'

/-- The routers a request passes from its core to its home core, with their input ports: port 0 in its own. -/
def netPath (c h : Nat) : List (Nat × Nat) :=
  (c, 0) :: (if dieOf c = dieOf h then
      alongRow (dieOf c) (rowOf c) 10 (colOf c) (colOf h) ++ alongColumn (dieOf c) (colOf h) 4 (rowOf c) (rowOf h)
    else
      alongRow (dieOf c) (rowOf c) 10 (colOf c) 9 ++ [(coreAt (dieOf h) 9 (rowOf c), 5)]
        ++ alongColumn (dieOf h) 9 4 (rowOf c) (rowOf h) ++ alongRow (dieOf h) (rowOf h) 10 9 (colOf h))

/-- The router at the home of a key: the vault's core, or the attachment core of the HBM stack. -/
def homeRouter (key : Nat) : Nat :=
  if key < hbmStart then vaultCore key
  else
    let h := field (key - hbmStart) 39 37
    coreAt (h / 2) (if h % 2 = 0 then 2 else 7) 0

/-! ## Routers (R122, R266, R267) -/

/-- Whether a request can combine (R122). -/
def Mach.combinable (m : Mach) (r : NetReq) : Bool :=
  match r.at_.kind with
  | .famo | .red => true
  | .hnd => 24 ≤ r.at_.hnd && (m.handler r.at_.hnd).loaded && (m.handler r.at_.hnd).assoc && !(m.handler r.at_.hnd).held
  | _ => false

/-- Whether two requests agree: address, operator or handler, type, scope and order (R122, R284). -/
def agree (r q : NetReq) : Bool :=
  r.key == q.key && r.at_.type == q.at_.type && r.at_.scope == q.at_.scope && r.at_.ord == q.at_.ord
    && (r.at_.kind == .hnd) == (q.at_.kind == .hnd)
    && (if r.at_.kind = .hnd then r.at_.hnd == q.at_.hnd && typeExtend r.at_.type r.at_.b == typeExtend q.at_.type q.at_.b
        else r.at_.aop == q.at_.aop && r.at_.sat == q.at_.sat)

/-- The first constituent. -/
def Combo.first : Combo → Origin
  | .leaf who _ _ => who
  | .pair p _ => p.first

/-- The context number by which requests on port 0 are ordered. -/
def Origin.ctxNo : Origin → Nat
  | .lu _ k _ _ | .tf _ k _ _ | .fq _ k _ | .job _ k _ _ => k
  | .peer _ _ k _ => k

/-- The order in which a router lists requests: waiting before entering, oldest first, then by port and context. -/
def NetReq.order (r : NetReq) : Nat × Nat × Nat := (r.entered, (r.path.headD (0, 0)).2, r.combo.first.ctxNo)

/-- Whether one request is listed before another. -/
def listedBefore (r q : NetReq) : Bool :=
  let a := r.order
  let b := q.order
  a.1 < b.1 || (a.1 == b.1 && (a.2.1 < b.2.1 || (a.2.1 == b.2.1 && (a.2.2 < b.2.2 || (a.2.2 == b.2.2 && r.id < q.id)))))

/-- Inserts a request into a list in the order of R266. -/
def insertListed (r : NetReq) : List NetReq → List NetReq
  | [] => [r]
  | q :: rest => if listedBefore r q then r :: q :: rest else q :: insertListed r rest

/-- The event in which a request performs at its home. -/
def NetReq.event (r : NetReq) : Event :=
  match r.combo.first with
  | .lu c k _ _ => .storePerform c k 0
  | .job c _ n i => .jobTransfer c n i
  | _ => .channelDeliver r.id

/-- Replaces a request of the network. -/
def Mach.setNet (m : Mach) (r : NetReq) : Mach := { m with net := m.net.map fun q => if q.id = r.id then r else q }

/-- A request leaves the router it is in, in cycle t: for the next router, or for its home. -/
def Mach.leaveRouter (m : Mach) (r : NetReq) (t : Nat) : Mach :=
  match r.path with
  | _ :: next :: rest =>
    let r' := { r with path := next :: rest, entered := t + 2 }
    let m := (m.setNet r').post (t + 2) (.routerCombine next.1)
    m.post (t + 10) (.routerWaitTimeout next.1 r.id)
  | _ =>
    let due := if r.fabric then t + 40 else t + 1
    (m.setNet { r with due := some due }).post due r.event

/-- A request enters its first router in this cycle. One that cannot combine waits nowhere: each hop takes 2 cycles. -/
def Mach.enterNet (m : Mach) (r : NetReq) : Mach :=
  let m : Mach := { m with net := m.net ++ [r] }
  if m.combinable r then
    (m.post m.cycle (.routerCombine (r.path.headD (0, 0)).1)).post (m.cycle + 8)
      (.routerWaitTimeout (r.path.headD (0, 0)).1 r.id)
  else
    let hops := r.path.length - 1
    m.leaveRouter { r with path := r.path.drop hops, entered := m.cycle + 2 * hops } (m.cycle + 2 * hops)

/-- The requests that a router pairs in this cycle, in the order it lists them. -/
def Mach.listedAt (m : Mach) (router : Nat) : List NetReq :=
  (m.net.filter fun r => r.due.isNone && (r.path.headD (0, 0)).1 == router && r.entered ≤ m.cycle && m.combinable r).foldl
    (fun l r => insertListed r l) []

/-- Pairs the first request of a list with the first later one that agrees with it; with none it waits. -/
def Mach.pairUp (m : Mach) : Nat → List NetReq → Mach
  | 0, _ => m
  | _, [] => m
  | fuel + 1, r :: rest =>
    match rest.find? (agree r) with
    | none => m.pairUp fuel rest
    | some q =>
      let (p1, p2) := if (q.path.headD (0, 0)).2 < (r.path.headD (0, 0)).2 then (q, r) else (r, q)
      let (n, m) := m.newId
      let c : NetReq := { p1 with id := n, combo := .pair p1.combo p2.combo }
      let m : Mach := { m with net := m.net.filter (fun x => x.id != r.id && x.id != q.id) ++ [c] }
      (m.leaveRouter c (m.cycle + 1)).pairUp fuel (rest.filter (·.id != q.id))

/-- ROUTER_COMBINE (R266). -/
def execRouterCombine (router : Nat) (s : State) : Out :=
  let l := s.mach.listedAt router
  endEvent s (s.mach.pairUp l.length l)

/-- ROUTER_WAIT_TIMEOUT (R122, R266): after 8 cycles without a partner the request leaves alone. -/
def execRouterWaitTimeout (router id : Nat) (s : State) : Out :=
  let m := s.mach
  endEvent s (match m.net.find? fun r => r.id == id && r.due.isNone && (r.path.headD (0, 0)).1 == router with
    | some r => if r.entered + 8 ≤ m.cycle then m.leaveRouter r m.cycle else m
    | none => m)

/-! ## The store buffer's head (R112, R119, R121) -/

/-- The nominal cycles from its entry into its own router to performing, with no wait (R265). -/
def walkCycles (path : List (Nat × Nat)) : Nat := 2 * (path.length - 1) + 1

/-- The head of a context's store buffer begins to perform: its pieces at their cycle, an atomic by way of its own core's router,
which it enters now (R265). -/
def Mach.kickBuffer (m : Mach) (c k : Nat) : Mach :=
  match (m.ctx c k).buffer with
  | [] => m
  | e :: rest =>
    if e.sent then m
    else
      match e.atomic with
      | none =>
        let m := m.onCtx c k fun x => { x with buffer := { e with sent := true } :: rest }
        (upFrom 0 e.pieces.length).foldl (fun m i => m.post e.due (.storePerform c k i)) m
      | some a =>
        let m := m.onCtx c k fun x => { x with buffer := { e with sent := true } :: rest }
        let path := netPath c (homeRouter (e.keys.headD 0))
        let walk := walkCycles path
        let back := max (2 * path.length) (e.due - (m.cycle + walk))
        let (n, m) := m.newId
        m.enterNet ⟨n, e.keys.headD 0, a, .leaf (.lu c k (((m.ctx c k).unit.map (·.uid)).getD 0) (e.tag.getD 0)) (carry a a.d) back,
          path, m.cycle, false, partOf c, none⟩

/-- The head of the store buffer has performed. -/
def Mach.popBuffer (m : Mach) (c k : Nat) : Mach :=
  (m.onCtx c k fun x => { x with buffer := x.buffer.drop 1 }).kickBuffer c k

/-- A transfer of a job has performed: the cursor passes it and the later ones that have performed already. -/
def Job.perform (j : Job) (i : Nat) : Job :=
  let ahead := i :: j.ahead
  let run := (upFrom j.n (ahead.length + 1)).find? fun t => !ahead.contains t
  let n' := run.getD j.n
  { j with n := n', ahead := ahead.filter (n' ≤ ·), flights := j.flights.filter (·.idx != i) }

/-- Changes a job of a core. -/
def Mach.onJob (m : Mach) (c num : Nat) (f : Job → Job) : Mach :=
  m.onCore c fun co => { co with jobs := co.jobs.map fun j => if j.num = num then f j else j }

/-- OP of a request. -/
def reqOp (h : Word) : Nat := bits h 3 0

/-- The atomic operation of a request, none for a read, a write and an invalid OP. -/
def reqKind (h : Word) : Option AtomKind :=
  match reqOp h with
  | 2 => some .amo
  | 3 => some .cas
  | 4 => some .famo
  | 5 => some .red
  | 6 => some .hnd
  | _ => none

/-- The words of a reply (R244): its header and data. -/
def replyWords (pkg : Nat) (request : Word) (status size : Nat) (data : List Word) : List Word :=
  word (pkg * 2 ^ 56 + bits request 55 48 * 2 ^ 48 + status * 2 ^ 40 + size * 2 ^ 8 + bits request 3 0) :: data

/-- Whether a request draws no reply (R242). -/
def noReply (request : Word) : Bool :=
  bits request 7 7 == 1 && (bits request 3 0 == 1 || bits request 3 0 == 5)

/-- The reply to a request that came through the ingress router: into the own package's fq.rx or engine after `delay`
cycles, or a cycle earlier, as it leaves the ingress router, into the send queue of the port that the request arrived on (R266,
R270). -/
def Mach.replyTo (m : Mach) (g : Msg) (status size : Nat) (data : List Word) (delay : Nat) : Mach :=
  let h := g.words.getD 0 0
  let ws := replyWords m.pkg h status size data
  match g.who with
  | .peer _ _ _ _ => 
    if noReply h then m
    else Mach.post { m with leaving := m.leaving ++ [⟨g.id, true, g.plane, g.peer, g.who, ws, 8 * ws.length⟩] }
      (m.cycle + (delay - 1)) (.fqReplyArrive g.id)
  | .job c _ n i =>
    if noReply h then (m.onJob c n (·.perform i)).post (m.cycle + delay) (.jobComplete c n)
    else Mach.post { m with replies := m.replies ++ [⟨g.id, g.who, ws⟩] } (m.cycle + delay) (.fqReplyArrive g.id)
  | who =>
    if noReply h then m
    else Mach.post { m with replies := m.replies ++ [⟨g.id, who, ws⟩] } (m.cycle + delay) (.fqReplyArrive g.id)

/-- One constituent of a request that has performed learns of it (R123, R244, R266): a fabric request by its own OP, whatever it
was combined with. -/
def Mach.answer (m : Mach) (r : Origin × Word × Nat) : Mach :=
  match r with
  | (.lu c k _ tag, w, back) =>
    let m := m.popBuffer c k
    if tag = 0 then m else m.post (m.cycle + back) (.loadResultArrive c k tag w)
  | (.job c _ n i, _, back) => (m.onJob c n (·.perform i)).post (m.cycle + back) (.jobComplete c n)
  | (.peer _ _ _ id, w, back) =>
    match m.ingress.find? (·.msg.id == id) with
    | some a' =>
      let g := a'.msg
      let m := ({ m with ingress := m.ingress.filter (·.msg.id != id) } : Mach).delivered id
      if reqKind (g.words.getD 0 0) = some .red then m.replyTo g 0 0 [] back else m.replyTo g 0 8 [w] back
    | none => m
  | (.fq _ _ _, _, _) | (.tf _ _ _ _, _, _) => m

/-- A request performs at its home: one indivisible read and write for all its constituents (R118, R123). -/
def Mach.performNet (mem : Memory) (m : Mach) (r : NetReq) : Mach :=
  let a := r.at_
  let n := typeSize a.type
  let v := typeExtend a.type (word (peekNat mem m r.key n))
  let m : Mach := { m with net := m.net.filter (·.id != r.id) }
  match r.combo with
  | .leaf who d back =>
    let (new, writes, res) := m.performOne a v d
    let m := (if writes then m.writeBytes r.key (bytesLE n new.toNat) else m).settleBarriers mem (upFrom r.key n)
    Mach.answer m (who, res, back)
  | c =>
    let answers := m.prefixes a v none c
    (answers.foldl Mach.answer ((m.writeBytes r.key (bytesLE n (m.advanceBy a v (m.comboValue a c)).toNat)).settleBarriers mem
      (upFrom r.key n)))

/-- Whether a request at its home performs before another that has reached the same home (R267). -/
def NetReq.before (q r : NetReq) (now : Nat) : Bool :=
  q.id != r.id && homeRouter q.key == homeRouter r.key && (match q.due with
    | some t => t ≤ now
    | none => false)
    && ((!q.fabric && r.fabric) || (q.fabric == r.fabric && listedBefore q r))

/-- The constituents of a combination. -/
def Combo.leaves : Combo → List Origin
  | .leaf who _ _ => [who]
  | .pair p q => p.leaves ++ q.leaves

/-- Whether an atomic of the host port stands between its read and its write of one of the keys (R118). -/
def Mach.hostBusy (m : Mach) (keys : List Nat) : Bool :=
  m.host.any fun p => p.atomic.isNone && !p.load && p.tag.isSome && p.keys.any keys.contains

/-- Whether a release among the constituents must still wait for the accesses that it covers (R121). -/
def Mach.releaseWaits (m : Mach) (r : NetReq) : Bool :=
  r.combo.leaves.any fun w => match w with
    | .lu c k _ _ => match (m.ctx c k).buffer.head? with
      | some e => e.release && !m.coveredDone c k r.at_.scope e.seq
      | none => false
    | _ => false

/-- Whether an access to some of the keys must wait for the attachment: host memory, and no module trained (R335). -/
def Mach.hostDown (m : Mach) (keys : List Nat) : Bool := m.boot.modules == 0 && keys.any fun k => windowOf k == .host

/-- Whether nothing holds back a request that has reached its home (R118, R121, R335). -/
def Mach.mayPerform (m : Mach) (r : NetReq) : Bool :=
  let keys := upFrom r.key (typeSize r.at_.type)
  !m.releaseWaits r && !m.hostBusy keys && !m.hostDown keys

/-- Whether a request goes first at the home of another (R267): in this cycle it is still to try. -/
def Mach.goesFirst (m : Mach) (r q : NetReq) : Bool :=
  q.before r m.cycle && m.agenda.any fun p => decide (p.1 ≤ m.cycle) && p.2 == q.event

/-- Whether a request names a handler that is held for reload, and has reached its porter in the cycle of step 1 or later (R285). -/
def Mach.heldBack (m : Mach) (r : NetReq) : Bool :=
  r.at_.kind == .hnd && decide (24 ≤ r.at_.hnd) && (m.handler r.at_.hnd).held && r.due.any ((m.handler r.at_.hnd).heldAt ≤ ·)

/-- A request that has reached its home performs, unless another goes first, its handler is held for reload (R285), or it must
wait. -/
def Mach.tryPerform (mem : Memory) (m : Mach) (r : NetReq) : Mach :=
  if m.net.any (m.goesFirst r) then m.post m.cycle r.event
  else if m.heldBack r then { m with net := m.net.filter (·.id != r.id), heldReqs := m.heldReqs ++ [r] }
  else if !m.mayPerform r then m.again r.event
  else m.performNet mem r

/-- The request at its home that an event names. -/
def Mach.atHome (m : Mach) (p : NetReq → Bool) : Option NetReq :=
  m.net.find? fun r => p r && (match r.due with
    | some t => t ≤ m.cycle
    | none => false)

/-! ## Store buffer events (R111, R131) -/

/-- STORE_ENTER (R111): the head of the pending-store queue moves to the tail of the store buffer. -/
def execStoreEnter (core ctx : Nat) (s : State) : Out :=
  let m := s.mach
  endEvent s (match (m.ctx core ctx).pend with
    | [] => m
    | e :: rest =>
      let first := (m.ctx core ctx).buffer.isEmpty
      let m := m.onCtx core ctx fun x => { x with pend := rest, buffer := x.buffer ++ [e] }
      if first then m.kickBuffer core ctx else m)

/-- Performs one piece of the head of the store buffer; with the last the entry leaves (R131). -/
def Mach.performPiece (m : Mach) (core ctx piece : Nat) (e : StoreEntry) : Mach :=
  let m := m.write (e.pieces.getD piece [])
  let pieces := modifyAt (fun _ => []) piece e.pieces
  if pieces.all (·.isEmpty) then m.popBuffer core ctx
  else m.onCtx core ctx fun x => { x with buffer := { e with pieces := pieces } :: x.buffer.drop 1 }

/-- STORE_PERFORM (R111, R118): the head of the store buffer performs, a store one piece, an atomic as a whole. -/
def execStorePerform (core ctx piece : Nat) (s : State) : Out :=
  let m := s.mach
  endEvent s (match (m.ctx core ctx).buffer with
    | [] => m
    | e :: _ =>
      if !e.sent then m.kickBuffer core ctx
      else match e.atomic with
        | none =>
          if e.due ≤ m.cycle then (m.performPiece core ctx piece e).settleBarriers s.mem ((e.pieces.getD piece []).map (·.1)) else m
        | some _ =>
          match m.atHome fun r => match r.combo.first with
            | .lu c k _ _ => c == core && k == ctx
            | _ => false with
          | some r => m.tryPerform s.mem r
          | none => m)

/-! ## The host channel (R111, R113, R118) -/

/-- A result of the lu arrives in a context (R220). -/
def Ctx.luArrive (x : Ctx) (tag : Nat) (w : Word) : Ctx :=
  { x.arrive .lu tag w with loads := x.loads.filter (·.tag != tag) }

/-- The value of a load's bytes. -/
def loadValue (signed : Bool) (bs : List Byte) : Word :=
  if signed then sext (8 * bs.length) (natLE bs) else word (natLE bs)

/-- Whether a host request must wait: behind an earlier request of its context to a common byte, behind an atomic that is
between its read and its write, or as a release for what it covers (R113, R118, R121). -/
def Mach.hostWaits (m : Mach) (q : HostReq) : Bool :=
  let meets (p : HostReq) : Bool := p.id != q.id && p.keys.any q.keys.contains
  (m.host.any fun p => meets p && ((p.uid == q.uid && p.seq < q.seq)
      || (q.atomic.isSome && p.atomic.isNone && !p.load && p.tag.isSome)))
    || match q.atomic with
      | some a => 2 ≤ a.ord && !m.coveredDone q.core q.ctx 3 q.seq
      | none => false

/-- The bytes an atomic writes at its key, with the result. -/
def Mach.hostAtomic (mem : Memory) (m : Mach) (q : HostReq) (a : Atomic) : List (Nat × Byte) × Word :=
  let key := q.keys.headD 0
  let n := typeSize a.type
  let (new, writes, res) := m.performOne a (typeExtend a.type (word (peekNat mem m key n))) (carry a a.d)
  (if writes then (upFrom key n).zip (bytesLE n new.toNat) else [], res)

/-- A host request performs at the host memory agent, or as a read and then a write through the host port. -/
def Mach.deliverHost (mem : Memory) (m : Mach) (q : HostReq) : Mach :=
  let gone : Mach := { m with host := m.host.filter (·.id != q.id) }
  let arrive (m : Mach) (w : Word) : Mach := match q.tag with
    | some tag => m.onCtx q.core q.ctx (·.luArrive tag w)
    | none => m
  match q.atomic with
  | some a =>
    let (cells, res) := m.hostAtomic mem q a
    if q.sa then arrive (gone.write cells) res
    else
      let q' := { q with atomic := none, pieces := [cells], tag := some (q.tag.getD 0), value := res }
      let m : Mach := { m with host := m.host.map fun p => if p.id = q.id then q' else p }
      if m.cycle < q.due then m else m.again (.channelDeliver q.id)
  | none =>
    if q.load then
      let bs := peekAll mem m q.keys
      match q.land with
      | some l =>
        let dst := match l.dst with
          | .v i lanes => LandDst.v i ((chunks 4 256 bs).map (fun b => some (BitVec.ofNat 32 (natLE b))) ++
              lanes.drop (bs.length / 4))
          | d => d
        (gone.onCtx q.core q.ctx fun x =>
          { x with landing := x.landing.map fun p => if p.tag = l.tag then ⟨l.tag, dst⟩ else p }).post (m.cycle + 4)
            (.vuResultLand q.core q.ctx l.tag)
      | none => arrive gone (loadValue q.signed bs)
    else arrive (gone.write q.pieces.flatten) q.value

/-- A request of the host channel delivers, or waits a cycle more: for what R113 puts before it, or with no module of the link
trained (R335). The read of a split one may come a cycle early, so that its write performs at R104's figure. -/
def Mach.tryHost (mem : Memory) (m : Mach) (q : HostReq) : Mach :=
  let early := q.split && m.cycle + 1 == q.due
  if (m.cycle < q.due ∧ !early) ∨ m.hostWaits q ∨ m.boot.modules = 0 then
    if early then m else m.again (.channelDeliver q.id)
  else m.deliverHost mem q

/-- A wide load of the barrier area performs (R126): its bytes are to land 4 cycles later (R222). -/
def Mach.wideArrive (m : Mach) (c k : Nat) (l : LoadOut) (bs : List Byte) : Mach :=
  let lanes := (chunks 4 256 bs).map fun b => some (BitVec.ofNat 32 (natLE b))
  let fill (p : Landing) : Landing := match p.dst with
    | .v i old => if p.tag = l.tag then ⟨p.tag, .v i (lanes ++ old.drop lanes.length)⟩ else p
    | _ => p
  (m.onCtx c k fun x =>
    { x with landing := x.landing.map fill
             loads := x.loads.map fun q => if q.tag = l.tag then { q with val := some 0 } else q }).post (m.cycle + 4)
      (.vuResultLand c k l.tag)

/-- LOAD_RESULT_ARRIVE (R220): the result of a load or atomic reaches lu.res. A load of the barrier area reads as it
arrives (R126). -/
def execLoadResultArrive (core ctx tag : Nat) (value : Word) (s : State) : Out :=
  let m := s.mach
  endEvent s (match (m.ctx core ctx).loads.find? (·.tag == tag) with
    | none => m
    | some l =>
      match l.val with
      | some v => m.onCtx core ctx (·.luArrive tag v)
      | none =>
        if l.keys.isEmpty then m.onCtx core ctx (·.luArrive tag value)
        else
          let bs := peekAll s.mem m l.keys
          let m := m.settleBarriers s.mem l.keys
          if (m.ctx core ctx).landing.any (·.tag == tag) then m.wideArrive core ctx l bs
          else m.onCtx core ctx (·.luArrive tag (loadValue l.signed bs)))

end Sys2Proof.Machine
end

