-- ==== Sys2Proof/Config.lean ====
section
/-!
DEFINITION. What an implementation fixes or the manual leaves open, as constants without a body: nothing can be proved
of their values. Each is named in notes/assumptions/ by the log number given.
-/

namespace Sys2Proof.Config

/-- Free values (log 4): the n-th value that the manual leaves open. -/
opaque freeWord : Nat → BitVec 64

/-- The 4-bit code of an element (its f32 encoding) under a carried S4 scale that is a NaN, for which R73 gives no
quotient (log 31). -/
opaque nanScaleCode : Nat → BitVec 4

/-- The fresh scale of a guarded block (its f32 encodings) that holds an infinity, for which R76 gives no power of two
(log 31). -/
opaque infBlockScale : List Nat → BitVec 32

/-- The second operand with which a traverse reduction calls its handler, which R233 leaves open (log 32). -/
opaque reductionB : BitVec 64

/-- Verification of a pure Ed448 signature with empty context (R337): key, message, signature (log 10). -/
opaque ed448Verify : List Byte → List Byte → List Byte → Bool

/-- The pure Ed448 signature with empty context made with the identity key (R341), 114 bytes (log 10). -/
opaque ed448Sign : List Byte → List Byte

/-- The vendor public key in the fuses (R337, log 10). -/
opaque vendorKey : List Byte

/-- The fused MINVER (R337, log 10). -/
opaque minVer : Nat

/-- The 57-byte identity public key (R341, log 10). -/
opaque idKey : List Byte

end Sys2Proof.Config
end

