-- ==== Sys2Proof/Machine/S4.lean ====
section
/-!
DEFINITION. S4 superblocks (spec/03_numbers.md R68-R71), the quantiser (R72-R74), and delayed scaling with its guarded
variant (R75, R76).
-/

namespace Sys2Proof.Machine

/-! ## Types and scales (R69, R70) -/

/-- The magnitudes of a type in units of a power of two, and that power. -/
def s4Table : Nat → List Nat × Int
  | 0 => ([0, 1, 2, 3, 4, 5, 6, 7], 0)
  | 1 => ([0, 1, 2, 3, 4, 6, 8, 12], -1)
  | 2 => ([0, 1, 2, 4, 8, 16, 32, 64], -5)
  | _ => ([0, 2, 4, 6, 8, 11, 15, 22], -3)

/-- A magnitude of a type. -/
def s4Mag (ty idx : Nat) : Fl := .fin false ((s4Table ty).1.getD idx 0) (s4Table ty).2

/-- gridmax of a type. -/
def gridMax (ty : Nat) : Fl := s4Mag ty 7

/-- The scale of a block: 0 for code 0, else S × 2^(e−7) × (1 + m/8). -/
def blockScale (sb : Fl) (c : Nat) : Fl :=
  if c = 0 then .zero else sb.mul (.fin false (8 + c % 8) ((c / 8 : Int) - 10))

/-! ## A superblock as data -/

/-- A superblock: codes of 256 elements, scale bytes, S as bf16, escape count, side entries (R68). -/
structure Superblock where
  codes : List Nat
  bsc : List Nat
  s : Nat
  escn : Nat
  side : List Nat
  deriving DecidableEq, Repr

/-- The 176 bytes of a superblock (R68). -/
def Superblock.bytes (q : Superblock) : List Byte :=
  (chunks 2 128 q.codes).map (fun c => BitVec.ofNat 8 (c.getD 0 0 + 16 * c.getD 1 0)) ++
  q.bsc.map (BitVec.ofNat 8) ++ bytesLE 2 q.s ++ [BitVec.ofNat 8 q.escn, (0 : Byte)] ++
  (q.side.flatMap (bytesLE 4)) ++ List.replicate (32 - 4 * q.side.length) 0 ++ List.replicate 4 0

/-- The superblock in 176 bytes. -/
def superblockOf (bs : List Byte) : Superblock :=
  ⟨(bs.take 128).flatMap (fun b => [b.toNat % 16, b.toNat / 16]), ((bs.drop 128).take 8).map (·.toNat),
    natLE ((bs.drop 136).take 2), (bs.getD 138 0).toNat, (chunks 4 8 ((bs.drop 140).take 32)).map natLE⟩

/-- Decodes the remaining codes: `i` the element, `k` the escapes before it (R71). -/
def decodeFrom (q : Superblock) (sb : Fl) : Nat → Nat → List Nat → List Fl × Bool
  | _, _, [] => ([], false)
  | i, k, code :: rest =>
    if code = 8 then
      let (vs, miss) := decodeFrom q sb (i + 1) (k + 1) rest
      if k < min q.escn 8 then (f32Of (q.side.getD k 0) :: vs, miss) else (Fl.zero :: vs, true)
    else
      let (vs, miss) := decodeFrom q sb (i + 1) k rest
      let byte := q.bsc.getD (i / 32) 0
      let v := match sb with
        | .nan | .inf _ => .nan
        | sb =>
          let v := (s4Mag (byte / 64) (code % 8)).mul (blockScale sb (byte % 64))
          let v := if 8 ≤ code then v.neg else v
          if v.isZero then .zero else v
      (v :: vs, miss)

/-- The exact values of a superblock's elements, and whether ESC_OVR is set (R71). -/
def Superblock.decode (q : Superblock) : List Fl × Bool := decodeFrom q (bf16.decode q.s) 0 0 q.codes

/-! ## Step 1: escapes (R72) -/

/-- An element after step 1: escaped, excluded, or an f32 encoding. -/
inductive QElem where
  | esc | excluded
  | val (code : Nat)
  deriving DecidableEq, Repr

/-- What step 1 gives: the elements, side entries, clipped count, and whether INVALID is set. -/
structure Escaped where
  elems : List QElem
  side : List Nat
  clipped : Nat
  invalid : Bool
  deriving DecidableEq, Repr

/-- τ as the quantiser reads it: a negative or NaN one is +inf (R72). A τ of −0 is the value 0 (DESIGN CHOICE, log 103). -/
def tauOf (code : Nat) : Fl :=
  match f32.decode code with
  | .nan | .inf _ => .inf false
  | .fin s m e => if s && m != 0 then .inf false else .fin false m e

/-- Step 1, with `n` escapes taken so far. -/
def escapesFrom (tau : Fl) (n : Nat) : List Nat → Escaped
  | [] => ⟨[], [], 0, false⟩
  | x :: rest =>
    let v := f32.decode x
    let free := tau != .inf false && n < 8
    if v.isNan then
      if free then
        let r := escapesFrom tau (n + 1) rest
        { r with elems := .esc :: r.elems, side := 0x7FC00000 :: r.side }
      else
        let r := escapesFrom tau n rest
        { r with elems := .excluded :: r.elems, invalid := true }
    else if tau.le v.abs then
      if free then
        let r := escapesFrom tau (n + 1) rest
        { r with elems := .esc :: r.elems, side := x :: r.side }
      else
        let r := escapesFrom tau n rest
        let limit := if tau = .inf false then f32.maxCode else f32.encode false tau
        { r with elems := .val (f32.signed v.isNeg limit) :: r.elems, clipped := r.clipped + 1 }
    else
      let r := escapesFrom tau n rest
      { r with elems := .val x :: r.elems }

/-- The magnitude of an element that takes part in scales. -/
def QElem.mag : QElem → Fl
  | .val code => (f32.decode code).abs
  | _ => .zero

/-- The greatest magnitude among elements. -/
def absMax (l : List QElem) : Fl := l.foldl (fun a x => a.max x.mag) .zero

/-! ## Encoding an element (R73) -/

/-- The magnitude index of |x| against a block scale: the first whose upper midpoint |x| does not pass, ties to even. -/
def magIndex (ty : Nat) (s x : Fl) : Nat :=
  ((upFrom 0 7).find? fun i =>
    let mid := s.mul ((s4Mag ty i).add (s4Mag ty (i + 1)))
    (x.scale 1).lt mid || ((x.scale 1).eq mid && i % 2 == 0)).getD 7

/-- The code of an element against block scale `s`. -/
def encodeElem (ty : Nat) (s : Fl) : QElem → Nat
  | .esc => 8
  | .excluded => 0
  | .val code =>
    if s.isNan then (Config.nanScaleCode code).toNat
    else if s.isZero || s.isNeg then 0
    else
      let v := f32.decode code
      let idx := magIndex ty s v.abs
      if idx = 0 then 0 else b2n v.isNeg * 8 + idx

/-- The value a code decodes to against block scale `s`, rounded to f32. -/
def decodedF32 (ty : Nat) (s : Fl) (code : Nat) : Fl :=
  let v := s.mul (s4Mag ty (code % 8))
  rne (if v.isZero then .zero else if 8 ≤ code then v.neg else v)

/-! ## Steps 2 to 4 (R72, R74) -/

/-- S: the bf16 at or above the quotient absmax ÷ gridmax. -/
def superScale (ty : Nat) (m : Fl) : Nat :=
  match m, gridMax ty with
  | .fin _ n e, .fin _ g d => bf16.magnitude true n g (e - d)
  | _, _ => 0

/-- The error of a candidate over a block's elements. -/
def candidateError (ty : Nat) (s : Fl) (block : List QElem) : Fl :=
  block.foldl (fun err x =>
    match x with
    | .val code =>
      let q := decodedF32 ty s (encodeElem ty s x)
      let d := rne ((f32.decode code).add q.neg)
      rne (err.add (rne (d.mul d)))
    | _ => err) .zero

/-- The chosen code of a block for a type and S, with its error: the candidate of least error, ties to c0, then to the
smaller code. Where no scale reaches the block's greatest magnitude, c0 is 63 (R76). -/
def chooseCode (ty : Nat) (sb : Fl) (block : List QElem) : Nat × Fl :=
  let m := absMax block
  if m.isZero then (0, .zero)
  else
    let c0 := ((upFrom 1 63).find? fun c => m.le ((blockScale sb c).mul (gridMax ty))).getD 63
    let err (c : Nat) : Fl := candidateError ty (blockScale sb c) block
    let best := (c0, err c0)
    [max (c0 - 1) 1, min (c0 + 1) 63].foldl (fun b c =>
      let e := err c
      if e.lt b.2 then (c, e) else b) best

/-- The scale byte of a block: of the one type, or of the type of least error in the order i4, e2m1, p4, h4. -/
def chooseByte (ty : Option Nat) (sb : Fl) (block : List QElem) : Nat :=
  match ty with
  | some t => t * 64 + (chooseCode t sb block).1
  | none =>
    let first := chooseCode 0 sb block
    ([1, 2, 3].foldl (fun (b : Nat × Nat × Fl) t =>
      let r := chooseCode t sb block
      if r.2.lt b.2.2 then (t, r.1, r.2) else b) (0, first.1, first.2)) |> fun b => b.1 * 64 + b.2.1

/-- The codes of a block under a scale byte. -/
def blockCodes (sb : Fl) (byte : Nat) (block : List QElem) : List Nat :=
  block.map (encodeElem (byte / 64) (blockScale sb (byte % 64)))

/-! ## Quantisation -/

/-- A quantisation's result: the superblock, what step 1 clipped, whether INVALID and SCALE_UNF are set, and what adds
to SCALE_OVF. -/
structure Quantised where
  block : Superblock
  clipped : Nat
  invalid : Bool
  ovf : Nat
  unf : Bool
  deriving DecidableEq, Repr

/-- Quantises 256 f32 encodings: `ty` the fixed type, none for auto (R72-R74). -/
def quantise (tau : Nat) (ty : Option Nat) (xs : List Nat) : Quantised :=
  let r := escapesFrom (tauOf tau) 0 xs
  let s := superScale (ty.getD 2) (absMax r.elems)
  let sb := bf16.decode s
  let blocks := chunks 32 8 r.elems
  let bytes := blocks.map (chooseByte ty sb)
  let codes := (blocks.zip bytes).flatMap fun (b, byte) => blockCodes sb byte b
  ⟨⟨codes, bytes, s, r.side.length, r.side⟩, r.clipped, r.invalid, 0, false⟩

/-- The elements of a block that saturate under a scale byte (R75): a zero scale saturates none. -/
def saturated (sb : Fl) (byte : Nat) (block : List QElem) : Nat :=
  let s := (blockScale sb (byte % 64)).abs
  let top := s.mul (gridMax (byte / 64))
  if s.isZero then 0 else (block.filter fun x => top.lt x.mag).length

/-- Whether a block holds a non-zero element that takes part, and every such element encodes to magnitude 0 (R75). -/
def underflows (sb : Fl) (byte : Nat) (block : List QElem) : Bool :=
  let live := block.filter fun x => !x.mag.isZero
  !live.isEmpty && (blockCodes sb byte live).all fun c => c % 8 == 0

/-- One block of a delayed conversion: the scale byte used, what adds to SCALE_OVF, and SCALE_UNF (R75, R76): of a block encoded
again, the elements that saturate under code 63 too. -/
def delayedBlock (guard : Bool) (sb : Fl) (byte : Nat) (block : List QElem) : Nat × Nat × Bool :=
  let ovf := saturated sb byte block
  let unf := underflows sb byte block
  if guard && (0 < ovf || unf) then
    let byte' := byte / 64 * 64 + (chooseCode (byte / 64) sb block).1
    (byte', saturated sb (byte / 64 * 64 + 63) block, underflows sb byte' block)
  else (byte, ovf, unf)

/-- The delayed conversion to S4 against a carried S and eight scale bytes (R75, R76). -/
def quantiseDelayed (tau : Nat) (guard : Bool) (s : Nat) (bsc : List Nat) (xs : List Nat) : Quantised :=
  let r := escapesFrom (tauOf tau) 0 xs
  let sb := bf16.decode s
  let blocks := (chunks 32 8 r.elems).zip bsc
  let used := blocks.map fun (b, byte) => delayedBlock guard sb byte b
  let codes := (blocks.zip used).flatMap fun ((b, _), (byte, _)) => blockCodes sb byte b
  ⟨⟨codes, used.map (·.1), s, r.side.length, r.side⟩, r.clipped, r.invalid, (used.map (·.2.1)).sum,
    used.any (·.2.2)⟩

/-! ## Delayed conversion to e4m3 and e5m2 (R75, R76) -/

/-- The encoding of x ÷ s in an 8-bit format: a zero scale gives 0; a scale that is no number is log 133. -/
def encodeQuotient (f : FloatFmt) (x s : Fl) : Nat :=
  match x, s with
  | .nan, _ => f.nanCode
  | x, .fin sn sm se =>
    if sm = 0 then 0
    else match x with
      | .fin n m e => f.signed (n != sn) (f.bound true (f.magnitude false m sm (e - se)))
      | .inf n => f.signed (n != sn) f.maxCode
      | .nan => f.nanCode
  | .fin n _ _, .inf sn => f.signed (n != sn) 0
  | _, _ => f.nanCode

/-- Whether |x ÷ s| exceeds max finite. -/
def quotientOver (f : FloatFmt) (x s : Fl) : Bool := !s.isZero && ((f.decode f.maxCode).mul s.abs).lt x.abs

/-- A finite value other than zero. -/
def Fl.finiteNonZero : Fl → Bool
  | .fin _ m _ => m != 0
  | _ => false

/-- What a block adds to SCALE_OVF and whether it sets SCALE_UNF. -/
def quotientCounts (f : FloatFmt) (block : List Fl) (s : Fl) : Nat × Bool :=
  let live := block.filter (·.finiteNonZero)
  ((block.filter fun x => quotientOver f x s).length,
    !live.isEmpty && live.all fun x => encodeQuotient f x s % 2 ^ f.signAt == 0)

/-- The fresh scale of a guarded block: the smallest power of two, among those f32 holds, at or above
absmax ÷ max finite. -/
def freshScale (f : FloatFmt) (block : List Nat) : Nat :=
  let m := (block.map f32.decode).foldl (fun a x => if x.isNan then a else a.max x.abs) Fl.zero
  match m with
  | .fin _ _ _ =>
    let top := f.decode f.maxCode
    f32.encode false (.fin false 1
      (Int.ofNat (((upFrom 0 277).find? fun i => m.le (top.scale (Int.ofNat i - 149))).getD 276) - 149))
  | _ => (Config.infBlockScale block).toNat

/-- One block of a delayed 8-bit conversion: its codes, the scale used, what adds to SCALE_OVF, and SCALE_UNF. -/
def delayed8 (f : FloatFmt) (guard : Bool) (scale : Nat) (block : List Nat) : List Nat × Nat × Nat × Bool :=
  let xs := block.map f32.decode
  let (ovf, unf) := quotientCounts f xs (f32.decode scale)
  if guard && (0 < ovf || unf) then
    let fresh := freshScale f block
    let (ovf', unf') := quotientCounts f xs (f32.decode fresh)
    (xs.map fun x => encodeQuotient f x (f32.decode fresh), fresh, ovf', unf')
  else (xs.map fun x => encodeQuotient f x (f32.decode scale), scale, ovf, unf)

end Sys2Proof.Machine
end

