-- ==== Sys2Proof/Machine/Vu.lean ====
section
/-!
DEFINITION. The vector unit (spec/09_ops_vector.md R176-R196): 256 lanes of 32 bits, the scoreboard, lane-wise
arithmetic, special functions, conversions, compares, permutations, reductions, scan, S4 superblocks in a register, and
copies from and to factor vectors.
-/

namespace Sys2Proof.Machine

/-! ## The control word (R177) -/

/-- ARG. -/
def vcArg (t : Word) : Nat := bits t 63 32
/-- POS. -/
def vcPos (t : Word) : Nat := bits t 15 12
/-- SUB. -/
def vcSub (t : Word) : Nat := bits t 11 8
/-- GUARD. -/
def vcGuard (t : Word) : Bool := bits t 7 7 == 1
/-- AUX. -/
def vcAux (t : Word) : Bool := bits t 6 6 == 1
/-- SAT. -/
def vcSat (t : Word) : Bool := bits t 5 5 == 1
/-- ZERO. -/
def vcZero (t : Word) : Bool := bits t 4 4 == 1
/-- MASK. -/
def vcMask (t : Word) : Bool := bits t 3 3 == 1
/-- TYPE. -/
def vcType (t : Word) : Nat := bits t 2 0

/-- The floating types of the chapter. -/
def floatTy (t : Word) : Bool := vcType t < 3
/-- The integer types. -/
def intTy (t : Word) : Bool := vcType t == 3 || vcType t == 4

/-- The bits of an element of a format code (R177). -/
def elemBits : Nat → Nat
  | 0 | 3 | 4 => 32
  | 1 | 2 => 16
  | 5 | 6 => 8
  | _ => 4

/-- E, the elements a register holds (R177). -/
def elemCount (code : Nat) : Nat := 8192 / elemBits code

/-- The floating format of a code; f32 for the integer codes, which have none. -/
def floatOf : Nat → FloatFmt
  | 1 => bf16
  | 2 => f16
  | 5 => e4m3
  | 6 => e5m2
  | 7 => e2m1
  | _ => f32

/-! ## Elements of a register (R65, R177) -/

/-- The elements of a cell, `w` bits each, lowest first. -/
def cellElems (w : Nat) (c : Cell) : List Nat := (upFrom 0 (32 / w)).map fun i => field c.toNat (w * i + w - 1) (w * i)

/-- The elements of lanes. -/
def unpack (w : Nat) (lanes : List Cell) : List Nat := lanes.flatMap (cellElems w)

/-- The cell that holds elements of `w` bits. -/
def packCell (w : Nat) : List Nat → Nat
  | [] => 0
  | e :: rest => e + 2 ^ w * packCell w rest

/-- The lanes that hold elements. -/
def packLanes (w : Nat) (es : List Nat) : List Cell := (chunks (32 / w) 256 es).map fun c => BitVec.ofNat 32 (packCell w c)

/-- Applies an operation to each element of cells. -/
def mapElems (w : Nat) (f : Nat → Nat) (c : Cell) : Cell := BitVec.ofNat 32 (packCell w ((cellElems w c).map f))

/-- Applies an operation to each pair of elements. -/
def zipElems (w : Nat) (f : Nat → Nat → Nat) (a b : Cell) : Cell :=
  BitVec.ofNat 32 (packCell w (((cellElems w a).zip (cellElems w b)).map fun p => f p.1 p.2))

/-- Overwrites a list from a position on. -/
def overwrite {α : Type} (l new : List α) (at_ : Nat) : List α := l.take at_ ++ new ++ l.drop (at_ + new.length)

/-! ## Operands (R176, R196) -/

/-- What the sources a and b accept: a v reference, or a value that is broadcast. -/
def laneSource (v : Val) : Bool := v.isWord || v.isRef .v

/-- Latches a and d, for a result in a v register. -/
def usesAD : List (Latch × (Val → Bool)) := [(.vuA, laneSource), (.vuD, Val.isRef .v)]
/-- Latches a, b and d, for a result in a v register. -/
def usesABD : List (Latch × (Val → Bool)) := [(.vuA, laneSource), (.vuB, laneSource), (.vuD, Val.isRef .v)]
/-- Latches a, b and d, for a result in a mask. -/
def usesABM : List (Latch × (Val → Bool)) := [(.vuA, laneSource), (.vuB, laneSource), (.vuD, Val.isRef .vm)]

/-- A v register of a context. -/
def Ctx.vreg (x : Ctx) (i : Nat) : List Cell := x.v.getD i (List.replicate 256 0)

/-- The lanes an operand names (R44). -/
def Ctx.lanes (x : Ctx) (v : Val) : List Cell :=
  match v with
  | .word w => broadcast w
  | .ref _ i => x.vreg i

/-- Takes latches in order. -/
def takeAll (code : Nat) : List (Latch × (Val → Bool)) → Mach → Except Stop (List Val × Mach)
  | [], m => .ok ([], m)
  | (l, _) :: rest, m => do
    let (v, m) ← take code l m
    let (vs, m) ← takeAll code rest m
    .ok (v :: vs, m)

/-- The operands of a trigger as its operation takes them: the values of its latches in order, and the mask. -/
structure VArgs where
  vals : List Val
  mask : BitVec 256

/-- Operand i. -/
def VArgs.at (r : VArgs) (i : Nat) : Val := r.vals.getD i (.word 0)

/-- The frame of a vu trigger: its control word, its latches with vu.m, a mask (log 136), where MASK is 1, and the scoreboard
(R176-R178). -/
def vuTrigger (code : Nat) (ok : Word → Bool) (ls : Word → List (Latch × (Val → Bool)))
    (f : Memory → Mach → Word → VArgs → Except Stop Mach) (o : TOp) (s : State) : Out :=
  triggerW o s fun mem m t =>
    if !ok t then illBundle
    else do
      let all := if vcMask t then ls t ++ [(.vuM, Val.isRef .vm)] else ls t
      let _ ← checkKinds m all
      let (vals, m) ← takeAll code all m
      if m.cycle < m.myCore.vuNext || vals.any m.me.outstanding then .error .stall
      else
        let mask : BitVec 256 :=
          if vcMask t then m.me.vm.getD (vals.getLastD (.word 0)).idx 0 else BitVec.allOnes 256
        f mem m t ⟨vals, mask⟩

/-! ## Results (R176, R178) -/

/-- Results on their way: they land together `lat` cycles after issue, and vu.res waits for its own. -/
def land (m : Mach) (lat : Nat) (dsts : List LandDst) : Mach :=
  let (tag, m) := m.newId
  let m := m.onMe fun x => { x with landing := x.landing ++ dsts.map (Landing.mk tag) }
  let m := if dsts.any fun d => match d with
      | .res _ => true
      | _ => false
    then m.awaitResult .vu tag else m
  m.post (m.cycle + lat) (.vuResultLand m.issue.core m.issue.ctx tag)

/-- The lanes a result writes under the mask: masked-off lanes keep their value, or become 0 (R176). -/
def maskLanes (mask : BitVec 256) (zero : Bool) (res : List Cell) : List (Option Cell) :=
  ((upFrom 0 256).zip res).map fun (k, c) => if mask.getLsbD k then some c else if zero then some 0 else none

/-- A result in the v register that d names. -/
def laneResult (t : Word) (r : VArgs) (d : Val) (res : List Cell) : LandDst := .v d.idx (maskLanes r.mask (vcZero t) res)

/-- The value of vu.res for a scalar of the trigger's TYPE: sign-extended for i32, else zero-extended (R176). -/
def scalarResult (t : Word) (c : Cell) : Word := if vcType t = 3 then c.signExtend 64 else c.setWidth 64

/-- A lane-wise operation on one source. -/
def vuUnary (code lat : Nat) (ok : Word → Bool) (f : Word → Cell → Cell) (o : TOp) (s : State) : Out :=
  vuTrigger code ok (fun _ => usesAD) (fun _ m t r =>
    .ok (land m lat [laneResult t r (r.at 1) ((m.me.lanes (r.at 0)).map (f t))])) o s

/-- A lane-wise operation on two sources. -/
def vuBinary (code lat : Nat) (ok : Word → Bool) (f : Word → Cell → Cell → Cell) (o : TOp) (s : State) : Out :=
  vuTrigger code ok (fun _ => usesABD) (fun _ m t r =>
    .ok (land m lat [laneResult t r (r.at 2)
      (((m.me.lanes (r.at 0)).zip (m.me.lanes (r.at 1))).map fun p => f t p.1 p.2)])) o s

/-- Lands one result in a context. -/
def Ctx.landOne (x : Ctx) (l : Landing) : Ctx :=
  match l.dst with
  | .v i lanes =>
    { x with v := modifyAt (fun old => (old.zip lanes).map fun p => p.2.getD p.1) i x.v }
  | .vm i b => { x with vm := modifyAt (fun _ => b) i x.vm }
  | .fv i es => { x with fv := modifyAt (fun q => { q with entries := es }) i x.fv }
  | .res w => x.arrive .vu l.tag w

/-- VU_RESULT_LAND (R178): the results with a tag land. -/
def execVuResultLand (core ctx tag : Nat) (s : State) : Out :=
  endEvent s (s.mach.onCtx core ctx fun x =>
    let x' := (x.landing.filter (·.tag == tag)).foldl Ctx.landOne x
    { x' with landing := x.landing.filter (·.tag != tag), loads := x'.loads.filter (·.tag != tag) })

/-! ## Floating arithmetic (R179) -/

/-- A floating operation on two elements, rounded once to the element format. -/
def floatElem2 (t : Word) (f : Fl → Fl → Fl) (a b : Nat) : Nat :=
  let fmt := floatOf (vcType t)
  fmt.encode (vcSat t) (f (fmt.decode a) (fmt.decode b))

/-- A floating operation on one element. -/
def floatElem1 (t : Word) (f : Fl → Fl) (a : Nat) : Nat :=
  let fmt := floatOf (vcType t)
  fmt.encode (vcSat t) (f (fmt.decode a))

/-- A lane of a floating operation on two sources. -/
def floatLane2 (f : Fl → Fl → Fl) (t : Word) : Cell → Cell → Cell := zipElems (elemBits (vcType t)) (floatElem2 t f)

/-- A lane of a floating operation on one source. -/
def floatLane1 (f : Fl → Fl) (t : Word) : Cell → Cell := mapElems (elemBits (vcType t)) (floatElem1 t f)

/-- vu.ffma (R179): a × b + d, the product exact, one rounding. -/
def execVuFfma (o : TOp) (s : State) : Out :=
  vuTrigger 0x14F floatTy (fun _ => usesABD) (fun _ m t r =>
    let x := m.me
    let fmt := floatOf (vcType t)
    let w := elemBits (vcType t)
    let one (a b d : Nat) : Nat :=
      fmt.encode (vcSat t) (((fmt.decode a).mul (fmt.decode b)).add (fmt.decode d))
    let lane (a b d : Cell) : Cell := BitVec.ofNat 32 (packCell w
      (((cellElems w a).zip ((cellElems w b).zip (cellElems w d))).map fun p => one p.1 p.2.1 p.2.2))
    .ok (land m 4 [laneResult t r (r.at 2)
      (((x.lanes (r.at 0)).zip ((x.lanes (r.at 1)).zip (x.lanes (r.at 2)))).map fun p => lane p.1 p.2.1 p.2.2)])) o s

/-- vu.fadd (R179). -/
def execVuFadd (o : TOp) (s : State) : Out := vuBinary 0x14C 4 floatTy (floatLane2 (Fl.add)) o s
/-- vu.fsub (R179). -/
def execVuFsub (o : TOp) (s : State) : Out := vuBinary 0x14D 4 floatTy (floatLane2 (fun a b => a.add b.neg)) o s
/-- vu.fmul (R179). -/
def execVuFmul (o : TOp) (s : State) : Out := vuBinary 0x14E 4 floatTy (floatLane2 (Fl.mul)) o s
/-- vu.fmin (R179). -/
def execVuFmin (o : TOp) (s : State) : Out := vuBinary 0x150 4 floatTy (floatLane2 (Fl.min)) o s
/-- vu.fmax (R179). -/
def execVuFmax (o : TOp) (s : State) : Out := vuBinary 0x151 4 floatTy (floatLane2 (Fl.max)) o s
/-- vu.fabs (R179). -/
def execVuFabs (o : TOp) (s : State) : Out := vuUnary 0x152 4 floatTy (floatLane1 (Fl.abs)) o s
/-- vu.fneg (R179). -/
def execVuFneg (o : TOp) (s : State) : Out := vuUnary 0x153 4 floatTy (floatLane1 (Fl.neg)) o s

/-! ## Special functions (R180-R184) -/

/-- A special function of an element: widened exactly to f32, computed, and rounded to the element's format. -/
def specialLane (f : Fl → Fl) (t : Word) : Cell → Cell :=
  let fmt := floatOf (vcType t)
  mapElems (elemBits (vcType t)) fun a => fmt.encode false (f (fmt.decode a))

/-- vu.fexp2 (R181). -/
def execVuFexp2 (o : TOp) (s : State) : Out := vuUnary 0x154 8 floatTy (specialLane fexp2) o s
/-- vu.flog2 (R182). -/
def execVuFlog2 (o : TOp) (s : State) : Out := vuUnary 0x155 8 floatTy (specialLane flog2) o s
/-- vu.frcp (R183). -/
def execVuFrcp (o : TOp) (s : State) : Out := vuUnary 0x156 8 floatTy (specialLane frcp) o s
/-- vu.frsqrt (R184). -/
def execVuFrsqrt (o : TOp) (s : State) : Out := vuUnary 0x157 8 floatTy (specialLane frsqrt) o s

/-! ## Conversions (R185, R186) -/

/-- The range of an integer type code. -/
def rangeOf (code : Nat) : Int × Int := if code = 3 then (-2147483648, 2147483647) else (0, 4294967295)

/-- The value of an integer element. -/
def intOf (code e : Nat) : Int := if code = 3 then sint 32 e else e

/-- Whether a format code is an integer type. -/
def isInt (code : Nat) : Bool := code == 3 || code == 4

/-- The conversion of one element (R185). -/
def convertElem (t : Word) (e : Nat) : Nat :=
  let src := vcType t
  let dst := vcSub t
  let asCell (i : Int) : Nat := (BitVec.ofInt 32 i).toNat
  if isInt src then
    if isInt dst then
      if vcSat t then asCell (satInt (rangeOf dst).1 (rangeOf dst).2 (intOf src e)) else e
    else (floatOf dst).encode false (Fl.ofInt (intOf src e))
  else
    let v := (floatOf src).decode e
    if isInt dst then asCell (v.toRange (vcAux t) (rangeOf dst).1 (rangeOf dst).2)
    else (floatOf dst).encode (vcSat t) v

/-- Whether a conversion is delayed (R186). -/
def delayedCvt (t : Word) : Bool := vcAux t && (vcSub t == 5 || vcSub t == 6)

/-- The control words fcvt accepts (R185, R186): AUX with an 8-bit destination for a floating TYPE alone (log 135). -/
def cvtOk (t : Word) : Bool :=
  let es := elemCount (vcType t)
  let ed := elemCount (vcSub t)
  vcSub t < 8 && vcPos t < max es ed / min es ed && (!vcMask t || es == ed)
    && (!vcAux t || isInt (vcSub t) || ((vcSub t == 5 || vcSub t == 6) && floatTy t))

/-- The elements fcvt reads of its source. -/
def cvtSource (t : Word) (lanes : List Cell) : List Nat :=
  let es := elemCount (vcType t)
  let ed := elemCount (vcSub t)
  let all := unpack (elemBits (vcType t)) lanes
  if ed < es then (all.drop (vcPos t * ed)).take ed else all

/-- The lanes of d after its elements are written: the others keep their value where d holds more. -/
def cvtInto (t : Word) (old : List Cell) (es' : List Nat) : List Cell :=
  let es := elemCount (vcType t)
  let ed := elemCount (vcSub t)
  let w := elemBits (vcSub t)
  if es < ed then packLanes w (overwrite (unpack w old) es' (vcPos t * es)) else packLanes w es'

/-- The latches fcvt uses: a and d, and b, a register, for a delayed conversion (log 136). -/
def usesCvt (t : Word) : List (Latch × (Val → Bool)) :=
  if delayedCvt t then [(.vuA, laneSource), (.vuD, Val.isRef .v), (.vuB, Val.isRef .v)] else usesAD

/-- The delayed conversion (R186): element codes and scales used, with what CSW counts. -/
def delayedElems (t : Word) (es' : List Nat) (scales : List Cell) : List (List Nat × Nat × Nat × Bool) :=
  let wide := es'.map fun e => f32.encode false ((floatOf (vcType t)).decode e)
  ((chunks 32 16 wide).zip scales).map fun (block, sc) => delayed8 (floatOf (vcSub t)) (vcGuard t) sc.toNat block

/-- SCALE_OVF and SCALE_UNF counted (R75). -/
def Ctx.countScales (x : Ctx) (ovf : Nat) (unf : Bool) : Ctx :=
  let x := x.countScaleOvf ovf
  if unf then x.raiseCsw cswScaleUnf else x

/-- vu.fcvt (R185, R186). Where GUARD's b is d too, the scales stand in the lanes that both would write (DESIGN CHOICE, log 126). -/
def execVuFcvt (o : TOp) (s : State) : Out :=
  vuTrigger 0x158 cvtOk usesCvt (fun _ m t r =>
    let x := m.me
    let d := r.at 1
    let es := cvtSource t (x.lanes (r.at 0))
    if delayedCvt t then
      let rs := delayedElems t es (x.lanes (r.at 2))
      let m := m.onMe (·.countScales ((rs.map (·.2.2.1)).sum) (rs.any (·.2.2.2)))
      let out := laneResult t r d (cvtInto t (x.lanes d) (rs.flatMap (·.1)))
      let scales : List (Option Cell) := rs.map fun q => some (BitVec.ofNat 32 q.2.1)
      let back := LandDst.v (r.at 2).idx (scales ++ List.replicate (256 - scales.length) none)
      .ok (land m 4 (if vcGuard t then [out, back] else [out]))
    else .ok (land m 4 [laneResult t r d (cvtInto t (x.lanes d) (es.map (convertElem t)))])) o s

/-! ## Integer operations (R187) -/

/-- Integer triggers that refuse SAT. -/
def intNoSat (t : Word) : Bool := intTy t && !vcSat t

/-- A sum or difference: wrapped, or saturated to the TYPE's range. -/
def intSum (f : Int → Int → Int) (t : Word) (a b : Cell) : Cell :=
  let ty := vcType t
  let v := f (intOf ty a.toNat) (intOf ty b.toNat)
  BitVec.ofInt 32 (if vcSat t then satInt (rangeOf ty).1 (rangeOf ty).2 v else v)

/-- The high 32 bits of the product. -/
def intMulHigh (t : Word) (a b : Cell) : Cell :=
  BitVec.ofInt 32 (intOf (vcType t) a.toNat * intOf (vcType t) b.toNat / 2 ^ 32)

/-- vu.iadd (R187). -/
def execVuIadd (o : TOp) (s : State) : Out := vuBinary 0x159 4 intTy (intSum (· + ·)) o s
/-- vu.isub (R187). -/
def execVuIsub (o : TOp) (s : State) : Out := vuBinary 0x15A 4 intTy (intSum (· - ·)) o s
/-- vu.imul (R187). -/
def execVuImul (o : TOp) (s : State) : Out := vuBinary 0x15B 4 intNoSat (fun _ a b => a * b) o s
/-- vu.imulh (R187). -/
def execVuImulh (o : TOp) (s : State) : Out := vuBinary 0x15C 4 intNoSat intMulHigh o s
/-- vu.iand (R187). -/
def execVuIand (o : TOp) (s : State) : Out := vuBinary 0x15D 4 intNoSat (fun _ a b => a &&& b) o s
/-- vu.ior (R187). -/
def execVuIor (o : TOp) (s : State) : Out := vuBinary 0x15E 4 intNoSat (fun _ a b => a ||| b) o s
/-- vu.ixor (R187). -/
def execVuIxor (o : TOp) (s : State) : Out := vuBinary 0x15F 4 intNoSat (fun _ a b => a ^^^ b) o s
/-- vu.ishl (R187). -/
def execVuIshl (o : TOp) (s : State) : Out := vuBinary 0x160 4 intNoSat (fun _ a b => a <<< (b.toNat % 32)) o s
/-- vu.ishr (R187). -/
def execVuIshr (o : TOp) (s : State) : Out := vuBinary 0x161 4 intNoSat (fun _ a b => a >>> (b.toNat % 32)) o s
/-- vu.isar (R187). -/
def execVuIsar (o : TOp) (s : State) : Out := vuBinary 0x162 4 intNoSat (fun _ a b => a.sshiftRight (b.toNat % 32)) o s
/-- vu.imin (R187). -/
def execVuImin (o : TOp) (s : State) : Out := vuBinary 0x163 4 intNoSat (fun _ a b => if a.toInt ≤ b.toInt then a else b) o s
/-- vu.imax (R187). -/
def execVuImax (o : TOp) (s : State) : Out := vuBinary 0x164 4 intNoSat (fun _ a b => if a.toInt ≤ b.toInt then b else a) o s
/-- vu.nmin (R187). -/
def execVuNmin (o : TOp) (s : State) : Out := vuBinary 0x165 4 intNoSat (fun _ a b => if a.toNat ≤ b.toNat then a else b) o s
/-- vu.nmax (R187). -/
def execVuNmax (o : TOp) (s : State) : Out := vuBinary 0x166 4 intNoSat (fun _ a b => if a.toNat ≤ b.toNat then b else a) o s

/-! ## Compares (R188) -/

/-- The element of a lane a compare looks at. -/
def cmpElem (t : Word) (c : Cell) : Nat := (cellElems (elemBits (vcType t)) c).getD (vcPos t) 0

/-- POS of a compare: 0 or 1 on packed types, 0 on the others. -/
def cmpPos (t : Word) : Bool := vcPos t < 32 / elemBits (vcType t)

/-- The bits of a mask from tests of lanes. -/
def maskOf (bs : List Bool) : BitVec 256 := BitVec.ofNat 256 (packCell 1 (bs.map b2n))

/-- A compare: bit k of d's mask from lane k, under MASK and ZERO. -/
def vuCompare (code : Nat) (ty : Word → Bool) (f : Nat → Nat → Nat → Bool) (o : TOp) (s : State) : Out :=
  vuTrigger code (fun t => ty t && cmpPos t) (fun _ => usesABM) (fun _ m t r =>
    let x := m.me
    let d := (r.at 2).idx
    let res := maskOf (((x.lanes (r.at 0)).zip (x.lanes (r.at 1))).map fun p =>
      f (vcType t) (cmpElem t p.1) (cmpElem t p.2))
    let old : BitVec 256 := if vcZero t then 0 else x.vm.getD d 0
    .ok (land m 4 [.vm d ((res &&& r.mask) ||| (old &&& ~~~ r.mask))])) o s

/-- A floating compare of two elements of a type. -/
def floatCmp (f : Fl → Fl → Bool) (ty a b : Nat) : Bool := f ((floatOf ty).decode a) ((floatOf ty).decode b)

/-- vu.feq (R188). -/
def execVuFeq (o : TOp) (s : State) : Out := vuCompare 0x167 floatTy (floatCmp Fl.eq) o s
/-- vu.flt (R188). -/
def execVuFlt (o : TOp) (s : State) : Out := vuCompare 0x168 floatTy (floatCmp Fl.lt) o s
/-- vu.fle (R188). -/
def execVuFle (o : TOp) (s : State) : Out := vuCompare 0x169 floatTy (floatCmp Fl.le) o s
/-- vu.ieq (R188). -/
def execVuIeq (o : TOp) (s : State) : Out := vuCompare 0x16A intTy (fun _ a b => a == b) o s
/-- vu.ilt (R188). -/
def execVuIlt (o : TOp) (s : State) : Out := vuCompare 0x16B intTy (fun _ a b => sint 32 a < sint 32 b) o s
/-- vu.nlt (R188). -/
def execVuNlt (o : TOp) (s : State) : Out := vuCompare 0x16C intTy (fun _ a b => a < b) o s

/-! ## Selection and permutation (R189) -/

/-- Any control word. -/
def anyTy (_ : Word) : Bool := true

/-- vu.vsel (R189): m[k] ? a[k] : b[k]. -/
def execVuVsel (o : TOp) (s : State) : Out :=
  vuTrigger 0x16D (fun t => !vcMask t)
    (fun _ => [(.vuA, laneSource), (.vuB, laneSource), (.vuM, Val.isRef .vm), (.vuD, Val.isRef .v)]) (fun _ m t r =>
    let x := m.me
    let mask : BitVec 256 := x.vm.getD (r.at 2).idx 0
    let res := ((upFrom 0 256).zip ((x.lanes (r.at 0)).zip (x.lanes (r.at 1)))).map fun p =>
      if mask.getLsbD p.1 then p.2.1 else p.2.2
    .ok (land m 4 [laneResult t r (r.at 3) res])) o s

/-- vu.vbcast (R189): a[ARG mod 256] in every lane and in vu.res. -/
def execVuVbcast (o : TOp) (s : State) : Out :=
  vuTrigger 0x16E anyTy (fun _ => usesAD) (fun _ m t r =>
    let c := (m.me.lanes (r.at 0)).getD (vcArg t % 256) 0
    .ok (land m 4 [laneResult t r (r.at 1) (List.replicate 256 c), .res (scalarResult t c)])) o s

/-- vu.vperm (R189): a[bits(b[k], 7, 0)]. -/
def execVuVperm (o : TOp) (s : State) : Out :=
  vuTrigger 0x16F anyTy (fun _ => usesABD) (fun _ m t r =>
    let x := m.me
    let a := x.lanes (r.at 0)
    .ok (land m 8 [laneResult t r (r.at 2) ((x.lanes (r.at 1)).map fun c => a.getD (c.toNat % 256) 0)])) o s

/-- The lanes of b, a and b in a row from `256 + distance` on (R189). -/
def slideLanes (a b : List Cell) (dist : Int) : List Cell := ((b ++ a ++ b).drop (256 + dist).toNat).take 256

/-- vu.vslide (R189). -/
def execVuVslide (o : TOp) (s : State) : Out :=
  vuTrigger 0x170 anyTy (fun _ => usesABD) (fun _ m t r =>
    let x := m.me
    let dist := satInt (-256) 256 (sint 32 (vcArg t))
    .ok (land m 4 [laneResult t r (r.at 2) (slideLanes (x.lanes (r.at 0)) (x.lanes (r.at 1)) dist)])) o s

/-! ## Reductions, scan and count (R190-R192) -/

/-- The types of reductions. -/
def numTy (t : Word) : Bool := vcType t < 5

/-- The elements of the selected lanes. -/
def selected (t : Word) (mask : BitVec 256) (lanes : List Cell) : List Nat :=
  ((upFrom 0 256).zip lanes).flatMap fun (k, c) => if mask.getLsbD k then cellElems (elemBits (vcType t)) c else []

/-- A reduction: every selected element, to vu.res. -/
def vuReduce (code : Nat) (ff : List Fl → Fl) (fi : Nat → List Int → Int) (o : TOp) (s : State) : Out :=
  vuTrigger code numTy (fun _ => [(.vuA, laneSource)]) (fun _ m t r =>
    let es := selected t r.mask (m.me.lanes (r.at 0))
    let ty := vcType t
    let w := if isInt ty then wordOfInt (fi ty (es.map (intOf ty)))
      else word (f32.encode false (ff (es.map (floatOf ty).decode)))
    .ok (land m 8 [.res w])) o s

/-- vu.vrsum (R190). -/
def execVuVrsum (o : TOp) (s : State) : Out := vuReduce 0x171 sumAll (fun _ l => l.foldl (· + ·) 0) o s
/-- vu.vrmax (R190). -/
def execVuVrmax (o : TOp) (s : State) : Out :=
  vuReduce 0x172 (·.foldl Fl.max (.inf true)) (fun ty l => l.foldl max (rangeOf ty).1) o s
/-- vu.vrmin (R190). -/
def execVuVrmin (o : TOp) (s : State) : Out :=
  vuReduce 0x173 (·.foldl Fl.min (.inf false)) (fun ty l => l.foldl min (rangeOf ty).2) o s

/-- The operator of a scan on cells, and its identity (R190, R191). -/
def scanOp (t : Word) : (Cell → Cell → Cell) × Cell :=
  let ty := vcType t
  let asFl (f : Fl → Fl → Fl) (a b : Cell) : Cell := flCell (f (cellFl a) (cellFl b))
  let asInt (f : Int → Int → Int) (a b : Cell) : Cell := BitVec.ofInt 32 (f (intOf ty a.toNat) (intOf ty b.toNat))
  if isInt ty then
    match vcSub t with
    | 0 => (asInt (· + ·), 0)
    | 1 => (asInt max, BitVec.ofInt 32 (rangeOf ty).1)
    | _ => (asInt min, BitVec.ofInt 32 (rangeOf ty).2)
  else
    match vcSub t with
    | 0 => (asFl Fl.add, 0x80000000)
    | 1 => (asFl Fl.max, 0xFF800000)
    | _ => (asFl Fl.min, 0x7F800000)

/-- The scan from lane to lane (R191). -/
def scanLanes (f : Cell → Cell → Cell) (mask : BitVec 256) : Nat → Cell → List Cell → List Cell
  | _, _, [] => []
  | k, acc, c :: rest =>
    let acc' := if mask.getLsbD k then f acc c else acc
    acc' :: scanLanes f mask (k + 1) acc' rest

/-- vu.vscan (R191). -/
def execVuVscan (o : TOp) (s : State) : Out :=
  vuTrigger 0x174 (fun t => (vcType t == 0 || intTy t) && vcSub t < 3) (fun _ => usesAD) (fun _ m t r =>
    let out := scanLanes (scanOp t).1 r.mask 0 (scanOp t).2 (m.me.lanes (r.at 0))
    .ok (land m 8 [laneResult t r (r.at 1) out, .res (scalarResult t (out.getLastD 0))])) o s

/-- vu.vcnt (R192). Its source is a mask (log 136). -/
def execVuVcnt (o : TOp) (s : State) : Out :=
  vuTrigger 0x179 anyTy (fun _ => [(.vuA, Val.isRef .vm)]) (fun _ m _ r =>
    let v := m.me.vm.getD (r.at 0).idx 0 &&& r.mask
    .ok (land m 4 [.res (word (popCount v.toNat 256))])) o s

/-! ## S4 superblocks in a register (R193, R194) -/

/-- The control words vquant accepts. With TYPE 0, for which R193 gives POS no meaning, POS is ignored (DESIGN CHOICE, log 124). -/
def quantOk (t : Word) : Bool :=
  floatTy t && !vcMask t && (vcAux t || vcSub t < 5) && (vcType t == 0 || vcPos t < 2)

/-- The bytes of lanes. -/
def laneBytes (lanes : List Cell) : List Byte := lanes.flatMap fun c => bytesLE 4 c.toNat

/-- The 256 f32 encodings vquant reads. -/
def quantSource (t : Word) (lanes : List Cell) : List Nat :=
  let es := unpack (elemBits (vcType t)) lanes
  ((es.drop (if vcType t = 0 then 0 else 256 * vcPos t)).take 256).map fun e =>
    f32.encode false ((floatOf (vcType t)).decode e)

/-- The quantisation a control word asks for. -/
def quantiseBy (t : Word) (xs : List Nat) (carried : List Cell) : Quantised :=
  if vcAux t then
    let q := superblockOf (laneBytes (carried.take 44))
    quantiseDelayed (vcArg t) (vcGuard t) q.s q.bsc xs
  else quantise (vcArg t) (if vcSub t = 4 then none else some (vcSub t)) xs

/-- vu.vquant (R193). With AUX the image stands in a register, which b names (log 136). -/
def execVuVquant (o : TOp) (s : State) : Out :=
  vuTrigger 0x175 quantOk
    (fun t => if vcAux t then [(.vuA, laneSource), (.vuD, Val.isRef .v), (.vuB, Val.isRef .v)] else usesAD)
    (fun _ m t r =>
      let x := m.me
      let q := quantiseBy t (quantSource t (x.lanes (r.at 0))) (if vcAux t then x.lanes (r.at 2) else [])
      let image := ((chunks 4 44 q.block.bytes).map fun b => BitVec.ofNat 32 (natLE b)) ++ List.replicate 212 0
      let m := m.onMe fun x =>
        let x := x.countScales q.ovf q.unf
        if q.invalid then x.raiseCsw cswInvalid else x
      let slow := vcGuard t || (!vcAux t && vcSub t == 4)
      let m := m.onMyCore fun co => { co with vuNext := m.cycle + if slow then 8 else 4 }
      .ok (land m (if slow then 28 else 20)
        [laneResult t r (r.at 1) image, .res (word (q.clipped * 256 + q.block.escn))])) o s

/-- vu.vdq (R194). With SUB 0, for which R194 gives POS no meaning, POS is ignored (DESIGN CHOICE, log 125). -/
def execVuVdq (o : TOp) (s : State) : Out :=
  vuTrigger 0x176 (fun t => !vcMask t && vcSub t < 3 && (vcSub t == 0 || vcPos t < 2)) (fun _ => usesAD) (fun _ m t r =>
    let x := m.me
    let (vs, miss) := (superblockOf (laneBytes ((x.lanes (r.at 0)).take 44))).decode
    let es := vs.map ((floatOf (vcSub t)).encode false)
    let old := x.lanes (r.at 1)
    let w := elemBits (vcSub t)
    let out := if vcSub t = 0 then packLanes 32 es else packLanes w (overwrite (unpack w old) es (256 * vcPos t))
    let m := if miss then m.onMe (·.raiseCsw cswEscOvr) else m
    .ok (land m 8 [laneResult t r (r.at 1) out])) o s

/-! ## Factor vectors (R195) -/

/-- Whether a tile names a factor vector. -/
def Tile.namesFv (t : Tile) (i : Nat) : Bool := [t.rho, t.kappa, t.beta, t.gamma].any fun f => match f with
  | some f => f.fv == i
  | none => false

/-- Whether a tf command has still to read or write a factor vector (R195): the vector that it names itself, or one of a tile
whose resolve is not over. -/
def TfCmd.usesFv (q : TfCmd) (i : Nat) : Bool :=
  q.fv == i || (q.resolves.drop q.phase).any (·.tile.namesFv i)
    || (q.op == .resolve && q.a.toList.any fun r => q.step < r.tile.rows && r.tile.namesFv i)

/-- The FACTOR_VOID a vector raises outside a descriptor (R314). -/
def factorVoid {α : Type} (i : Nat) : Except Stop α := .error (.raise (trap5 .factorVoid 0 (i * 256 + 128)))

/-- A vu trigger waits for a factor vector: behind earlier tf commands, then for the end of pending; a void one faults. -/
def awaitFactor (m : Mach) (i : Nat) : Except Stop Unit :=
  if m.myCore.tf.any fun q => q.ctx == m.issue.ctx && !q.ended && q.usesFv i then .error .stall
  else match (m.me.fv.getD i .zero).state with
    | .void => factorVoid i
    | .pending => .error (.block (.factor [i]))
    | .ready => .ok ()

/-- The entries of a factor vector as cells. -/
def FactorVec.cells (q : FactorVec) : List Cell := q.entries.map (·.setWidth 32)

/-- vu.vldf (R195). -/
def execVuVldf (o : TOp) (s : State) : Out :=
  vuTrigger 0x177 (fun t => vcPos t < 2) (fun _ => [(.vuA, Val.isRef .fv), (.vuD, Val.isRef .v)]) (fun _ m t r => do
    let i := (r.at 0).idx
    let _ ← awaitFactor m i
    let cells := (m.me.fv.getD i .zero).cells
    .ok (land m 4 [laneResult t r (r.at 1) ((cells.drop (256 * vcPos t)).take 256)])) o s

/-- Entries after lanes are copied into a group of 256 under a mask (R195). -/
def storeEntries (old : List (BitVec 40)) (pos : Nat) (lanes : List (Option Cell)) : List (BitVec 40) :=
  let group := (((old.drop (256 * pos)).take 256).zip lanes).map fun p => match p.2 with
    | some c => c.setWidth 40
    | none => p.1
  overwrite old group (256 * pos)

/-- vu.vstf (R195): the entries are written as it issues. -/
def execVuVstf (o : TOp) (s : State) : Out :=
  vuTrigger 0x178 (fun t => vcPos t < 2) (fun _ => [(.vuA, laneSource), (.vuD, Val.isRef .fv)]) (fun _ m t r => do
    let i := (r.at 1).idx
    let _ ← awaitFactor m i
    let lanes := maskLanes r.mask (vcZero t) (m.me.lanes (r.at 0))
    .ok (m.onMe fun x =>
      { x with fv := modifyAt (fun q => { q with entries := storeEntries q.entries (vcPos t) lanes }) i x.fv })) o s

end Sys2Proof.Machine
end

