-- ==== Sys2Proof/Machine/Lu.lean ====
section
/-!
DEFINITION. The load/store unit (spec/11_ops_memory_engines.md R219-R228): scalar and wide loads and stores, atomics,
fences, drains and prefetch; page walks (spec/18_translation_faults.md R310).
-/

namespace Sys2Proof.Machine

/-! ## Loads (R219-R222) -/

/-- The effective address of a load or store. -/
def effective (a : Val) (t : Word) : Word := a.w + t

/-- A load whose access is planned and whose bytes it needs at once or on delivery. -/
def startLoad (mem : Memory) (m : Mach) (acc : Access) (size : Nat) (signed : Bool) : Except Stop Mach :=
  let x := m.me
  let i := m.issue
  if x.loadsFull then .error (.block (.luQueue false true))
  else if m.myCore.engineTouches i.ctx acc.keys then .error .stall
  else
    let (tag, m) := m.newId
    let note (m : Mach) (v : Option Word) : Mach :=
      (m.onMe fun x => { x with loads := x.loads ++ [⟨tag, v, acc.keys, size, signed, false⟩] }).awaitResult .lu tag
    if !acc.isLocal then
      .ok ((note m none).joinHost ⟨tag, i.core, i.ctx, (x.unit.map (·.uid)).getD 0, tag, [], acc.keys, true, none, size,
        signed, none, acc.sa, some tag, m.cycle + acc.cycles, 0⟩)
    else if x.fownHolds then .error .stall
    else if acc.keys.any isBarrierKey then
      if x.ownTouches acc.keys then .error .stall
      else .ok ((note m none).post (m.cycle + acc.cycles) (.loadResultArrive i.core i.ctx tag 0))
    else do
      let bs ← loadBytes mem m x acc.keys
      let v := loadValue signed bs
      .ok ((note m (some v)).post (m.cycle + acc.cycles) (.loadResultArrive i.core i.ctx tag v))

/-- A scalar load of `size` bytes. -/
def luLoad (code size : Nat) (signed : Bool) (o : TOp) (s : State) : Out :=
  triggerW o s fun mem m t =>
    with1 code .luA Val.isWord m fun a m => do
      let (acc, m) ← planAccess m (effective a t) size size false
      startLoad mem m acc size signed

/-- A scalar store of `size` bytes. -/
def luStore (code size : Nat) (o : TOp) (s : State) : Out :=
  triggerW o s fun _ m t =>
    with2 code .luA .luD Val.isWord Val.isWord m fun a d m => do
      let ea := effective a t
      let (acc, m) ← planAccess m ea size size true
      storeBytes m ea acc (bytesLE size d.w.toNat)

/-- The lanes that bytes fill, the others left alone. -/
def lanesFrom (bs : List Byte) : List (Option Cell) :=
  let cells := (chunks 4 256 bs).map fun b => some (BitVec.ofNat 32 (natLE b))
  cells ++ List.replicate (256 - cells.length) none

/-- A wide load of `size` bytes into the v register that d names; its write is outstanding for the figure of R104 plus
4 cycles (R222). One of the barrier area reads at the vault atomic unit (R126). -/
def luLoadWide (code size align : Nat) (o : TOp) (s : State) : Out :=
  triggerW o s fun mem m t =>
    with2 code .luA .luD Val.isWord (Val.isRef .v) m fun a d m => do
      let (acc, m) ← planAccess m (effective a t) size align false
      let x := m.me
      let i := m.issue
      if x.loadsFull then .error (.block (.luQueue false true))
      else if x.outstanding d || m.myCore.engineTouches i.ctx acc.keys || (acc.isLocal && x.fownHolds) then .error .stall
      else
        let (tag, m) := m.newId
        let note (m : Mach) (lanes : List (Option Cell)) (v : Option Word) : Mach := m.onMe fun x =>
          { x with loads := x.loads ++ [⟨tag, v, acc.keys, size, false, false⟩]
                   landing := x.landing ++ [⟨tag, .v d.idx lanes⟩] }
        if acc.keys.any isBarrierKey then
          if x.ownTouches acc.keys then .error .stall
          else .ok ((note m (List.replicate 256 none) none).post (m.cycle + acc.cycles) (.loadResultArrive i.core i.ctx tag 0))
        else if acc.isLocal then do
          let bs ← loadBytes mem m x acc.keys
          .ok ((note m (lanesFrom bs) (some 0)).post (m.cycle + acc.cycles + 4) (.vuResultLand i.core i.ctx tag))
        else
          let lanes : List (Option Cell) := List.replicate 256 none
          .ok ((note m lanes none).joinHost ⟨tag, i.core, i.ctx, (x.unit.map (·.uid)).getD 0, tag, [], acc.keys, true,
            some ⟨tag, .v d.idx lanes⟩, size, false, none, acc.sa, none, m.cycle + acc.cycles, 0⟩)

/-- A wide store of `size` bytes of the v register that d names. -/
def luStoreWide (code size align : Nat) (o : TOp) (s : State) : Out :=
  triggerW o s fun _ m t =>
    with2 code .luA .luD Val.isWord (Val.isRef .v) m fun a d m => do
      let ea := effective a t
      let (acc, m) ← planAccess m ea size align true
      if m.me.outstanding d then .error .stall
      else storeBytes m ea acc ((laneBytes (m.me.vreg d.idx)).take size)

/-- lu.ldb (R221). -/
def execLuLdb (o : TOp) (s : State) : Out := luLoad 0x1C3 1 false o s
/-- lu.ldh (R221). -/
def execLuLdh (o : TOp) (s : State) : Out := luLoad 0x1C4 2 false o s
/-- lu.ldw (R221). -/
def execLuLdw (o : TOp) (s : State) : Out := luLoad 0x1C5 4 false o s
/-- lu.ldd (R221). -/
def execLuLdd (o : TOp) (s : State) : Out := luLoad 0x1C6 8 false o s
/-- lu.ldsb (R221). -/
def execLuLdsb (o : TOp) (s : State) : Out := luLoad 0x1C7 1 true o s
/-- lu.ldsh (R221). -/
def execLuLdsh (o : TOp) (s : State) : Out := luLoad 0x1C8 2 true o s
/-- lu.ldsw (R221). -/
def execLuLdsw (o : TOp) (s : State) : Out := luLoad 0x1C9 4 true o s
/-- lu.stb (R221). -/
def execLuStb (o : TOp) (s : State) : Out := luStore 0x1CA 1 o s
/-- lu.sth (R221). -/
def execLuSth (o : TOp) (s : State) : Out := luStore 0x1CB 2 o s
/-- lu.stw (R221). -/
def execLuStw (o : TOp) (s : State) : Out := luStore 0x1CC 4 o s
/-- lu.std (R221). -/
def execLuStd (o : TOp) (s : State) : Out := luStore 0x1CD 8 o s
/-- lu.ldq (R222). -/
def execLuLdq (o : TOp) (s : State) : Out := luLoadWide 0x1CE 16 8 o s
/-- lu.stq (R222). -/
def execLuStq (o : TOp) (s : State) : Out := luStoreWide 0x1CF 16 8 o s
/-- lu.ldv (R222). -/
def execLuLdv (o : TOp) (s : State) : Out := luLoadWide 0x1D0 1024 16 o s
/-- lu.stv (R222). -/
def execLuStv (o : TOp) (s : State) : Out := luStoreWide 0x1D1 1024 16 o s

/-! ## Atomics (R223, R224) -/

/-- The fields of an atomic control word. -/
def atomicOf (kind : AtomKind) (t d b : Word) : Atomic :=
  ⟨kind, bits t 3 0, bits t 6 4, bits t 7 7 == 1, bits t 9 8, bits t 11 10, bits t 16 12, d, b⟩

/-- Whether R223 and R224 accept an atomic's fields. R224 has cas and hnd ignore AOP, so that of their fields TYPE, and SAT by its
TYPE, can be refused. -/
def Atomic.legal (a : Atomic) : Bool :=
  let fl := 4 ≤ a.type
  a.type != 7 && match a.kind with
    | .cas | .hnd => !(a.sat && (a.type == 2 || a.type == 3))
    | k =>
      a.aop < 10 && !(1 ≤ a.aop && a.aop ≤ 6 && fl) && !(7 ≤ a.aop && !fl)
        && (!a.sat || (a.aop == 1 && a.type != 2 && a.type != 3))
        && (k == .amo || (1 ≤ a.aop && a.aop ≤ 7))
        && (k != .red || a.ord == 0 || a.ord == 2)

/-- Whether an order attribute acquires. -/
def Atomic.acquires (a : Atomic) : Bool := a.ord == 1 || a.ord == 3
/-- Whether an order attribute releases. -/
def Atomic.releases (a : Atomic) : Bool := 2 ≤ a.ord

/-- The scope an atomic takes at an address (R120). -/
def widenScope (c a scope : Nat) : Nat :=
  match windowOf a with
  | .host => 3
  | .vault => if scope = 0 ∧ vaultCore a ≠ c then 1 else scope
  | _ => if scope = 0 then 1 else scope

/-- Issues an atomic whose access is planned. -/
def startAtomic (m : Mach) (acc : Access) (a : Atomic) : Except Stop Mach :=
  let x := m.me
  let i := m.issue
  let gives := a.kind != .red
  if (gives && x.loadsFull) || (acc.isLocal && x.storesFull) then .error (.block (.luQueue acc.isLocal gives))
  else if m.myCore.engineTouches i.ctx acc.keys then .error .stall
  else
    let (n, m) := m.newId
    let tag := if gives then some n else none
    let m := if gives then
        (m.onMe fun x => { x with loads := x.loads ++ [⟨n, none, [], typeSize a.type, false, a.acquires⟩] }).awaitResult .lu n
      else m
    if acc.isLocal then
      .ok (m.joinPending ⟨n, acc.keys, [], some a, tag, a.releases, m.cycle + acc.cycles, false, acc.st⟩)
    else
      .ok (m.joinHost ⟨n, i.core, i.ctx, (x.unit.map (·.uid)).getD 0, n, [], acc.keys, false, none, typeSize a.type,
        false, some a, acc.sa, tag, m.cycle + acc.cycles, 0⟩)

/-- An atomic trigger: `withB` where it uses lu.b. -/
def luAtomic (code : Nat) (kind : AtomKind) (withB : Bool) (o : TOp) (s : State) : Out :=
  triggerW o s fun _ m t =>
    if !(atomicOf kind t 0 0).legal then illBundle
    else
      let run (a d b : Val) (m : Mach) : Except Stop Mach := do
        let at_ := atomicOf kind t d.w b.w
        let size := typeSize at_.type
        let addr := a.w
        if kind = .hnd ∧ windowOf addr.toNat ≠ .hbm ∧ windowOf addr.toNat ≠ .unassigned ∧ windowOf addr.toNat ≠ .code then
          alignFault addr.toNat
        else
          let (acc, m) ← planAccess m addr size size true
          startAtomic m acc { at_ with scope := widenScope m.issue.core addr.toNat at_.scope }
      if withB then with3 code .luA .luD .luB Val.isWord Val.isWord Val.isWord m run
      else with2 code .luA .luD Val.isWord Val.isWord m fun a d m => run a d (.word 0) m

/-- lu.amo (R224). -/
def execLuAmo (o : TOp) (s : State) : Out := luAtomic 0x1D2 .amo false o s
/-- lu.cas (R224). -/
def execLuCas (o : TOp) (s : State) : Out := luAtomic 0x1D3 .cas true o s
/-- lu.famo (R224). -/
def execLuFamo (o : TOp) (s : State) : Out := luAtomic 0x1D4 .famo false o s
/-- lu.red (R224). -/
def execLuRed (o : TOp) (s : State) : Out := luAtomic 0x1D5 .red false o s
/-- lu.hnd (R224). -/
def execLuHnd (o : TOp) (s : State) : Out := luAtomic 0x1D6 .hnd true o s

/-! ## Fences, drains and prefetch (R115-R117, R225-R227) -/

/-- lu.fown (R115): later local loads wait until the stores and atomics issued so far have entered the store buffer. -/
def execLuFown (o : TOp) (s : State) : Out :=
  triggerW o s fun _ m _ => .ok (m.onMe fun x => { x with fown := some m.ids })

/-- lu.ffar (R116, R225): the context waits at the lu queue until it completes. -/
def execLuFfar (o : TOp) (s : State) : Out :=
  triggerW o s fun _ m t =>
    let c := bits t 23 16
    if !inPart m.myPart c then prot 2 0
    else
      .ok (m.onMe fun x => { x with ffar := some ⟨c, bits t 7 0, m.ids, none⟩, hold := some .ffar })

/-- Whether part 1 of an ffar is done: every entry of the issuer has performed (R116). -/
def Mach.ffarReady (m : Mach) (c k : Nat) : Bool :=
  let x := m.ctx c k
  match x.ffar with
  | some f => f.entries.isNone && x.pend.all (f.upTo < ·.seq) && x.buffer.all (f.upTo < ·.seq)
  | none => false

/-- FFAR_SERIALISE (R116): fixes the entries in the targets' store buffers. -/
def execFfarSerialise (core ctx : Nat) (s : State) : Out :=
  let m := s.mach
  endEvent s (if m.ffarReady core ctx then
    match (m.ctx core ctx).ffar with
    | some f =>
      let fixed := ((upFrom 0 8).filter (bit f.mask)).flatMap fun k =>
        (m.ctx f.core k).buffer.map fun e => (f.core, k, e.seq)
      m.onCtx core ctx fun x => { x with ffar := some { f with entries := some fixed } }
    | none => m
  else m)

/-- Whether every fixed entry of an ffar has performed (R116). -/
def Mach.ffarDone (m : Mach) (c k : Nat) : Bool :=
  match (m.ctx c k).ffar with
  | some f => match f.entries with
    | some l => l.all fun e => !((m.ctx e.1 e.2.1).buffer.any (·.seq == e.2.2))
    | none => false
  | none => false

/-- FFAR_COMPLETE (R116): the issuer's later bundles may issue. -/
def execFfarComplete (core ctx : Nat) (s : State) : Out :=
  let m := s.mach
  endEvent s (if m.ffarDone core ctx then m.onCtx core ctx fun x => { x with ffar := none } else m)

/-- lu.drain (R117, R226): once its bundle has retired, later ones wait until the condition of every class requested holds. -/
def execLuDrain (o : TOp) (s : State) : Out :=
  triggerW o s fun _ m t =>
    .ok (m.onMe fun x => { x with hold := some (.drain (bits t 3 0)) })

/-- DRAIN_COMPLETE (R117): the drain's condition holds and its context is ready. -/
def execDrainComplete (core ctx : Nat) (s : State) : Out :=
  let m := s.mach
  endEvent s (match (m.ctx core ctx).status with
    | .blocked (.drain mask) => if m.drainDone core ctx mask then m.makeReady core ctx else m
    | _ => m)

/-- lu.pf (R227): allocates the line of an HBM address on a page without the streaming attribute; an address that would
fault drops it. -/
def execLuPf (o : TOp) (s : State) : Out :=
  triggerW o s fun _ m t =>
    with1 0x1DA .luA Val.isWord m fun a m =>
      let ea := (effective a t).toNat
      if windowOf ea ≠ .hbm then .ok m
      else match translatePiece m m.issue.core m.myPart m.me.priv false ea with
        | .ok (key, e) => .ok (if pteST e then m else m.allocLine key)
        | .error (.walk c h va) => .error (.walk c h va)
        | .error _ => .ok (m.forgetFaults m.issue.core m.issue.ctx)

/-! ## Page walks (R310) -/

/-- PAGE_WALK_COMPLETE (R310): the entry enters the cache, and a walk that ended in a fault is remembered until the waiting
access takes it, 64 cycles at most (DESIGN CHOICE, log 93). Faults are not cached: any other access walks afresh. -/
def execPageWalkComplete (core part addr : Nat) (s : State) : Out :=
  let m := s.mach
  let this (w : Walk) : Bool := w.core == core && w.part == part && w.va == addr && w.fault.isNone
  endEvent s (if m.walks.any this then
    match walkNow s.mem m part addr with
    | .ok r =>
      let m : Mach := { m with walks := m.walks.filter (!this ·) }
      m.onCore core (·.addTlb (tlbOf part addr r))
    | .error d => { m with walks := m.walks.map fun w => if this w then { w with fault := some d, since := m.cycle } else w }
  else m)

end Sys2Proof.Machine
end

