-- ==== Sys2Proof/Machine/Fq.lean ====
section
/-!
DEFINITION. The fabric queue of a context (spec/11_ops_memory_engines.md R242-R245), and requests at the package they are
for: translation and checks (spec/18_translation_faults.md R312), reads, writes and atomics (R243), the ingress router
(spec/15_prog_ticket_combining.md R265-R267) and the replies.
-/

namespace Sys2Proof.Machine

/-! ## Requests (R242, R243) -/

/-- TARGET of a request. -/
def reqTarget (h : Word) : Nat := bits h 63 56
/-- SIZE of a request. -/
def reqSize (h : Word) : Nat := bits h 19 8
/-- Whether the reply to a request forms a contribution. -/
def reqFvr (h : Word) : Bool := reqOp h == 0 && bits h 6 6 == 1
/-- FV of a request. -/
def reqFv (h : Word) : Nat := bits h 31 26

/-- The data words a request has after its address (R243). -/
def reqData (h : Word) : Nat :=
  match reqOp h with
  | 0 => 0
  | 1 => ceilDiv (reqSize h) 8
  | 3 | 6 => 2
  | _ => 1

/-- The words of fq.rx that the reply to a request takes (R243, R245). -/
def replyNeed (h : Word) : Nat :=
  match reqOp h with
  | 0 => if reqFvr h then 1 else 1 + ceilDiv (reqSize h) 8
  | 1 | 5 => if noReply h then 0 else 1
  | _ => 2

/-- The bytes that a request touches at its target. -/
def reqBytes (h : Word) : Nat := if reqOp h < 2 then reqSize h else typeSize (bits h 42 40)

/-- The scope of a request. -/
def reqScope (h : Word) : Nat := 2 + bits h 33 33

/-- The fields of the atomic that a request makes, its operands taken from the data words: for cas the expected value and
the new one (R243). -/
def reqAtomic (kind : AtomKind) (ws : List Word) : Atomic :=
  let h := ws.getD 0 0
  let d0 := ws.getD 2 0
  let d1 := ws.getD 3 0
  let (d, b) := if kind = .cas then (d1, d0) else (d0, d1)
  ⟨kind, bits h 39 36, bits h 42 40, bits h 32 32 == 1, reqScope h, bits h 35 34, bits h 47 43, d, b⟩

/-- Whether the operand of an atomic travels as a C40 word (R277). -/
def Atomic.travelsC40 (a : Atomic) : Bool := (a.kind == .famo || a.kind == .red) && a.aop == 7

/-- The words of a request as they travel (R277). -/
def wireWords (ws : List Word) : List Word :=
  match reqKind (ws.getD 0 0) with
  | some kind =>
    let a := reqAtomic kind ws
    if a.travelsC40 then ws.take 2 ++ [carry a a.d] else ws
  | none => ws

/-- Whether a request is well formed for a context with a number of factor vectors (R245). -/
def wellFormed (nfv : Nat) (ws : List Word) : Bool :=
  let h := ws.getD 0 0
  reqOp h < 7 && ws.length == 2 + reqData h && reqTarget h < 192
    && (if reqFvr h then 4 ≤ reqSize h && reqSize h ≤ 2048 && reqSize h % 4 == 0 && reqFv h < nfv
        else if reqOp h < 2 then 1 ≤ reqSize h && reqSize h ≤ 256
        else match reqKind h with
          | some kind => (reqAtomic kind ws).legal
          | none => true)

/-! ## fq.tx and fq.txe (R242, R245) -/

/-- fq.tx (R242). -/
def execFqTx (o : TOp) (s : State) : Out :=
  triggerW o s fun _ m t =>
    if 64 ≤ m.me.tx.length then .error (.block .fqTx)
    else .ok (m.onMe fun x => { x with tx := x.tx ++ [t] })

/-- A reply that the own port makes: it reserves one word and enters fq.rx in the next cycle. -/
def portReply (m : Mach) (h : Word) (status : Nat) : Mach :=
  let i := m.issue
  let (n, m) := m.newId
  let m := m.onMe fun x => { x with rxReserved := x.rxReserved + 1 }
  let ws := replyWords m.pkg h status 0 []
  Mach.post { m with replies := m.replies ++ [⟨n, .fq i.core i.ctx ((m.me.unit.map (·.uid)).getD 0), ws⟩] } (m.cycle + 1)
    (.fqReplyArrive n)

/-- The plane a request to a package takes, none where it cannot be reached. -/
def Mach.route (m : Mach) (c target : Nat) : Option Nat :=
  if m.npkg ≤ target then none
  else if target = m.pkg then some (dieOf c)
  else m.choosePlane (dieOf c) target

/-- Sends a request whose reply space is free: it reserves that space, and an acquire holds the context until its reply. -/
def sendRequest (m : Mach) (ws : List Word) (plane : Nat) : Mach :=
  let i := m.issue
  let h := ws.getD 0 0
  let (n, m) := m.newId
  let ord := bits h 35 34
  let acquires := (reqKind h).isSome && (ord == 1 || ord == 3) && replyNeed h != 0
  let m := m.onMe fun x =>
    { x with rxReserved := x.rxReserved + replyNeed h, acquires := if acquires then n :: x.acquires else x.acquires }
  let sent := wireWords ws
  let g : Msg := ⟨n, false, plane, reqTarget h, .fq i.core i.ctx ((m.me.unit.map (·.uid)).getD 0), sent, 8 * sent.length⟩
  let m : Mach := if replyNeed h = 0 then m else { m with asked := m.asked ++ [g] }
  m.launchRequest g (bits (ws.getD 1 0) 47 0) (reqBytes h)

/-- fq.txe (R245). -/
def execFqTxe (o : TOp) (s : State) : Out :=
  triggerW o s fun _ m t =>
    let x := m.me
    let i := m.issue
    let ws := x.tx ++ [t]
    let h := ws.getD 0 0
    let need := replyNeed h
    if x.fqFrozen || x.fqHalted then .error (.block .fqPort)
    else if 64 ≤ x.tx.length then .error (.block .fqTx)
    else
      let m := m.onMe fun x => { x with tx := [] }
      if !wellFormed x.fv.length ws then
        if x.rxSpace < 1 then .error (.block (.fqSpace 1)) else .ok (portReply m h 4)
      else if x.rxSpace < need then .error (.block (.fqSpace need))
      else match m.route i.core (reqTarget h) with
        | none => if x.rxSpace < 1 then .error (.block (.fqSpace 1)) else .ok (portReply m h 5)
        | some p =>
          if reqTarget h ≠ m.pkg ∧ !(m.peer p (reqTarget h)).room (8 * ws.length) then
            .error (.block (.sendQueue p (reqTarget h) (8 * ws.length)))
          else if (reqKind h).isSome && 2 ≤ bits h 35 34 && !m.coveredDone i.core i.ctx (reqScope h) (m.ids + 1) then
            .error .stall
          else .ok (sendRequest m ws p)

/-! ## Translation at the ingress (R312) -/

/-- Whether and for which partition XIN_PART lets a package in. -/
def Mach.xinPart (m : Mach) (source : Nat) : Bool × Nat :=
  let e := field (m.xin.getD (source / 16) 0).toNat (4 * (source % 16) + 3) (4 * (source % 16))
  (bit e 3, e % 8)

/-- The package a message comes from. -/
def Mach.source (m : Mach) (g : Msg) : Nat :=
  match g.who with
  | .peer p _ _ _ => p
  | _ => m.pkg

/-- The partition that translates a message, and whether it may enter: the issuer's own for the own package. -/
def Mach.entryPart (m : Mach) (g : Msg) : Bool × Nat :=
  match g.who with
  | .lu c _ _ _ | .tf c _ _ _ | .fq c _ _ | .job c _ _ _ => (true, partOf c)
  | .peer p _ _ _ => m.xinPart p

/-- What keeps a request from being performed: the STATUS of its reply, with cause and detail. -/
structure Denied where
  status : Nat
  cause : Cause
  detail : Nat

/-- The key of an address for a partition at the ingress, by its kept translations or a walk whose result is kept. -/
def ingressPiece (mem : Memory) (m : Mach) (h : Nat) (store : Bool) (a : Nat) : Except Denied (Nat × Mach) :=
  if windowOf a = .vault then
    if partOf (vaultCore a) = h then .ok (a, m) else .error ⟨2, .prot, 2⟩
  else
    let found : Except Nat (Tlb × Mach) :=
      if !(m.part h).ptEn.getD (windowOf a).index false then .error 1
      else match findTlb (m.part h).ingress h a with
        | some t => .ok (t, m)
        | none =>
          match walkNow mem m h a with
          | .error d => .error d
          | .ok r => .ok (tlbOf h a r, m.onPart h fun p => { p with ingress := tlbOf h a r :: p.ingress })
    match found with
    | .error d => .error ⟨1, .xlate, d⟩
    | .ok (t, m) =>
      match pageDenies t.pte .task store false with
      | some d => .error ⟨2, .prot, d⟩
      | none => .ok (t.key a, m)

/-- Pieces one after another. -/
def ingressPieces (mem : Memory) (h : Nat) (store : Bool) : Mach → List (Nat × Nat) → Except Denied (List Seg × Mach)
  | m, [] => .ok ([], m)
  | m, (a, n) :: rest =>
    match ingressPiece mem m h store a with
    | .error e => .error e
    | .ok (key, m) =>
      match ingressPieces mem h store m rest with
      | .error e => .error e
      | .ok (segs, m) => .ok ((key, n) :: segs, m)

/-- The segments a request reaches, or what denies it. -/
def ingressSegs (mem : Memory) (m : Mach) (h : Nat) (ws : List Word) : Except Denied (List Seg × Mach) :=
  let hd := ws.getD 0 0
  let a := (ws.getD 1 0).toNat
  let size := reqBytes hd
  match windowOf a with
  | .unassigned | .code => .error ⟨1, .xlate, 3⟩
  | w =>
    if (2 ≤ reqOp hd && a % size != 0) || !oneRange a size || (reqOp hd == 6 && w != .hbm) then .error ⟨3, .align, 0⟩
    else ingressPieces mem h (reqOp hd != 0) m (granules64K (size / 65536 + 2) a size)

/-! ## Performing (R243, R244, R267) -/

/-- The cycles from performing to the issuer in the own package: one to leave, the way back, one to enter (R266, R270; that the
way back takes as long as R267's way out is a DESIGN CHOICE, log 94). -/
def returnCycles : Nat := 42

/-- Answers a request, which is no longer at the ingress. -/
def Mach.answerArrival (m : Mach) (g : Msg) (status size : Nat) (data : List Word) : Mach :=
  (({ m with ingress := m.ingress.filter (·.msg.id != g.id) } : Mach).delivered g.id).replyTo g status size data returnCycles

/-- A request that fails: its reply says so, or one that draws none leaves a fault record of type 0x09 (R312). -/
def Mach.denyArrival (m : Mach) (g : Msg) (h : Nat) (d : Denied) : Mach :=
  let hd := g.words.getD 0 0
  let m := if noReply hd then
      m.report h (faultRecord 0x09 d.cause.code d.detail 0 0 (g.words.getD 1 0) 0 0 (word (m.source g)) m.cycle)
    else m
  m.answerArrival g d.status 0 []

/-- A read or write performs. -/
def Mach.performAccess (mem : Memory) (m : Mach) (g : Msg) (segs : List Seg) : Mach :=
  let hd := g.words.getD 0 0
  let keys := segKeys segs
  if reqOp hd = 0 then
    let bs := peekAll mem m keys
    let data := (chunks 8 (bs.length + 1) bs).map fun c => word (natLE c)
    (m.settleBarriers mem keys).answerArrival g 0 (reqSize hd) data
  else
    ((m.write (keys.zip ((g.words.drop 2).flatMap fun w => bytesLE 8 w.toNat))).settleBarriers mem keys).answerArrival g 0 0 []

/-- The values of a contribution that f32 words carry, two to a word. -/
def valuesOf (n : Nat) (ws : List Word) : List (BitVec 40) :=
  ((ws.flatMap fun w => [bits w 31 0, bits w 63 32]).take n).map fun v => toC40 (f32.decode v)

/-- Sends a contribution of a context of package `pkg` to the factor store, to arrive in cycle t. -/
def Mach.contribution (m : Mach) (t pkg c k toCore toCtx fv : Nat) (values : List (BitVec 40)) (report : Origin)
    (words : List Word) : Mach :=
  let (n, m) := m.newId
  Mach.post { m with contribs := m.contribs ++ [⟨n, pkg, c, k, toCore, toCtx, fv, values, none, report, words, t⟩] } t
    (.fvContribution n)

/-- The core and context a message comes from. -/
def Msg.sender (g : Msg) : Nat × Nat :=
  match g.who with
  | .lu c k _ _ | .tf c k _ _ | .fq c k _ | .job c k _ _ | .peer _ c k _ => (c, k)

/-- The message as the origin of what it makes at its target. -/
def Mach.asPeer (m : Mach) (g : Msg) : Origin := .peer (m.source g) g.sender.1 g.sender.2 g.id

/-- A contribution of another job arrives (R344): refused, or on its way to the factor store. -/
def Mach.contributionArrives (m : Mach) (g : Msg) : Mach :=
  let (may, h) := m.entryPart g
  let w := g.words.getD 1 0
  let c := bits w 23 16
  if !may || !inPart h c then m.answerArrival g 2 0 []
  else
    m.contribution m.cycle (m.source g) g.sender.1 g.sender.2 c (bits w 10 8) (bits w 5 0)
      (valuesOf (reqSize (g.words.getD 0 0) / 4) (g.words.drop 2)) (m.asPeer g) []

/-- An atomic enters the ingress router (R122, R267). -/
def Mach.enterIngress (m : Mach) (g : Msg) (kind : AtomKind) (h key : Nat) : Mach :=
  let a := reqAtomic kind g.words
  let (n, m) := m.newId
  let d := if a.travelsC40 then a.d else carry a a.d
  m.enterNet ⟨n, key, a, .leaf (m.asPeer g) d returnCycles, [(160, m.source g)], m.cycle, true, h, none⟩

/-- Whether an earlier request from the same context, or from the same package, to a common byte is still at the ingress
(R113). -/
def Mach.arrivalWaits (m : Mach) (a : Arrival) : Bool :=
  let same (b : Arrival) : Bool := match a.msg.who, b.msg.who with
    | .fq c k _, .fq c' k' _ => c == c' && k == k'
    | .peer p c k _, .peer q c' k' _ => p == q && c == c' && k == k'
    | _, _ => false
  let lo (b : Arrival) : Nat := bits (b.msg.words.getD 1 0) 47 0
  let size (b : Arrival) : Nat := reqBytes (b.msg.words.getD 0 0)
  m.ingress.any fun b => b.msg.id < a.msg.id && same b && lo b < lo a + size a && lo a < lo b + size b

/-- A request enters the ingress router: it is translated, and goes on to its home, which it reaches 40 cycles later (R267). A
write from another package performs on delivery (R111, R233). -/
def Mach.enterArrival (mem : Memory) (m : Mach) (a : Arrival) : Mach :=
  let g := a.msg
  let hd := g.words.getD 0 0
  let (may, h) := m.entryPart g
  if m.arrivalWaits a then m.again (.channelDeliver g.id)
  else if reqOp hd = 8 then m.contributionArrives g
  else if 7 ≤ reqOp hd then m.answerArrival g 4 0 []
  else if !may then m.denyArrival g h ⟨2, .prot, 2⟩
  else match ingressSegs mem m h g.words with
    | .error d => m.denyArrival g h d
    | .ok (segs, m) =>
      let set (m : Mach) (due : Option Nat) : Mach :=
        { m with ingress := m.ingress.map fun b => if b.msg.id = g.id then ⟨g, h, segs, due⟩ else b }
      match reqKind hd with
      | some kind => (set m none).enterIngress g kind h ((segs.headD (0, 0)).1)
      | none =>
        if m.hostDown (segKeys segs) then (set m (some (m.cycle + 1))).again (.channelDeliver g.id)
        else if m.source g = m.pkg || reqOp hd = 0 then (set m (some (m.cycle + 40))).post (m.cycle + 40) (.channelDeliver g.id)
        else m.performAccess mem g segs

/-- CHANNEL_DELIVER (R111, R113, R267): a request of the host channel or of the fabric delivers: it performs at its home, or
waits for what R113 puts before it. -/
def execChannelDeliver (id : Nat) (s : State) : Out :=
  let m := s.mach
  endEvent s (match m.host.find? (·.id == id) with
    | some q => m.tryHost s.mem q
    | none =>
      match m.ingress.find? (·.msg.id == id) with
      | some a =>
        if a.segs.isEmpty then m.enterArrival s.mem a
        else match a.due with
          | some t =>
            if m.cycle < t then m
            else if m.hostDown (segKeys a.segs) then m.again (.channelDeliver id)
            else m.performAccess s.mem a.msg a.segs
          | none => m
      | none =>
        match m.atHome fun r => r.id == id with
        | some r => m.tryPerform s.mem r
        | none => m)

end Sys2Proof.Machine
end

