-- ==== Sys2Proof/Machine/Concierge.lean ====
section
/-!
DEFINITION. The concierge (spec/01_execution_model.md R10-R31; spec/17_scheduling.md R286-R293): task packets and their
checks, the counters of the five levels, queue entries, placement and the start of units, cancels, and the end of a unit.
-/

namespace Sys2Proof.Machine

/-! ## Task packets (R19-R22) -/

/-- The words of a packet's bytes. -/
def wordsOf (bs : List Byte) : List Word := (chunks 8 (bs.length / 8) bs).map fun c => word (natLE c)

/-- The bits of a field of word i of a packet. -/
def wbits (ws : List Word) (i hi lo : Nat) : Nat := bits (ws.getD i 0) hi lo

/-- The length of a packet whose word 0 is given (R20). -/
def packetBytes (w0 : Word) : Nat := (bits w0 2 0 + 1) * 32

/-- The word with which the pointer windows begin. -/
def windowsAt (ws : List Word) : Nat := 4 + 2 * wbits ws 0 22 20
/-- PWMASK. -/
def pwMask (ws : List Word) : Nat := wbits ws 2 39 33
/-- The word with which the successors begin. -/
def successorsAt (ws : List Word) : Nat := windowsAt ws + popCount (pwMask ws) 7
/-- The word with which the inline payload begins. -/
def inlineAt (ws : List Word) : Nat := successorsAt ws + wbits ws 0 19 16

/-- Pointer window k + 1 of a packet: its address and size where it is bound. -/
def packetWindow (ws : List Word) (k : Nat) : Option (Nat × Nat) :=
  if bit (pwMask ws) k then
    let i := windowsAt ws + popCount (pwMask ws) k
    some (wbits ws i 47 0, wbits ws i 56 48)
  else none

/-- A packet from its words. -/
def packetOf (ws : List Word) : Packet where
  units := wbits ws 0 63 40
  home := if wbits ws 0 23 23 = 1 then some (wbits ws 0 31 24) else none
  verify := wbits ws 0 15 15 == 1
  prio := wbits ws 0 14 13
  spawn := wbits ws 0 12 12 == 1
  code := wbits ws 1 47 0
  nvm := wbits ws 2 32 29
  ncb := wbits ws 2 28 24
  nacc := wbits ws 2 23 14
  nfv := wbits ws 2 13 7
  nv := wbits ws 2 6 0
  preds := wbits ws 3 39 32
  job := wbits ws 3 31 24
  phase := wbits ws 3 23 16
  graph := wbits ws 3 15 0
  foot := (upFrom 0 (wbits ws 0 22 20)).map fun k =>
    (wbits ws (4 + 2 * k) 47 0, wbits ws (5 + 2 * k) 63 32, wbits ws (5 + 2 * k) 31 0)
  windows := (upFrom 0 7).map (packetWindow ws)
  succ := (upFrom 0 (wbits ws 0 19 16)).map fun k => wbits ws (successorsAt ws + k) 31 0
  inl := (upFrom 0 (wbits ws 0 39 32)).map fun k => ws.getD (inlineAt ws + k) 0

/-! ## Counters (R11-R13, R24-R26) -/

/-- A launch that waits for predecessors (R24). -/
def Launch.held (l : Launch) : Bool := l.predsLeft != 0 && !l.counter.cancelReq

/-- Whether a successor entry may name a launch: one accepted with PREDS > 0, until it is COMPLETE (R23, R24). -/
def Launch.nameable (l : Launch) : Bool := l.packet.preds != 0 && !l.counter.complete

/-- Whether a counter's units are all accounted for. -/
def Counter.full (c : Counter) : Bool := c.issued != 0 && c.issued == c.done + c.cancelled

/-- A level a unit counts in. -/
structure Level where
  handle : Nat
  job : Nat
  phase : Nat
  graph : Nat

/-- The levels of a unit. -/
def UnitId.level (u : UnitId) : Level := ⟨u.handle, u.job, u.phase, u.graph⟩

/-- The state of a JOB number (R13). -/
def Work.jobLevel (w : Work) (j : Nat) : JobLevel := (w.jobs.find? (·.job == j)).getD ⟨j, .zero, false, 0, [], [], []⟩

/-- Changes the state of a JOB number. -/
def Work.onJobLevel (w : Work) (j : Nat) (f : JobLevel → JobLevel) : Work :=
  { w with jobs := f (w.jobLevel j) :: w.jobs.filter (·.job != j) }

/-- The launch a handle names. -/
def Work.launch (w : Work) (h : Nat) : Option Launch := w.launches.find? (·.handle == h)

/-- Changes the launch a handle names. -/
def Work.onLaunch (w : Work) (h : Nat) (f : Launch → Launch) : Work :=
  { w with launches := w.launches.map fun l => if l.handle = h then f l else l }

/-- The counter of a number in a list; a number not listed counts nothing, and has the CANCEL_REQ of its job. -/
def counterIn (req : Bool) (l : List (Nat × Counter)) (n : Nat) : Counter := (l.lookup n).getD { Counter.zero with cancelReq := req }

/-- Changes the counter of a number in a list. -/
def onCounter (req : Bool) (l : List (Nat × Counter)) (n : Nat) (f : Counter → Counter) : List (Nat × Counter) :=
  (n, f (counterIn req l n)) :: l.filter (·.1 != n)

/-- Changes the counters of a phase, a graph and their job. -/
def JobLevel.count (j : JobLevel) (phase graph : Nat) (f : Counter → Counter) : JobLevel :=
  let req := j.counter.cancelReq
  let members := if j.members.contains (phase, graph) then j.members else (phase, graph) :: j.members
  { j with counter := f j.counter, phases := onCounter req j.phases phase f, graphs := onCounter req j.graphs graph f,
           members := members }

/-- Changes the counters of a launch and of its graph, phase and job (R11). -/
def Work.count (w : Work) (l : Level) (f : Counter → Counter) : Work :=
  (w.onLaunch l.handle fun q => { q with counter := f q.counter }).onJobLevel l.job (·.count l.phase l.graph f)

/-- A launch reaches COMPLETE: it lowers its successors, and ages the launches that were complete before (R24-R26). -/
def Work.completeLaunch (w : Work) (mark : Nat) (l : Launch) : Work :=
  { w with launches := w.launches.map fun q =>
      if q.handle = l.handle then { q with counter := { q.counter with complete := true }, mark := mark }
      else
        let q := if l.packet.succ.contains q.handle then { q with predsLeft := q.predsLeft - 1 } else q
        if q.counter.complete then { q with completions := q.completions + 1 } else q }

/-- Launches due to be COMPLETE become so, at most `n`. -/
def Work.completeAll (w : Work) (mark : Nat) : Nat → Work
  | 0 => w
  | n + 1 =>
    match w.launches.find? fun l => l.counter.full && !l.counter.complete && !l.held with
    | some l => (w.completeLaunch mark l).completeAll mark n
    | none => w

/-- Whether a held launch belongs to a level. -/
def Work.holds (w : Work) (p : Packet → Bool) : Bool := w.launches.any fun l => l.held && p l.packet

/-- The least of a list of numbers, or the greatest with `up`. -/
def extreme (up : Bool) : List Nat → Option Nat
  | [] => none
  | n :: rest => match extreme up rest with
    | none => some n
    | some k => some (if up then max n k else min n k)

/-- COMPLETE of a job's counters, and its current phase, of those that have accepted a launch (R11, R13). -/
def Work.settleJob (w : Work) (j : JobLevel) : JobLevel :=
  let set (held : Bool) (c : Counter) : Counter := { c with complete := c.full && !held }
  let phases := j.phases.map fun p => (p.1, set (w.holds fun k => k.job == j.job && k.phase == p.1) p.2)
  let begun := phases.filter (·.2.issued != 0)
  let graphs := j.graphs.map fun p => (p.1, set (w.holds fun k => k.job == j.job && k.graph == p.1) p.2)
  let counter := set (w.holds fun k => k.job == j.job) j.counter
  let open_ := (begun.filter (!·.2.complete)).map (·.1)
  let running := j.running && !counter.complete
  { j with counter, phases, graphs, running,
           phase := ((extreme false open_).or (extreme true (begun.map (·.1)))).getD j.phase }

/-- What follows a change of counters: launches and levels reach COMPLETE, and counters kept long enough are due to be
discarded (R26). -/
def Mach.settle (m : Mach) (h : Nat) : Mach :=
  let m := m.onWork h fun w =>
    let w := w.completeAll m.ids w.launches.length
    { w with jobs := w.jobs.map w.settleJob }
  (m.work h).launches.foldl (fun m l =>
    if l.counter.complete ∧ 1024 ≤ l.completions then m.post m.cycle (.launchCounterDiscard h l.handle) else m) m

/-- Whether a launch's counter is kept no longer (R26). -/
def Launch.discardable (l : Launch) (handle : Nat) : Bool := l.handle == handle && l.counter.complete && 1024 ≤ l.completions

/-- LAUNCH_COUNTER_DISCARD (R26). A result word of the host in which COMPLETE does not stand yet is still owed it. -/
def execLaunchCounterDiscard (part handle : Nat) (s : State) : Out :=
  endEvent s (s.mach.onWork part fun w =>
    { w with launches := w.launches.filter (!·.discardable handle)
             owed := w.owed ++ w.launches.filter fun l => l.discardable handle && l.slot.isSome })

/-! ## Checks (R23, R286, R288) -/

/-- BAD_LENGTH. -/
def badLength (ws : List Word) : Bool := (ws.headD 0 |> packetBytes) < 8 * (inlineAt ws + wbits ws 0 39 32)

/-- BAD_FIELD; `rows` is what the tile views of the issuing unit need of NACC (R33). -/
def badField (spawn : Bool) (rows : Nat) (ws : List Word) : Bool :=
  let p := packetOf ws
  p.units == 0 || 4 < wbits ws 0 22 20 || 28 < wbits ws 0 39 32 || 64 < p.nv || 64 < p.nfv || 16 < p.ncb || 8 < p.nvm
    || 512 < p.nacc || (p.home.any (159 < ·)) || p.code % 16 != 0
    || (p.windows.any fun w => w.any fun q => q.2 == 0 || 256 < q.2) || p.spawn != spawn || (spawn && p.nacc < rows)

/-- STALE_PHASE (R12, R13). -/
def Work.stale (w : Work) (p : Packet) : Bool :=
  let j := w.jobLevel p.job
  j.running && p.phase < j.phase

/-- The refusal cause of a packet handed to partition h, 0 where it is acceptable. -/
def Mach.refusal (m : Mach) (h : Nat) (spawn : Bool) (rows : Nat) (ws : List Word) : Nat :=
  let p := packetOf ws
  let w := m.work h
  if badLength ws then 1
  else if badField spawn rows ws then 2
  else if spawn && (p.preds != 0 || !p.succ.isEmpty) then 3
  else if !spawn && p.succ.any fun s => !(w.launch s).any Launch.nameable then 4
  else if !spawn && w.stale p then 5
  else if (p.home.any fun c => !inPart h c) || !(m.part h).en then 6
  else 0

/-! ## Queue entries (R27, R288) -/

/-- General entries that a partition holds. -/
def Die.general (d : Die) (h : Nat) : Nat := ((d.entries.take 56).filter (· == some h)).length

/-- The entry a packet of partition h and a depth can take. -/
def Mach.freeEntry (m : Mach) (h depth : Nat) : Option Nat :=
  let d := m.die (h / 2)
  let general := if d.general h < (m.work h).gquota then (findAt (· == none) 0 (d.entries.take 56)).map (·.1) else none
  match general with
  | some e => some e
  | none => if 1 ≤ depth ∧ d.entries.getD (55 + depth) (some 0) = none then some (55 + depth) else none

/-- Takes an entry for a partition. -/
def Mach.takeEntry (m : Mach) (h e : Nat) : Mach :=
  m.onDie (h / 2) fun d => { d with entries := modifyAt (fun _ => some h) e d.entries }

/-- Frees an entry of a partition's die; the next blocked packet may be granted one. -/
def Mach.freeEntryOf (m : Mach) (h : Nat) (e : Option Nat) : Mach :=
  match e with
  | none => m
  | some e =>
    (m.onDie (h / 2) fun d => { d with entries := modifyAt (fun _ => none) e d.entries }).post m.cycle
      (.queueEntryGrant (h / 2))

/-- QUEUE_ENTRY_GRANT (R27, R288): the earliest blocked packet that may take an entry is granted one. -/
def execQueueEntryGrant (die : Nat) (s : State) : Out :=
  let m := s.mach
  endEvent s (match (m.die die).blocked.find? fun b => b.granted.isNone && (m.freeEntry b.part b.depth).isSome with
    | none => m
    | some b =>
      match m.freeEntry b.part b.depth with
      | none => m
      | some e =>
        let mark (q : Blocked) : Blocked := if q = b then { q with granted := some e } else q
        ((m.takeEntry b.part e).onDie die fun d => { d with blocked := d.blocked.map mark }).post m.cycle
          (.queueEntryGrant die))

/-- The packet of (c, k) leaves the blocked packets; an entry granted to it is returned with `keep`, freed otherwise. -/
def Mach.leaveBlocked (m : Mach) (c k h : Nat) (keep : Bool) : Option Nat × Mach :=
  let mine (b : Blocked) : Bool := b.core == c && b.ctx == k
  let granted := ((m.die (h / 2)).blocked.filter mine).findSome? (·.granted)
  let m := m.onDie (h / 2) fun d => { d with blocked := d.blocked.filter (!mine ·) }
  if keep then (granted, m) else (none, m.freeEntryOf h granted)

/-- Claims an entry for the packet of (c, k): the one granted to it, or a free one. -/
def Mach.claimEntry (m : Mach) (c k h depth : Nat) : Option (Nat × Mach) :=
  let mine (b : Blocked) : Bool := b.core == c && b.ctx == k && b.depth == depth && b.granted.isSome
  if (m.die (h / 2)).blocked.any mine then
    let r := m.leaveBlocked c k h true
    r.1.map fun e => (e, r.2)
  else match m.freeEntry h depth with
    | some e => some (e, (m.leaveBlocked c k h false).2.takeEntry h e)
    | none => none

/-! ## Acceptance (R13, R24, R26) -/

/-- The next handle that no kept counter has, from `n` on. -/
def Work.freeHandle (w : Work) : Nat → Nat → Nat
  | n, 0 => n
  | n, fuel + 1 => if n = 0 ∨ (w.launch n).isSome then w.freeHandle ((n + 1) % 2 ^ 32) fuel else n

/-- A launch is accepted: its handle, and the partition with its counters. -/
def Mach.acceptLaunch (m : Mach) (h : Nat) (p : Packet) (entry : Nat) (slot : Option Nat) : Nat × Mach :=
  let w := m.work h
  let hd := w.freeHandle w.nextHandle (w.launches.length + 2)
  let (id, m) := m.newId
  let batch : Batch := ⟨id, h, some entry, 0, hd, p, none, 0, [], 0, [], []⟩
  let begin_ (j : JobLevel) : JobLevel :=
    if j.running then j else ⟨j.job, .zero, true, p.phase, [], [], []⟩
  let older (l : Launch) : Launch := if l.packet.job = p.job ∧ !(w.jobLevel p.job).running then { l with past := true } else l
  let add (q : Counter) : Counter := { q with issued := q.issued + p.units }
  let launch : Launch := ⟨hd, p, .zero, p.preds, false, 0, slot, 0, false⟩
  let m := m.onWork h fun (w : Work) =>
    ({ w with
      nextHandle := (hd + 1) % 2 ^ 32
      launches := w.launches.map older ++ [launch]
      batches := w.batches ++ [batch] }.onJobLevel p.job begin_).count (⟨hd, p.job, p.phase, p.graph⟩ : Level) add
  (hd, (m.settle h).post m.cycle (.unitStart h id))

/-- Changes the unit with a number wherever it is: in a context of the partition or in a save. -/
def Mach.onUnit (m : Mach) (h uid : Nat) (f : Ctx → Ctx) : Mach :=
  let mine (x : Ctx) : Bool := x.unit.any fun u => u.uid == uid
  let g (x : Ctx) : Ctx := if mine x then f x else x
  let each (p : Nat × Core) : Core :=
    if partOf p.1 = h ∧ p.2.ctxs.any mine then { p.2 with ctxs := p.2.ctxs.map g } else p.2
  let m : Mach := { m with cores := ((upFrom 0 m.cores.length).zip m.cores).map each }
  m.onWork h fun w => { w with saves := w.saves.map fun s => { s with image := g s.image } }

/-- Changes the family of a parent. -/
def Mach.onFamily (m : Mach) (h uid : Nat) (f : Family → Family) : Mach :=
  m.onWork h fun w => { w with families := w.families.map fun q => if q.parent = uid then f q else q }

/-- The family of a parent. -/
def Mach.family (m : Mach) (h uid : Nat) : Option Family := (m.work h).families.find? (·.parent == uid)

/-- Changes a child of a family, by its spawn and index. -/
def Family.onKid (f : Family) (spawn index : Nat) (g : Child → Child) : Family :=
  { f with kids := f.kids.map fun kid => if kid.spawn = spawn ∧ kid.index = index then g kid else kid }

/-! ## Placement (R29, R286) -/

/-- Bytes of a footprint that lie in a core's vault window. -/
def footBytes (i c : Nat) (f : Nat × Nat × Nat) : Nat :=
  let lo := f.1 + i * f.2.1
  let hi := lo + f.2.2
  min hi (vaultBase c + 0x1000000) - max lo (vaultBase c)

/-- The sum of unit i's footprints for a core. The bytes in the partition's HBM stack count alike for every core of the
partition, so they decide nothing (R29, R286). -/
def Packet.sumFor (p : Packet) (i c : Nat) : Nat := (p.foot.map (footBytes i c)).foldl (· + ·) 0

/-- The cores of a partition. -/
def partCores (h : Nat) : List Nat := (upFrom 0 160).filter fun c => partOf c == h

/-- Occupied contexts of a core. -/
def Core.occupied (co : Core) : Nat := (co.ctxs.filter (·.status != .free)).length

/-- Whether a core is a better place than another. -/
def Mach.betterPlace (m : Mach) (p : Packet) (i : Nat) (c d : Nat) : Bool :=
  let a := p.sumFor i c
  let b := p.sumFor i d
  b < a || (a == b && ((m.core c).occupied < (m.core d).occupied
    || ((m.core c).occupied == (m.core d).occupied && c < d)))

/-- The core a unit of a packet goes to. -/
def Mach.placeOf (m : Mach) (h : Nat) (p : Packet) (i : Nat) : Option Nat :=
  let live := (partCores h).filter fun c => !(m.core c).retired
  match p.home with
  | some c => if !(m.core c).retired then some c else live.foldl (fun b c => some (match b with
      | some d => if m.betterPlace p i c d then c else d
      | none => c)) none
  | none => live.foldl (fun b c => some (match b with
      | some d => if m.betterPlace p i c d then c else d
      | none => c)) none

/-! ## What can start (R30, R286, R287, R301) -/

/-- Free contexts of cores in service that satisfy a test. -/
def Mach.freeContexts (m : Mach) (p : Nat → Bool) : Nat :=
  (((upFrom 0 160).zip m.cores).filter fun q => p q.1 && !q.2.retired).foldl (fun n q => n + (8 - q.2.occupied)) 0

/-- Whether, once a unit of depth d has taken `n` free contexts, the die and the partition have at least 8 − d left. -/
def Mach.depthLeaves (m : Mach) (h d n : Nat) : Bool :=
  8 - d + n ≤ m.freeContexts (fun c => dieOf c == h / 2) && 8 - d + n ≤ m.freeContexts (inPart h)

/-- Whether a unit of depth d may take a context of partition h. -/
def Mach.depthAllows (m : Mach) (h d : Nat) : Bool := m.depthLeaves h d 1

/-- Whether a core has a free context and window capacity for a packet. -/
def Core.hasRoom (co : Core) (p : Packet) : Bool :=
  let held (f : Ctx → Nat) : Nat := ((co.ctxs.filter (·.status != .free)).map f).foldl (· + ·) 0
  co.ctxs.any (·.status == .free) && held (·.v.length) + p.nv ≤ 64 && held (·.fv.length) + p.nfv ≤ 64
    && held (·.acc.length) + p.nacc ≤ 512 && held (·.vm.length) + p.nvm ≤ 64

/-- Whether the concierge may start the units of a launch or spawn: it is not held, and every lower phase of its job that
has accepted a launch is COMPLETE (R12, R24). -/
def Work.eligible (w : Work) (b : Batch) : Bool :=
  match w.launch b.handle with
  | none => false
  | some l =>
    let j := w.jobLevel l.packet.job
    (b.parent.isSome || !l.held) && j.phases.all fun p => l.packet.phase ≤ p.1 || p.2.issued == 0 || p.2.complete

/-- The next unit of a batch: its index, and the data errors it has met. -/
def Batch.nextUnit (b : Batch) : Option (Nat × Nat) :=
  match extreme false (b.again.map (·.1)) with
  | some i => some (i, (b.again.lookup i).getD 0)
  | none => if b.next < b.packet.units then some (b.next, 0) else none

/-- What can start next: a unit of a batch on a core, or a saved unit. -/
inductive Start where
  | unit (b : Batch) (index errors core : Nat)
  | saved (v : Save)
  deriving DecidableEq, Repr

/-- The order of R30: the deepest first, then the earliest accepted, then by unit index. -/
def Start.key : Start → Nat × Nat × Nat
  | .unit b i _ _ => (8 - b.depth, b.id, i)
  | .saved v => (8 - v.unit.depth, v.unit.batch, v.unit.index)

/-- Whether one start comes before another. -/
def Start.before (a b : Start) : Bool :=
  let p := a.key
  let q := b.key
  p.1 < q.1 || (p.1 == q.1 && (p.2.1 < q.2.1 || (p.2.1 == q.2.1 && p.2.2 < q.2.2)))

/-- The start that a batch allows now. -/
def Mach.batchStart (m : Mach) (h : Nat) (b : Batch) : Option Start :=
  if !(m.work h).eligible b || !m.depthAllows h b.depth then none
  else match b.nextUnit with
    | none => none
    | some (i, errs) =>
      match m.placeOf h b.packet i with
      | some c => if (m.core c).hasRoom b.packet then some (.unit b i errs c) else none
      | none => none

/-- The start that a save allows now. A reserved context is none of the free ones (R30, R286, R301). -/
def Mach.saveStart (m : Mach) (h : Nat) (v : Save) : Option Start :=
  if v.due.isSome then none
  else if v.reserved.isSome then (if m.depthLeaves h v.unit.depth 0 then some (.saved v) else none)
  else if m.depthAllows h v.unit.depth && (m.core v.core).hasRoom v.unit.packet then some (.saved v) else none

/-- The start that comes next in partition h, if any. -/
def Mach.nextStart (m : Mach) (h : Nat) : Option Start :=
  let p := m.part h
  if !p.run then none
  else
    let l := p.work.batches.filterMap (m.batchStart h)
      ++ (if p.holdRes then [] else p.work.saves.filterMap (m.saveStart h))
    l.foldl (fun best s => match best with
      | none => some s
      | some b => if s.before b then some s else some b) none

/-- The event in which a start takes place. -/
def Start.event (h : Nat) : Start → Event
  | .unit b _ _ _ => .unitStart h b.id
  | .saved v => .unitResume h v.unit.uid

/-- Posts the next start of a partition for this cycle. -/
def Mach.postStart (m : Mach) (h : Nat) : Mach :=
  match m.nextStart h with
  | some st => m.post m.cycle (st.event h)
  | none => m

/-! ## Starting a unit (R31, R33, R39, R55) -/

/-- The element size and identity that fill a tile view's cells: the low 32 bits of the operator's identity. -/
def Ctx.blankTile (x : Ctx) (m : Mach) (e : ViewEntry) : Ctx :=
  let t := Tile.unset.setGeometry e.geom
  let t := { t with rawOvf := false }
  let x := { x with tl := modifyAt (fun _ => t) e.base x.tl }
  let row : List Cell := List.replicate (4 * 2 ^ t.ccnt) (BitVec.ofNat 32 (identityOf m e))
  (upFrom t.row0 t.rows).foldl (fun x r =>
    { x with acc := modifyAt (fun old => overwrite old row (4 * t.col0)) r x.acc }) x

/-- A context in which a unit has just started. -/
def Mach.unitCtx (m : Mach) (h : Nat) (old : Ctx) (u : UnitId) (at_ : Nat) : Ctx :=
  let p := u.packet
  let pt := m.part h
  let own := min p.prio pt.ceil
  let x := { Ctx.reset with
    v := List.replicate p.nv (List.replicate 256 0)
    vm := List.replicate p.nvm 0
    fv := List.replicate p.nfv .zero
    acc := List.replicate p.nacc (List.replicate 256 0)
    cb := List.replicate p.ncb none
    pw := (if p.inl.isEmpty then Param.unbound else .inl p.inl) :: p.windows.map fun w => match w with
      | some (a, n) => Param.window a n
      | none => .unbound
    pc := p.code
    prio := own
    ownPrio := own
    quantum := pt.work.quantum
    wpMax := pt.work.wpMax
    status := .ready
    readySince := at_
    issueAt := at_
    unit := some u
    halted := old.halted
    fqFrozen := old.fqFrozen
    fqHalted := old.fqHalted }
  (u.views.filter (·.tile)).foldl (fun x e => x.blankTile m e) x

/-- A batch one of whose units has started or been dropped: with the last it leaves the queue and frees its entry. -/
def Mach.putBatch (m : Mach) (b : Batch) : Mach :=
  let next := ((upFrom b.next (b.packet.units - b.next)).find? fun i => !b.skip.contains i).getD b.packet.units
  let b := { b with next := next }
  if next = b.packet.units ∧ b.again.isEmpty then
    (m.onWork b.part fun w => { w with batches := w.batches.filter (·.id != b.id) }).freeEntryOf b.part b.entry
  else m.onWork b.part fun w => { w with batches := w.batches.map fun q => if q.id = b.id then b else q }

/-- The batch after unit i has been taken from it. -/
def Batch.takeUnit (b : Batch) (i : Nat) : Batch :=
  if b.again.any (·.1 == i) then { b with again := b.again.filter (·.1 != i) } else { b with next := i + 1 }

/-- The lowest free context of a core. -/
def Core.freeCtx (co : Core) : Nat := ((findAt (fun x : Ctx => x.status == .free) 0 co.ctxs).map (·.1)).getD 0

/-- Unit i of a batch starts in the lowest free context of a core; its first bundle issues 20 cycles later. -/
def Mach.startUnit (m : Mach) (b : Batch) (i errs c : Nat) : Mach :=
  let k := (m.core c).freeCtx
  let (uid, m) := m.newId
  let lv := match (m.work b.part).launch b.handle with
    | some l => l.packet
    | none => b.packet
  let u : UnitId := ⟨uid, b.id, b.part, b.handle, i, b.depth, lv.job, lv.phase, lv.graph, b.packet, b.parent, b.spawn,
    b.views, [], 0, 0, [], [], errs⟩
  let m := m.onCtx c k fun old => m.unitCtx b.part old u (m.cycle + 20)
  let m := match b.parent with
    | some q => m.onFamily b.part q (·.onKid b.spawn i fun kid => { kid with uid := uid, state := .waiting })
    | none => m.onWork b.part fun w => w.onLaunch b.handle fun l => { l with started := true }
  m.putBatch (b.takeUnit i)

/-- UNIT_START (R30). -/
def execUnitStart (part batch : Nat) (s : State) : Out :=
  let m := s.mach
  endEvent s (match m.nextStart part with
    | some (.unit b i errs c) => if b.id = batch then (m.startUnit b i errs c).postStart part else m
    | _ => m)

/-! ## The end of a unit (R11, R15, R33) -/

/-- Frees blocks of the view pool. -/
def Mach.freeBlocks (m : Mach) (h : Nat) (bs : List ViewBlock) : Mach :=
  m.onPart h fun p => { p with poolUsed := p.poolUsed.filter fun n => !bs.any (·.block == n) }

/-- The context of a unit that has ended is free. -/
def Mach.freeCtx (m : Mach) (c k : Nat) : Mach :=
  let m := (m.leaveBlocked c k (partOf c) false).2
  let m := m.switchOut c k
  let m := m.onCtx c k fun old =>
    { Ctx.reset with halted := old.halted, fqFrozen := old.fqFrozen, fqHalted := old.fqHalted, pend := old.pend,
                     buffer := old.buffer }
  m.dropRings c

/-- The next thing the merge engine does for a family without taking time: skips a cancelled child, takes the first view as
it is, or begins a step 8 cycles after the child and the step before it have ended (R34, R343). -/
def Mach.advanceFamily (m : Mach) (h uid : Nat) : Nat → Mach
  | 0 => m
  | n + 1 =>
    match m.family h uid with
    | none => m
    | some f =>
      if f.busy then m
      else match f.kids[f.folded]? with
        | none => m
        | some kid =>
          match kid.state with
          | .waiting => m
          | .cancelled => (m.onFamily h uid fun f => { f with folded := f.folded + 1 }).advanceFamily h uid n
          | .merged =>
            if f.any then
              (m.onFamily h uid fun f => { f with busy := true, entry := 0, block := 0 }).post (max kid.doneAt f.stepEnd + 8)
                (.mergeStep h uid)
            else
              (m.onFamily h uid fun f =>
                { f with folded := f.folded + 1, any := true, accBlocks := kid.blocks, accTiles := kid.tiles,
                         stepEnd := max kid.doneAt f.stepEnd }).advanceFamily h uid n

/-- A family after a change to its children. -/
def Mach.familyGoesOn (m : Mach) (h uid : Nat) : Mach :=
  m.advanceFamily h uid (((m.family h uid).map (·.kids.length)).getD 0 + 1)

/-- A child (by its spawn and index) has been cancelled: its parent's counter and family learn of it. -/
def Mach.childCancelled (m : Mach) (h : Nat) (parent : Option Nat) (spawn index : Nat) : Mach :=
  match parent with
  | none => m
  | some q =>
    let m := m.onUnit h q fun x => { x with children := { x.children with cancelled := x.children.cancelled + 1 } }
    (m.onFamily h q (·.onKid spawn index fun kid => { kid with state := .cancelled })).familyGoesOn h q

/-- A family is discarded with every view it holds (R14, R322). -/
def Mach.dropFamily (m : Mach) (h uid : Nat) : Mach :=
  match m.family h uid with
  | none => m
  | some f =>
    let held := f.accBlocks ++ f.kids.flatMap (·.blocks)
    (m.freeBlocks h held).onWork h fun w => { w with families := w.families.filter (·.parent != uid) }

/-- A unit is cancelled: its views are discarded and it counts in CANCELLED (R14). -/
def Mach.countCancelled (m : Mach) (h : Nat) (u : UnitId) : Mach :=
  let m := (m.freeBlocks h (u.blocks ++ u.firstBlocks)).dropFamily h u.uid
  let m := m.onWork h (·.count u.level fun c => { c with cancelled := c.cancelled + 1 })
  (m.childCancelled h u.parent u.spawn u.index).settle h

/-! ## Cancel (R14, R170, R302) -/

/-- The units of a partition in its contexts and saves. -/
def Mach.unitsOf (m : Mach) (h : Nat) : List UnitId :=
  (partCores h).flatMap (fun c => (m.core c).ctxs.filterMap (·.unit)) ++ (m.work h).saves.map (·.unit)

/-- The numbers of some units and of all their descendants: `n` generations. -/
def Mach.descendants (m : Mach) (h : Nat) : Nat → List Nat → List Nat
  | 0, l => l
  | n + 1, l =>
    let more := ((m.unitsOf h).filter fun u => u.parent.any l.contains && !l.contains u.uid).map (·.uid)
    m.descendants h n (l ++ more)

/-- A pending vector of a cancelled level becomes void (R50). -/
def FactorVec.cancel (f : FactorVec) : FactorVec :=
  if f.state = .pending then { f with state := .void, nn := false, op := .add, remain := 0, vcause := 1 } else f

/-- Sets CANCEL_REQ. -/
def Counter.request (c : Counter) : Counter := { c with cancelReq := true }

/-- Whether a context holds a unit that a cancel still reaches: one whose sy.merge has not issued. A verified unit in its
second run is still reached (DESIGN CHOICE, log 112). -/
def Ctx.cancellable (x : Ctx) : Bool := x.unit.isSome && x.status != .merging && x.status != .free

/-- A unit in a context is cancelled, and so is the level of its children (R11): it stops now if it is blocked or frozen, else
at its next stop point. -/
def Mach.cancelCtx (m : Mach) (c k : Nat) : Mach :=
  let x := m.ctx c k
  if !x.cancellable || x.cancelled then m
  else
    let m := m.onCtx c k fun x => { x with cancelled := true, fv := x.fv.map FactorVec.cancel, children := x.children.request }
    if (x.isBlocked || x.frozen) && !x.trap.active then m.post m.cycle (.unitStopOnCancel c k) else m

/-- The unstarted units of a batch that satisfy a test are dropped (R14). -/
def Mach.dropUnits (m : Mach) (b : Batch) (p : Nat → Bool) : Mach :=
  let waiting := (upFrom b.next (b.packet.units - b.next)).filter (!b.skip.contains ·)
  let gone := (waiting ++ b.again.map (·.1)).filter p
  let lv : Level := match (m.work b.part).launch b.handle with
    | some l => ⟨b.handle, l.packet.job, l.packet.phase, l.packet.graph⟩
    | none => ⟨b.handle, b.packet.job, b.packet.phase, b.packet.graph⟩
  let m := m.onWork b.part (·.count lv fun c => { c with cancelled := c.cancelled + gone.length })
  let m := gone.foldl (fun m i => m.childCancelled b.part b.parent b.spawn i) m
  (m.putBatch { b with skip := b.skip ++ waiting.filter p, again := b.again.filter fun q => !p q.1 }).settle b.part

/-- A spawn is accepted for the unit of context k of core c: its children join the family; those of a
cancelled unit are cancelled with it (R14). -/
def Mach.acceptSpawn (m : Mach) (c k : Nat) (u : UnitId) (p : Packet) (entry : Nat) : Nat × Mach :=
  let h := partOf c
  let x := m.ctx c k
  let views := x.views.map fun e => if e.tile then { e with geom := (x.tl.getD e.base .unset).word } else e
  let (id, m) := m.newId
  let batch : Batch := ⟨id, h, some entry, u.depth + 1, u.handle, p, some u.uid, x.spawns, views, 0, [], []⟩
  let kids : List Child := (upFrom 0 p.units).map fun i => ⟨x.spawns, i, 0, .waiting, 0, [], []⟩
  let m := if (m.family h u.uid).isSome then m.onFamily h u.uid fun f => { f with kids := f.kids ++ kids }
    else m.onWork h fun w => { w with families := w.families ++
      [⟨u.uid, c, u.handle, views, kids, 0, false, [], [], m.cycle, false, false, 0, 0, false, false, none⟩] }
  let add (q : Counter) : Counter := { q with issued := q.issued + p.units }
  let m := m.onWork h fun w => { w with batches := w.batches ++ [batch] }.count u.level add
  let m := m.onCtx c k fun x => { x with spawns := x.spawns + 1, children := add x.children }
  let m := (m.settle h).post m.cycle (.unitStart h id)
  (x.spawns, if x.cancelled then m.dropUnits batch fun _ => true else m)

/-- A save is discarded with its reserved context, its unit cancelled (R302). -/
def Mach.cancelSave (m : Mach) (h : Nat) (v : Save) : Mach :=
  let m := m.onWork h fun w => { w with saves := w.saves.filter (·.unit.uid != v.unit.uid) }
  let m := match v.reserved with
    | some k => m.freeCtx v.core k
    | none => m.dropRings v.core
  m.countCancelled h v.unit

/-- Cancels every unit of partition h, started, saved or not, that satisfies a test. -/
def Mach.cancelUnits (m : Mach) (h : Nat) (p : UnitId → Bool) (q : Batch → Nat → Bool) : Mach :=
  let m := (m.work h).batches.foldl (fun m b => m.dropUnits b (q b)) m
  let places := (partCores h).flatMap fun c => (upFrom 0 8).map fun k => (c, k)
  let m := places.foldl (fun m a => if (m.ctx a.1 a.2).unit.any p then m.cancelCtx a.1 a.2 else m) m
  ((m.work h).saves.filter fun v => p v.unit).foldl (fun m v => m.cancelSave h v) m

/-- Cancels units by number with all their descendants. -/
def Mach.cancelFrom (m : Mach) (h : Nat) (roots : List Nat) : Mach :=
  let l := m.descendants h 8 roots
  m.cancelUnits h (fun u => l.contains u.uid) fun b _ => b.parent.any l.contains

/-- The launches that a cancel of some launches reaches through successors (R14). -/
def Work.successors (w : Work) : Nat → List Nat → List Nat
  | 0, l => l
  | n + 1, l =>
    let more := (w.launches.filter fun q => l.contains q.handle && !q.counter.complete).flatMap (·.packet.succ)
    let new := more.filter fun h => !l.contains h && (w.launch h).any (!·.counter.complete)
    if new.isEmpty then l else w.successors n (l ++ new)

/-- Cancels launches, each that is not COMPLETE with its successors. -/
def Mach.cancelLaunches (m : Mach) (h : Nat) (l : List Nat) : Mach :=
  let w := m.work h
  let all := (w.successors w.launches.length l).filter fun hd => (w.launch hd).any (!·.counter.complete)
  let m := all.foldl (fun m hd => m.onWork h (·.onLaunch hd fun q => { q with counter := q.counter.request })) m
  (m.cancelUnits h (fun u => all.contains u.handle) fun b _ => all.contains b.handle).settle h

/-- A cancelled graph, phase or job and the levels within it get CANCEL_REQ (R11): the graphs of a phase, and every launch of
the job's present run whose counter is kept, COMPLETE or not. -/
def Work.requestWithin (w : Work) (job : Nat) (phase graph : Option Nat) : Work :=
  let inside (l : Launch) : Bool := !l.past && l.packet.job == job && phase.all (· == l.packet.phase)
    && graph.all (· == l.packet.graph)
  let w := { w with launches := w.launches.map fun l => if inside l then { l with counter := l.counter.request } else l }
  w.onJobLevel job fun j =>
    match phase, graph with
    | _, some g => { j with graphs := onCounter j.counter.cancelReq j.graphs g Counter.request }
    | some p, none =>
      { j with phases := onCounter j.counter.cancelReq j.phases p Counter.request
               graphs := j.graphs.map fun q => if j.members.contains (p, q.1) then (q.1, q.2.request) else q }
    | none, none =>
      { j with counter := j.counter.request, phases := j.phases.map fun q => (q.1, q.2.request)
               graphs := j.graphs.map fun q => (q.1, q.2.request) }

/-- Whether a cancelled unit can stop now. One that a double fault froze in its handler stops after the return (DESIGN CHOICE,
log 102). -/
def Ctx.canStop (x : Ctx) : Bool :=
  x.cancelled && !x.trap.active && (x.isBlocked || x.frozen || (x.status == .saving && !x.saveSet)) && x.status != .merging

/-- UNIT_STOP_ON_CANCEL (R14): the unit issues nothing more; once its engine commands, stores and privileged operation have ended, its context is
free and it counts in CANCELLED. -/
def execUnitStopOnCancel (core ctx : Nat) (s : State) : Out :=
  let m := s.mach
  let x := m.ctx core ctx
  endEvent s (match x.unit with
    | none => m
    | some u =>
      if x.canStop && x.status != .stopping then m.stopUnit core ctx
      else if x.status == .stopping && !((m.core core).mx.any (·.ctx == ctx)) && !((m.core core).tf.any (·.ctx == ctx))
          && x.pend.isEmpty && x.buffer.isEmpty && x.privOp.isNone then
        ((m.freeCtx core ctx).countCancelled (partOf core) u).postStart (partOf core)
      else m)

/-! ## Host submission (R293) -/

/-- The packet place of a partition's submission queue among the blocked packets. -/
def subqPlace (h : Nat) : Nat := 160 + h

/-- Whether the concierge is to take the entry at HEAD; with no module trained its read waits (R335). -/
def Mach.subqReady (m : Mach) (h : Nat) : Bool :=
  let p := m.part h
  let w := p.work
  p.run && m.boot.modules != 0 && w.subqSize != 0 && w.subqHead != w.subqTail && !w.subqStuck
    && !((m.die (h / 2)).blocked.any fun b => b.core == subqPlace h && b.granted.isNone)

/-- HEAD passes an entry. -/
def Work.subqNext (w : Work) : Work := { w with subqHead := (w.subqHead + 1) % 2 ^ min w.subqSize 12 }

/-- The result word (R293). -/
def resultWord (complete : Bool) (status handle : Nat) : Nat := 2 ^ 63 + b2n complete * 2 ^ 62 + status * 2 ^ 32 + handle

/-- SUBQ_ENTRY_TAKE (R293): the packet at HEAD is read, and refused, accepted or blocked. -/
def execSubqEntryTake (part : Nat) (s : State) : Out :=
  let m := s.mach
  let w := m.work part
  let a := w.subqBase.toNat + 512 * w.subqHead
  endEvent s (if !m.subqReady part then m
    else match windowOf a, deviceKey s.mem m part a with
      | .host, some key =>
        let bytes := peekAll s.mem m (upFrom key 256)
        let ws := wordsOf (bytes.take (packetBytes (word (natLE (bytes.take 8)))))
        let st := m.refusal part false 0 ws
        if st ≠ 0 then
          ((m.leaveBlocked (subqPlace part) 0 part false).2.onWork part (·.subqNext)).writeWord (key + 256)
            (resultWord false st 0)
        else match m.claimEntry (subqPlace part) 0 part 0 with
          | none => m.joinBlocked (subqPlace part) 0 part 0
          | some (e, m) =>
            let (hd, m) := m.acceptLaunch part (packetOf ws) e (some (key + 256))
            (m.onWork part (·.subqNext)).writeWord (key + 256) (resultWord false 0 hd)
      | .host, none =>
        let d := match walkNow s.mem m part a with
          | .error d => d
          | .ok _ => 0
        (m.onWork part fun w => { w with subqStuck := true }).report part
          (faultRecord 0x0B Cause.xlate.code d 0 0 (word a) 0 0 0 m.cycle)
      | _, _ =>
        (m.onWork part fun w => { w with subqStuck := true }).report part
          (faultRecord 0x0B Cause.xlate.code 3 0 0 (word a) 0 0 0 m.cycle))

/-- Whether every host and peer access numbered up to `n` has performed. -/
def Mach.outsideDone (m : Mach) (n : Nat) : Bool := !(m.host.any (·.id ≤ n)) && !(m.sent.any (·.id ≤ n))

/-- COMPLETE is written into the results of host submissions whose launches are COMPLETE, once the accesses of their units
have performed (R293). -/
def Mach.writeResults (m : Mach) (h : Nat) : Mach :=
  let due (m : Mach) (l : Launch) : Bool := l.counter.complete && m.outsideDone l.mark
  let answer (m : Mach) (l : Launch) : Mach :=
    match l.slot with
    | some key => m.writeWord key (resultWord true 0 l.handle)
    | none => m
  let m := ((m.work h).owed.filter (due m)).foldl answer m
  let m := m.onWork h fun w => { w with owed := w.owed.filter fun l => !due m l }
  ((m.work h).launches.filter (due m)).foldl
    (fun m l => (answer m l).onWork h (·.onLaunch l.handle fun q => { q with slot := none })) m

end Sys2Proof.Machine
end

