-- ==== Sys2Proof/Machine/Tile.lean ====
section
/-!
DEFINITION. Tiles and factors, as the matrix array, the tile unit and the merge engine share them (spec/04_pending_factors.md
R80-R97; spec/02_state.md R45-R50): cells by format, transforms, resolve, the waits of a forced resolve, contributions to
factor vectors, and the memory operands of both engines.
-/

namespace Sys2Proof.Machine

/-! ## Cells (R45, R47) -/

/-- The columns of a tile. -/
def Tile.n (t : Tile) : Nat := 4 * 2 ^ t.ccnt

/-- The cells of row i of a tile. -/
def Ctx.tileRow (x : Ctx) (t : Tile) (i : Nat) : List Cell :=
  ((x.acc.getD (t.row0 + i) (List.replicate 256 0)).drop (4 * t.col0)).take t.n

/-- Writes the cells of row i of a tile. -/
def Ctx.setTileRow (x : Ctx) (t : Tile) (i : Nat) (cells : List Cell) : Ctx :=
  { x with acc := modifyAt (fun row => overwrite row cells (4 * t.col0)) (t.row0 + i) x.acc }

/-- A cell as a copy writes it: bits 31:16 of a 16-bit element are 0 (R47). -/
def Fmt.held (f : Fmt) (c : Cell) : Cell :=
  match f with
  | .f16 | .bf16 => c &&& 0xFFFF
  | .f32 | .i32 => c

/-- The value of a cell, exactly. -/
def Fmt.value (f : Fmt) (c : Cell) : Fl :=
  match f with
  | .f32 => Machine.f32.decode c.toNat
  | .f16 => Machine.f16.decode (c.toNat % 65536)
  | .bf16 => Machine.bf16.decode (c.toNat % 65536)
  | .i32 => Fl.ofInt c.toInt

/-- A value as a cell of a format (R61, R63, R64): saturating where `sat`. -/
def Fmt.cell (f : Fmt) (sat : Bool) (v : Fl) : Cell :=
  match f with
  | .f32 => BitVec.ofNat 32 (Machine.f32.encode sat v)
  | .f16 => BitVec.ofNat 32 (Machine.f16.encode sat v)
  | .bf16 => BitVec.ofNat 32 (Machine.bf16.encode sat v)
  | .i32 => BitVec.ofInt 32 (v.toRange false (-2147483648) 2147483647)

/-- Whether a cell holds an infinity. -/
def Fmt.isInf (f : Fmt) (c : Cell) : Bool :=
  match f.value c with
  | .inf _ => true
  | _ => false

/-- Whether a value is finite. -/
def Fl.isFinite : Fl → Bool
  | .fin _ _ _ => true
  | _ => false

/-! ## Slots (R48, R83, R86, R87) -/

/-- Whether any slot is occupied. -/
def Tile.occupied (t : Tile) : Bool :=
  t.sigma.isSome || t.rho.isSome || t.kappa.isSome || t.beta.isSome || t.gamma.isSome

/-- The tile with its slots replaced. -/
def Tile.withSlots (t : Tile) (sigma : Option Cell) (rho kappa beta gamma : Option Factor) : Tile :=
  { t with sigma := sigma, rho := rho, kappa := kappa, beta := beta, gamma := gamma }

/-- The tile with every slot empty. -/
def Tile.bare (t : Tile) : Tile := t.withSlots none none none none none

/-- The tile with the slots of another. -/
def Tile.slotsOf (t u : Tile) : Tile := t.withSlots u.sigma u.rho u.kappa u.beta u.gamma

/-- The factors of a tile's slots. -/
def Tile.factors (t : Tile) : List Factor := t.rho.toList ++ t.kappa.toList ++ t.beta.toList ++ t.gamma.toList

/-- compose (R83). -/
def Xf.compose : Xf → Xf → Option Xf
  | .id, u => some u
  | .neg, .id => some .neg
  | .neg, .neg => some .id
  | .exp2, .id => some .exp2
  | .exp2, .neg => some .exp2neg
  | _, _ => none

/-- A transform over a slot: none where it cannot be placed. -/
def overSlot (t : Xf) : Option Factor → Option (Option Factor)
  | none => some none
  | some f => (t.compose f.xf).map fun u => some { f with xf := u }

/-- The transform with a code (R82). -/
def xfOf : Nat → Xf
  | 0 => .id
  | 1 => .neg
  | 2 => .exp2
  | 3 => .rcp
  | _ => .exp2neg

/-- The value a transform gives (R82). -/
def Xf.apply (t : Xf) (e : Fl) : Fl :=
  match t with
  | .id => e
  | .neg => e.neg
  | .exp2 => fexp2 e
  | .rcp => frcp e
  | .exp2neg => fexp2 e.neg

/-- Entry i of a factor vector as an f32. -/
def Ctx.entry (x : Ctx) (fv i : Nat) : Fl := f32.decode (((x.fv.getD fv .zero).entries.getD i 0).toNat % 2 ^ 32)

/-- The value of a factor for row or column i. -/
def Ctx.factorAt (x : Ctx) (f : Factor) (i : Nat) : Fl := f.xf.apply (x.entry f.fv i)

/-- Whether an f32 encoding has sign 0 and is no NaN. -/
def nonNegative (code : Nat) : Bool := !bit code 31 && !(f32.decode code).isNan

/-- Whether a scale slot that covers `n` entries is non-negative (R86). -/
def Ctx.scaleNN (x : Ctx) (f : Factor) (n : Nat) : Bool :=
  let q := x.fv.getD f.fv .zero
  match q.state, f.xf with
  | .void, _ => false
  | _, .exp2 | _, .exp2neg => true
  | _, .neg => false
  | .pending, _ => q.nn
  | .ready, _ => (q.entries.take n).all fun e => nonNegative (e.toNat % 2 ^ 32)

/-! ## Resolve (R81) -/

/-- A cell of a tile resolved, at row i and column j. -/
def Ctx.resolveCell (x : Ctx) (t : Tile) (i j : Nat) (c : Cell) : Cell :=
  let v := match t.fmt with
    | .i32 => rne (t.fmt.value c)
    | f => f.value c
  let shift (v : Fl) (f : Option Factor) (k : Nat) : Fl := match f with
    | some f => rne (v.add (x.factorAt f k))
    | none => v
  let scale (v : Fl) (f : Option Factor) (k : Nat) : Fl := match f with
    | some f => rne (v.mul (x.factorAt f k))
    | none => v
  let v := scale (scale (shift (shift v t.beta i) t.gamma j) t.rho i) t.kappa j
  let v := match t.sigma with
    | some c => rne (v.mul (cellFl c))
    | none => v
  if t.occupied then t.fmt.cell false v else t.fmt.held c

/-- Row i of a tile resolved. -/
def Ctx.resolveRow (x : Ctx) (t : Tile) (i : Nat) : List Cell :=
  ((upFrom 0 t.n).zip (x.tileRow t i)).map fun p => x.resolveCell t i p.1 p.2

/-- A whole tile resolved in place. -/
def Ctx.resolveTile (x : Ctx) (t : Tile) : Ctx :=
  (upFrom 0 t.rows).foldl (fun y i => y.setTileRow t i (y.resolveRow t i)) x

/-! ## Waiting for vectors (R89, R94) -/

/-- The FACTOR_VOID of a vector named by a descriptor (R314). -/
def tileVoid {α : Type} (tl fv : Nat) : Except Stop α := .error (.raise (trap5 .factorVoid 0 (fv * 256 + tl)))

/-- Waits for vectors: a void one faults with the address given for it, the first of several in the order of the list (DESIGN
CHOICE, log 105) and at once, though another may be pending (DESIGN CHOICE, log 113); while one is pending the bundle blocks; a
write of the vector unit that is outstanding stalls. -/
def awaitVectors (m : Mach) (fvs : List (Nat × Nat)) : Except Stop Unit :=
  let st (i : Nat) : FvState := m.fvState m.issue.core m.issue.ctx i
  match fvs.find? fun p => st p.1 == .void with
  | some p => .error (.raise (trap5 .factorVoid 0 p.2))
  | none =>
    if fvs.any fun p => st p.1 == .pending then
      .error (.block (.factor (fvs.map (·.1))))
    else if fvs.any fun p => m.me.outstanding (.ref .fv p.1) then .error .stall
    else .ok ()

/-- The vectors a tile's slots name, with what FACTOR_VOID reports of them. -/
def TileRef.vectors (r : TileRef) : List (Nat × Nat) := r.tile.factors.map fun f => (f.fv, f.fv * 256 + r.index)

/-- A forced resolve's part at issue (R89, R259): the wait, the BREAK under trapping, the count, and the slots emptied. -/
def forcedResolve (m : Mach) (tiles : List TileRef) : Except Stop Mach := do
  let _ ← awaitVectors m (tiles.flatMap (·.vectors))
  let occ := tiles.filter (·.tile.occupied)
  if !occ.isEmpty && (m.part m.myPart).frTrap && !m.me.passForced then
    .error (.raise ⟨.brk, 1, 0, 5, true, false⟩)
  else
    .ok (m.onMe fun x =>
      { x.countForced occ.length with tl := occ.foldl (fun tl r => modifyAt Tile.bare r.index tl) x.tl })

/-! ## Contributions (R50, R85) -/

/-- What became of a contribution. -/
inductive FvFate where
  | combined | discarded | voided | mismatch
  deriving DecidableEq, Repr

/-- The identity of a combine operator, as C40 (R85). -/
def FvOp.identity : FvOp → BitVec 40
  | .add => toC40 .negZero
  | .max => toC40 (.inf true)
  | .min => toC40 (.inf false)

/-- Combines two C40 entries. -/
def FvOp.combine : FvOp → BitVec 40 → BitVec 40 → BitVec 40
  | .add => c40Add
  | .max => c40Max
  | .min => c40Min

/-- Whether a value breaks NN: below zero, −inf included. -/
def breaksNN (e : BitVec 40) : Bool := (c40.decode e.toNat).lt .zero

/-- A vector with every entry rounded once to f32: ready (R85). -/
def FactorVec.makeReady (q : FactorVec) : FactorVec :=
  { q with state := .ready, nn := false, op := .add, remain := 0, vcause := 0,
           entries := q.entries.map fun e => BitVec.ofNat 40 (f32.encode false (c40.decode e.toNat)) }

/-- A vector made void. -/
def FactorVec.makeVoid (q : FactorVec) (cause : Nat) : FactorVec :=
  { q with state := .void, nn := false, op := .add, remain := 0, vcause := cause }

/-- Combines a contribution with a vector (R50, R85); `op` is the operator it must meet. -/
def FactorVec.contribute (q : FactorVec) (op : Option FvOp) (values : List (BitVec 40)) : FactorVec × FvFate :=
  if q.state ≠ .pending then (q, .discarded)
  else if op.isSome && op != some q.op then (q, .mismatch)
  else if q.nn && values.any breaksNN then (q.makeVoid 2, .voided)
  else
    let head := ((q.entries.take values.length).zip values).map fun p => q.op.combine p.1 p.2
    let q := { q with entries := head ++ q.entries.drop values.length, remain := q.remain - 1 }
    (if q.remain = 0 then q.makeReady else q, .combined)

/-- A contribution reaches vector i of a context: FV_EXTRA where it meets a ready one (R50). -/
def Ctx.contribute (x : Ctx) (i : Nat) (op : Option FvOp) (values : List (BitVec 40)) : Ctx × FvFate :=
  let q := x.fv.getD i .zero
  let r := q.contribute op values
  let x := { x with fv := modifyAt (fun _ => r.1) i x.fv }
  (if q.state = .ready then x.raiseCsw cswFvExtra else x, r.2)

/-! ## Memory operands (R201, R215) -/

/-- A memory operand: the address of its first byte, its ring slot where it lies in one. -/
structure MemRef where
  base : Nat
  ring : Option (Ring × Nat)

/-- The ring operand of a trigger: an unbound handle raises ILLMOVE, a size beyond the slot ALIGN, another slot state than
the one needed blocks. -/
def ringOperand (m : Mach) (i size : Nat) (take : Bool) : Except Stop MemRef :=
  match m.myRing i with
  | none => illOperand
  | some r =>
    let slot := if take then r.tail else r.head
    if r.slot < size then alignFault (r.slotAddr slot)
    else
      let w := if take then Wait.ringFull r.base else Wait.ringFree r.base
      if r.slotState slot ≠ (if take then .full else .free) ∨ m.myCore.earlierWaiter m.issue.ctx w then .error (.block w)
      else .ok ⟨r.slotAddr slot, some (r, slot)⟩

/-- The memory operand that a latch holds. -/
def memOperand (m : Mach) (v : Val) (size : Nat) (take : Bool) : Except Stop MemRef :=
  match v with
  | .ref _ i => ringOperand m i size take
  | .word w => .ok ⟨w.toNat, none⟩

/-- Translates the pieces of an engine operand, each segment with its page's entry: no host window, within one window and one
vault (R100). -/
def enginePages (m : Mach) (store : Bool) (lo size : Nat) (pieces : List (Nat × Nat)) :
    Except Stop (List (List (Seg × Word))) :=
  let c := m.issue.core
  match windowOf lo with
  | .host | .code | .unassigned => xlate 3 lo
  | _ =>
    match checkRange (partOf c) lo size with
    | .error e => .error e
    | .ok _ => pieces.mapM fun p => rangePages m c (partOf c) m.me.priv store p.1 p.2

/-- The reservation and the slot transition of a vault command (R107, R201, R215): a taken slot is given, a claimed one
becomes full once the command's bytes have performed. -/
def useRing (m : Mach) (id : Nat) (r : MemRef) (take : Bool) : Except Stop Mach :=
  match r.ring with
  | none => .ok m
  | some (ring, slot) => do
    let m ← reserveBanks m id ring
    let m := m.onMyCore (·.onRing ring.base fun q =>
      if take then q.take.setSlot slot fun s => { s with given := true }
      else (q.claim false).setSlot slot fun s => { s with fillBy := some (m.issue.ctx, 0) })
    .ok (m.useSlot m.issue.core (some (ring.base, slot)))

/-- The ring slot of an operand, as a command keeps it. -/
def MemRef.slot (r : MemRef) : Option (Nat × Nat) := r.ring.map fun p => (p.1.base, p.2)

/-- Whether a store of the context older than `mark` to one of the keys has still to perform (R114). -/
def Ctx.olderStore (x : Ctx) (mark : Nat) (keys : Nat → Bool) : Bool :=
  (x.pend ++ x.buffer).any fun e => e.seq ≤ mark && e.keys.any keys

end Sys2Proof.Machine
end

