-- ==== Sys2Proof/Machine/Product.lean ====
section
/-!
DEFINITION. The products of the matrix array (spec/10_ops_tile_matrix.md R198-R206; spec/03_numbers.md R66, R67):
formats and rates, the cells of a row of C, and what an access sees of a row that is not written yet.
-/

namespace Sys2Proof.Machine

/-! ## Formats and rates (R198, R199) -/

/-- The bytes of a row of A: dense, or 2:4 compressed. -/
def MxFmt.rowBytes (f : MxFmt) (sparse : Bool) : Nat :=
  let dense := match f with
    | .s4 => 176
    | .bf | .h => 512
    | _ => 256
  if sparse then dense / 2 else dense

/-- The bytes of B. -/
def MxFmt.bBytes : MxFmt → Nat
  | .s4 => 45056
  | .bf | .h => 131072
  | _ => 65536

/-- Q, the cycles per row, as a fraction. -/
def MxFmt.rate (f : MxFmt) (sparse : Bool) : Nat × Nat :=
  let q := match f with
    | .s4 => (1, 2)
    | .bf | .h => (4, 1)
    | _ => (1, 1)
  if sparse then (q.1, 2 * q.2) else q

/-- Whether a form is an integer one. -/
def MxFmt.isInt : MxFmt → Bool
  | .i8 => true
  | _ => false

/-- Whether a B record of a format suits a form (R198). -/
def MxFmt.takes : MxFmt → MxFmt → Bool
  | .e4, .e5 | .e5, .e4 => true
  | f, g => f == g

/-- The floating format of an element. -/
def MxFmt.float : MxFmt → FloatFmt
  | .e4 => e4m3
  | .e5 => e5m2
  | .bf => bf16
  | _ => f16

/-- The values of a run of elements other than S4: integers exactly. -/
def MxFmt.values (f : MxFmt) (bs : List Byte) : List Fl :=
  match f with
  | .i8 => bs.map fun b => Fl.ofInt b.toInt
  | .bf | .h => (chunks 2 256 bs).map fun b => f.float.decode (natLE b)
  | _ => bs.map fun b => f.float.decode b.toNat

/-! ## Commands and their timing (R204) -/

/-- Command `id` of a core. -/
def Core.mxCmd (co : Core) (id : Nat) : Option MxCmd := co.mx.find? (·.id == id)

/-- Replaces a command. -/
def Mach.setMx (m : Mach) (c : Nat) (q : MxCmd) : Mach :=
  m.onCore c fun co => { co with mx := co.mx.map fun r => if r.id = q.id then q else r }

/-- A command is gone. -/
def Mach.dropMx (m : Mach) (c id : Nat) : Mach := m.onCore c fun co => { co with mx := co.mx.filter (·.id != id) }

/-- P, the cycles that the A stream occupies the array. -/
def MxCmd.occupancy (q : MxCmd) : Nat :=
  let (n, d) := q.fmt.rate q.sparse
  ceilDiv (q.tile.tile.rows * n) d

/-- The cycle in which row m of C is written. -/
def MxCmd.rowAt (q : MxCmd) (r : Nat) : Nat :=
  let (n, d) := q.fmt.rate q.sparse
  q.start + 280 + r * n / d

/-- Whether a stream has launched. -/
def MxCmd.launched (q : MxCmd) : Bool := q.state == .streaming || q.state == .writing

/-- Whether the A stream of a command is over. -/
def MxCmd.streamed (q : MxCmd) (now : Nat) : Bool := q.launched && q.start + q.occupancy ≤ now

/-! ## Products (R66, R67, R200, R202) -/

/-- A compressed row spread out by its metadata, and whether a group breaks i0 < i1. -/
def spread (vals : List Fl) (md : List Byte) : List Fl × Bool :=
  let groups := (upFrom 0 64).map fun g =>
    let code := field (md.getD (g / 2) 0).toNat (if g % 2 = 0 then 3 else 7) (if g % 2 = 0 then 0 else 4)
    let i0 := code % 4
    let i1 := code / 4
    if i1 ≤ i0 then (List.replicate 4 Fl.zero, true)
    else
      ((upFrom 0 4).map fun p => if p = i0 then vals.getD (2 * g) .zero else if p = i1 then vals.getD (2 * g + 1) .zero
        else .zero, false)
  (groups.flatMap (·.1), groups.any (·.2))

/-- The 256 values of row i of A, with the bits of CSW it sets: ESC_OVR, SPARSE_META. -/
def MxCmd.aRow (q : MxCmd) (i : Nat) : List Fl × Bool × Bool :=
  let (vals, miss) :=
    if q.fmt = .s4 then
      if q.sparse then
        let sb := superblockOf ((q.aData.drop (176 * (i / 2))).take 176)
        if i % 2 = 0 then decodeFrom sb (bf16.decode sb.s) 0 0 (sb.codes.take 128)
        else
          let all := sb.decode
          (all.1.drop 128, all.2)
      else (superblockOf ((q.aData.drop (176 * i)).take 176)).decode
    else
      let n := q.fmt.rowBytes q.sparse
      (q.fmt.values ((q.aData.drop (n * i)).take n), false)
  if q.sparse then
    let (row, bad) := spread vals ((q.metaData.drop (32 * i)).take 32)
    (row, miss, bad)
  else (vals, miss, false)

/-- The values of column n of B, and whether an escape passes the count. -/
def MxCmd.bColumn (q : MxCmd) (n : Nat) : List Fl × Bool :=
  if q.bFmt = .s4 then (superblockOf ((q.bData.drop (176 * n)).take 176)).decode
  else
    let size := if q.bFmt = .bf ∨ q.bFmt = .h then 512 else 256
    (q.bFmt.values ((q.bData.drop (size * n)).take size), false)

/-- The scale that every product of element (i, j) carries: sa × sb, and in the third case of R91 the factors. -/
def MxCmd.scaleAt (q : MxCmd) (i j : Nat) : Fl :=
  let one := Fl.ofInt 1
  let get (l : List Cell) (k : Nat) : Fl := (l[k]?).elim one cellFl
  (((q.sca.elim one cellFl).mul (q.scb.elim one cellFl)).mul (get q.rowF i)).mul (get q.colF j)

/-- The cell of C that an element gets, and whether it overflowed from finite operands. -/
def MxCmd.cell (q : MxCmd) (i j : Nat) (a b : List Fl) (c : Cell) : Cell × Bool :=
  let pairs := a.zip b
  if q.fmt.isInt then
    let sum := (pairs.map fun p => (p.1.mul p.2).toInt false).foldl (· + ·) 0
    ((if q.accum then c else 0) + BitVec.ofInt 32 sum, false)
  else
    let k := q.scaleAt i j
    let prods := pairs.map fun p => (k.mul p.1).mul p.2
    let c0 := if q.accum then cellFl c else .zero
    let r := flCell (c0.add (sumAll prods))
    (r, Fmt.f32.isInf r && c0.isFinite && prods.all (·.isFinite))

/-- Row i of C: the cells, and what it sets: RAW_OVF, ESC_OVR, SPARSE_META. -/
def MxCmd.product (q : MxCmd) (x : Ctx) (i : Nat) : List Cell × Bool × Bool × Bool :=
  let t := q.tile.tile
  let (a, miss, bad) := q.aRow i
  let old := x.tileRow t i
  let cols := (upFrom 0 t.n).map fun j => q.bColumn (4 * t.col0 + j)
  let cells := ((upFrom 0 t.n).zip (cols.zip old)).map fun p => q.cell i p.1 a p.2.1.1 p.2.2
  (cells.map (·.1), cells.any (·.2), miss || cols.any (·.2), bad)

/-! ## When operands can be read (R114) -/

/-- Whether a command's memory rows are written rather than read. -/
def TfOp.stores : TfOp → Bool
  | .tst | .tstr | .tquant | .fvst => true
  | _ => false

/-- Whether a command's operands can be read: older stores of the context, and older engine stores, have performed (R114). -/
def Mach.operandsFree (m : Mach) (c : Nat) (q : MxCmd) : Bool :=
  !(m.ctx c q.ctx).olderStore q.mark (fun key => inSegs q.segs key || inSegs q.metaSegs key)
    && !((m.core c).tf.any fun r => r.id < q.id && r.op.stores
      && (r.rows.flatten ++ r.side.map fun (p : Nat × Byte) => (p.1, 1)).any fun (p : Nat × Nat) =>
        (q.segs ++ q.metaSegs).any fun (g : Nat × Nat) => g.1 < p.1 + p.2 && p.1 < g.1 + g.2)

/-- A forced resolve of C (R91): its rows, from the vectors as they stood at issue. -/
def Ctx.resolveNoted (x : Ctx) (r : TileRef) (fvs : List FactorVec) : Ctx :=
  let y : Ctx := { x with fv := fvs }
  (upFrom 0 r.tile.rows).foldl (fun z i => z.setTileRow r.tile i (y.resolveRow r.tile i)) x

/-! ## Rows that are not written yet (R206) -/

/-- Whether row r of the accumulators is still to be written by a command, and not in this cycle, in which a tf row step comes
first (R210). -/
def MxCmd.unwritten (q : MxCmd) (now r : Nat) : Bool :=
  let i := r - q.tile.tile.row0
  q.tile.tile.row0 ≤ r && q.row ≤ i && i < q.tile.tile.rows && (!q.launched || now < q.rowAt i)

/-- A command with the operands that its stream takes (R202): one that has not launched takes them as memory and its buffer
stand, the latest earlier bload's bytes where that is not complete. None while an older store to them is still to perform. -/
def Mach.withOperands (mem : Memory) (m : Mach) (c : Nat) (q : MxCmd) : Option MxCmd :=
  if q.launched then some q
  else
    let co := m.core c
    let feed : Option MxCmd := (co.mx.filter fun r => r.bload && r.buf == q.buf && r.id < q.id).getLast?
    let b := match feed with
      | some r => (r.fmt, if r.state == MxState.writing then r.bData else peekAll mem m (segKeys r.segs))
      | none => let b := co.bufs.getD q.buf ⟨none, .s4, []⟩; (b.fmt, b.data)
    let free := m.operandsFree c q && match feed with
      | some r => r.state == MxState.writing || m.operandsFree c r
      | none => true
    if free then
      some { q with aData := peekAll mem m (segKeys q.segs), metaData := peekAll mem m (segKeys q.metaSegs),
                    bFmt := b.1, bData := b.2 }
    else none

/-- Row r of the accumulators as a command writes it. -/
def MxCmd.newRow (q : MxCmd) (x : Ctx) (r : Nat) : Ctx :=
  let x := match q.launched, q.resolve with
    | false, some t => x.resolveNoted t q.fvs
    | _, _ => x
  let i := r - q.tile.tile.row0
  x.setTileRow q.tile.tile i (q.product x i).1

/-- The values that row r goes through from a context on, as commands that have not written it write it one after another. -/
def rowValues (mem : Memory) (m : Mach) (c r : Nat) : Ctx → List MxCmd → List (List Cell)
  | x, [] => [x.acc.getD r []]
  | x, q :: rest =>
    if q.unwritten m.cycle r then
      x.acc.getD r [] :: match m.withOperands mem c q with
        | some q => rowValues mem m c r (q.newRow x r) rest
        | none => []
    else rowValues mem m c r x rest

/-- A row each of whose cells is one of its old and new values, and which is not defined (R206, log 4). -/
def anyOf (fresh : Nat) (values : List (List Cell)) : List Cell :=
  let old := values.headD []
  (upFrom 0 old.length).map fun j =>
    (values.getD ((Config.freeWord (fresh + j)).toNat % values.length) old).getD j 0

/-- A context as an access to rows `rows` of the accumulators sees it (R92, R206). -/
def Mach.seenCtx (mem : Memory) (m : Mach) (c k : Nat) (rows : List Nat) : Ctx × Mach :=
  let cmds := (m.core c).mx.filter fun q => q.ctx == k && !q.bload
  let x := m.ctx c k
  if cmds.isEmpty then (x, m)
  else
    let rows := rows.eraseDups
    let see (x' : Ctx) (p : Nat × Nat) : Ctx :=
      let row := anyOf (m.fresh + 256 * p.2) (rowValues mem m c p.1 x cmds)
      { x' with acc := modifyAt (fun _ => row) p.1 x'.acc }
    ((rows.zip (upFrom 0 rows.length)).foldl see x, { m with fresh := m.fresh + 256 * rows.length })

end Sys2Proof.Machine
end

