-- ==== Sys2Proof/Machine/Tf.lean ====
section
/-!
DEFINITION. The tile-and-factor unit (spec/10_ops_tile_matrix.md R208-R218; spec/04_pending_factors.md R80-R96): the tile
control word, the frame of its triggers, commuting and forced resolves, the row streams of its commands, reductions, loads
and stores of tiles, and operations on factor vectors.
-/

namespace Sys2Proof.Machine

/-! ## The tile control word (R208) -/

/-- ARG. -/
def tcArg (t : Word) : Nat := bits t 63 32
/-- The count n of fvset and fvexp. -/
def tcCount (t : Word) : Nat := bits t 47 32
/-- STRIDE. -/
def tcStride (t : Word) : Nat := bits t 31 12
/-- SUB. -/
def tcSub (t : Word) : Nat := bits t 11 8
/-- GUARD. -/
def tcGuard (t : Word) : Bool := bits t 7 7 == 1
/-- DELAY. -/
def tcDelay (t : Word) : Bool := bits t 6 6 == 1
/-- SAT. -/
def tcSat (t : Word) : Bool := bits t 5 5 == 1
/-- NN. -/
def tcNn (t : Word) : Bool := bits t 4 4 == 1
/-- CONTRIB. -/
def tcContrib (t : Word) : Bool := bits t 3 3 == 1
/-- MXW. -/
def tcMxw (t : Word) : Bool := bits t 2 2 == 1

/-- Whether a trigger accepts its control word's fields. -/
def TfOp.ctlOk (op : TfOp) (t : Word) : Bool :=
  match op with
  | .tquant => tcSub t < 7 && !(tcDelay t && 5 ≤ tcSub t) && (!tcGuard t || tcDelay t)
  | .tdq => tcSub t < 7
  | .fvset => tcSub t < 3
  | _ => true

/-! ## Latches (R209) -/

/-- A tile operand. -/
def isTile : Val → Bool := Val.isRef .tl
/-- A memory operand: an address or a ring. -/
def isMem (v : Val) : Bool := v.isWord || v.isRef .cb
/-- A factor operand: a word or a vector. -/
def isFactor (v : Val) : Bool := v.isWord || v.isRef .fv

/-- The latches a trigger uses and what each may hold. -/
def TfOp.latches : TfOp → List (Latch × (Val → Bool))
  | .tzero => [(.tfD, isTile)]
  | .tcopy | .tcvt | .texp | .texpw | .ttrans => [(.tfA, isTile), (.tfD, isTile)]
  | .tadd | .tsub | .tmul | .tmax | .tmin => [(.tfA, isTile), (.tfB, isTile), (.tfD, isTile)]
  | .tsmul => [(.tfA, isTile), (.tfB, Val.isWord)]
  | .tscr | .tscc | .tshr | .tshc | .tdrop => [(.tfA, isTile), (.tfF, isFactor)]
  | .trmax | .trsum | .tcmax | .tcsum | .trmaxr | .trsumr => [(.tfA, isTile), (.tfD, Val.isRef .fv)]
  | .resolve => [(.tfA, isTile)]
  | .tld | .tdq => [(.tfB, isMem), (.tfD, isTile)]
  | .tst | .tstr | .tquant => [(.tfA, isTile), (.tfB, isMem)]
  | .fvexp | .fvset => [(.tfD, Val.isRef .fv)]
  | .fvst => [(.tfA, Val.isRef .fv), (.tfB, Val.isWord)]

/-- The factor operand word a latch holds (R84): a vector reference is FV = k with XF = id; for tf.tdrop its SLOT is 0 (DESIGN
CHOICE, log 104). -/
def factorWord : Val → Word
  | .word w => w
  | .ref _ i => word i

/-- The factor a factor operand word names. -/
def factorOf (w : Word) : Factor := ⟨bits w 5 0, xfOf (bits w 8 6)⟩

/-- Whether a factor operand word has a field that no trigger accepts, or a SLOT that tdrop does not (R84). -/
def badFactor (drop : Bool) (v : Val) : Bool :=
  let w := factorWord v
  5 ≤ bits w 8 6 || (drop && 5 ≤ bits w 11 9)

/-- What a trigger's latches named: tiles as they stand, the vector of d, and the other values. -/
structure TfArgs where
  a : TileRef
  b : TileRef
  d : TileRef
  fv : Nat
  mem : Val
  f : Word
  c : Word

/-- The tile a latch value names. -/
def Ctx.tileRef (x : Ctx) (v : Val) : TileRef := ⟨v.idx, x.tl.getD v.idx .unset⟩

/-- The value taken from a latch, in the list of what a trigger took. -/
def taken (ls : List (Latch × (Val → Bool))) (vals : List Val) (l : Latch) : Val :=
  (((ls.map (·.1)).zip vals).find? fun p => p.1 == l).elim (.word 0) (·.2)

/-- The operands of a trigger by name. -/
def tfArgs (x : Ctx) (op : TfOp) (vals : List Val) : TfArgs :=
  let at_ := taken op.latches vals
  ⟨x.tileRef (at_ .tfA), x.tileRef (at_ .tfB), x.tileRef (at_ .tfD),
    match op with
    | .trmax | .trsum | .tcmax | .tcsum | .trmaxr | .trsumr | .fvexp | .fvset => (at_ .tfD).idx
    | .fvst => (at_ .tfA).idx
    | _ => 64,
    at_ .tfB, factorWord (at_ .tfF), (at_ .tfB).w⟩

/-! ## Geometry and formats (R211, R215, R216) -/

/-- Equal rows and columns. -/
def sameShape (a b : Tile) : Bool := a.rows == b.rows && a.ccnt == b.ccnt

/-- An INT32 tile. -/
def Tile.isInt (t : Tile) : Bool := t.fmt == .i32

/-- Whether the tiles a trigger names suit it. -/
def TfOp.suits (op : TfOp) (t : Word) (a b d : Tile) : Bool :=
  match op with
  | .tcopy => sameShape a d && a.fmt == d.fmt
  | .tcvt => sameShape a d
  | .tadd | .tsub | .tmul | .tmax | .tmin =>
    sameShape a d && sameShape b d && a.isInt == d.isInt && b.isInt == d.isInt
  | .texp | .texpw => sameShape a d && !a.isInt && !d.isInt
  | .ttrans => d.rows == a.n && d.n == a.rows && a.fmt == d.fmt
  | .tquant => !a.isInt && (5 ≤ tcSub t || a.n == 256)
  | .tdq => !d.isInt && (5 ≤ tcSub t || d.n == 256)
  | _ => true

/-! ## Commuting (R88) -/

/-- A σ that does not spoil an order: empty or non-negative. -/
def sigmaNN : Option Cell → Bool
  | none => true
  | some c => nonNegative c.toNat

/-- A scale slot that does not spoil an order: empty or non-negative over `n` entries. -/
def Ctx.slotNN (x : Ctx) (f : Option Factor) (n : Nat) : Bool :=
  match f with
  | none => true
  | some f => x.scaleNN f n

/-- The product of two σ. -/
def sigmaMul : Option Cell → Option Cell → Option Cell
  | none, b => b
  | a, none => a
  | some a, some b => some (flCell ((cellFl a).mul (cellFl b)))

/-- The destination with the slots a commuting operation leaves, none where the operation does not commute. -/
def Ctx.commute (x : Ctx) (op : TfOp) (a b d : Tile) : Option Tile :=
  match op with
  | .tzero | .tld | .tdq => some d.bare
  | .tcopy | .tcvt => some (d.slotsOf a)
  | .ttrans => some (d.withSlots a.sigma a.kappa a.rho a.gamma a.beta)
  | .tadd | .tsub =>
    let t := if op = .tsub then Xf.neg else Xf.id
    if a.sigma == b.sigma && a.rho == b.rho && a.kappa == b.kappa && !(a.beta.isSome && b.beta.isSome)
        && !(a.gamma.isSome && b.gamma.isSome) then
      match overSlot t b.beta, overSlot t b.gamma with
      | some bb, some bg => some (d.withSlots a.sigma a.rho a.kappa (a.beta.or bb) (a.gamma.or bg))
      | _, _ => none
    else none
  | .tmul =>
    if a.beta.isNone && a.gamma.isNone && b.beta.isNone && b.gamma.isNone && !(a.rho.isSome && b.rho.isSome)
        && !(a.kappa.isSome && b.kappa.isSome) then
      some (d.withSlots (sigmaMul a.sigma b.sigma) (a.rho.or b.rho) (a.kappa.or b.kappa) none none)
    else none
  | .tmax | .tmin =>
    if a.sigma == b.sigma && sigmaNN a.sigma && a.rho == b.rho && a.kappa == b.kappa && x.slotNN a.rho a.rows
        && x.slotNN a.kappa a.n && a.beta == b.beta && a.gamma == b.gamma then
      some (d.slotsOf a)
    else none
  | .texp =>
    if a.sigma.isNone && a.rho.isNone && a.kappa.isNone then
      match overSlot .exp2 a.beta, overSlot .exp2 a.gamma with
      | some r, some k => some (d.withSlots none r k none none)
      | _, _ => none
    else none
  | .texpw => if a.occupied then none else some d.bare
  | _ => if a.occupied then none else some d

/-- A slot operation's new tile, none where it does not commute (R88, R95). -/
def slotCommute (op : TfOp) (a : Tile) (f : Word) (c : Word) : Option Tile :=
  let fac := some (factorOf f)
  let free := a.sigma.isNone && a.rho.isNone && a.kappa.isNone
  match op with
  | .tsmul => some { a with sigma := sigmaMul a.sigma (some (c.setWidth 32)) }
  | .tscr => if a.rho.isNone then some { a with rho := fac } else none
  | .tscc => if a.kappa.isNone then some { a with kappa := fac } else none
  | .tshr => if free && a.beta.isNone then some { a with beta := fac } else none
  | .tshc => if free && a.gamma.isNone then some { a with gamma := fac } else none
  | _ => some (match bits f 11 9 with
    | 0 => { a with sigma := none }
    | 1 => { a with rho := none }
    | 2 => { a with kappa := none }
    | 3 => { a with beta := none }
    | _ => { a with gamma := none })

/-! ## Cells of a row (R211) -/

/-- A cell of an operation on two cells. -/
def cellOp (op : TfOp) (sat : Bool) (a b d : Fmt) (p q : Cell) : Cell :=
  let ints (f : Int → Int → Int) : Cell :=
    let v := f p.toInt q.toInt
    BitVec.ofInt 32 (if sat then satInt (-2147483648) 2147483647 v else v)
  let va := a.value p
  let vb := b.value q
  if d = .i32 then
    match op with
    | .tadd => ints (· + ·)
    | .tsub => ints (· - ·)
    | .tmul => ints (· * ·)
    | .tmax => if p.toInt ≤ q.toInt then q else p
    | _ => if p.toInt ≤ q.toInt then p else q
  else match op with
    | .tadd => d.cell sat (va.add vb)
    | .tsub => d.cell sat (va.add vb.neg)
    | .tmul => d.cell sat (va.mul vb)
    | .tmax => d.cell false (va.max vb)
    | _ => d.cell false (va.min vb)

/-- A cell of an operation on one cell. -/
def cellOp1 (op : TfOp) (sat : Bool) (a d : Fmt) (p : Cell) : Cell :=
  match op with
  | .tzero => 0
  | .tcopy => a.held p
  | .tcvt => if a = .i32 ∧ d = .i32 then p else d.cell sat (a.value p)
  | _ => d.cell sat (fexp2 (a.value p))

/-- The cells of row r of d, and whether one overflowed from finite operands (R93). -/
def TfCmd.row (q : TfCmd) (x : Ctx) (r : Nat) : List Cell × Bool :=
  let sat := tcSat q.ctl
  match q.a, q.b, q.d with
  | some a, some b, some d =>
    let ps := (x.tileRow a.tile r).zip (x.tileRow b.tile r)
    let out := ps.map fun p => cellOp q.op sat a.tile.fmt b.tile.fmt d.tile.fmt p.1 p.2
    (out, (ps.zip out).any fun p => d.tile.fmt.isInf p.2 && (a.tile.fmt.value p.1.1).isFinite
      && (b.tile.fmt.value p.1.2).isFinite)
  | some a, none, some d =>
    let ps := x.tileRow a.tile r
    let out := ps.map (cellOp1 q.op sat a.tile.fmt d.tile.fmt)
    (out, (ps.zip out).any fun p => d.tile.fmt.isInf p.2 && (a.tile.fmt.value p.1).isFinite)
  | some a, none, none => (x.resolveRow a.tile r, false)
  | _, _, some d => (List.replicate d.tile.n 0, false)
  | _, _, none => ([], false)

/-! ## Reductions (R213) -/

/-- The columns of rows. -/
def transpose (n : Nat) (rows : List (List Cell)) : List (List Cell) :=
  (upFrom 0 n).map fun j => rows.map fun row => row.getD j 0

/-- The sum of cells, rounded once to f32. -/
def sumCells (f : Fmt) (l : List Cell) : Fl :=
  match f with
  | .i32 => rne (Fl.ofInt ((l.map BitVec.toInt).foldl (· + ·) 0))
  | f => rne (sumAll (l.map f.value))

/-- The maximum of cells, rounded once to f32. -/
def maxCells (f : Fmt) : List Cell → Fl
  | [] => .inf true
  | c :: rest =>
    match f with
    | .i32 => rne (Fl.ofInt (rest.foldl (fun a b => max a b.toInt) c.toInt))
    | f => rest.foldl (fun a b => a.max (f.value b)) (f.value c)

/-- A reduction by columns. -/
def TfOp.byColumn : TfOp → Bool
  | .tcsum | .tcmax => true
  | _ => false

/-- A reduction by sums. -/
def TfOp.sums : TfOp → Bool
  | .trsum | .tcsum | .trsumr => true
  | _ => false

/-- The values of a reduction over the rows it has read. -/
def TfCmd.reduced (q : TfCmd) : List Fl :=
  match q.a with
  | none => []
  | some a =>
    let lines := if q.op.byColumn then transpose a.tile.n q.seen else q.seen
    lines.map (if q.op.sums then sumCells a.tile.fmt else maxCells a.tile.fmt)

/-! ## Memory rows (R215, R216) -/

/-- The format in memory: bits of an element of a tile row. -/
def rowFormat (op : TfOp) (t : Word) (tile : Tile) : Nat × Nat :=
  match op with
  | .tquant | .tdq => if tcSub t < 5 then (176, 16) else (tile.n, 1)
  | _ => if tile.fmt = .f16 ∨ tile.fmt = .bf16 then (2 * tile.n, 2) else (4 * tile.n, 4)

/-- The bytes of a stored row. -/
def storeRow (f : Fmt) (cells : List Cell) : List Byte :=
  cells.flatMap fun c => bytesLE (if f = .f16 ∨ f = .bf16 then 2 else 4) c.toNat

/-- The cells of a loaded row. -/
def loadRow (f : Fmt) (bs : List Byte) : List Cell :=
  (chunks (if f = .f16 ∨ f = .bf16 then 2 else 4) 256 bs).map fun b => BitVec.ofNat 32 (natLE b)

/-- The 8-bit format of SUB 5 and 6. -/
def format8 (t : Word) : FloatFmt := if tcSub t = 5 then e4m3 else e5m2

/-- A dequantised row, and whether an escape passes the count (R216). -/
def dequantRow (t : Word) (f : Fmt) (bs : List Byte) : List Cell × Bool :=
  if tcSub t < 5 then
    let (vs, miss) := (superblockOf bs).decode
    (vs.map (f.cell false), miss)
  else (bs.map fun b => f.cell false ((format8 t).decode b.toNat), false)

/-- A quantised row: its bytes, and for S4 what the quantisation reports (R216). -/
def quantRow (t : Word) (f : Fmt) (cells : List Cell) (old : List Byte) : List Byte × Option Quantised :=
  if tcSub t < 5 then
    let xs := cells.map fun c => f32.encode false (f.value c)
    let carried := superblockOf old
    let q := if tcDelay t then quantiseDelayed (tcArg t) (tcGuard t) carried.s carried.bsc xs
      else quantise (tcArg t) (if tcSub t = 4 then none else some (tcSub t)) xs
    (q.block.bytes, some q)
  else (cells.map fun c => BitVec.ofNat 8 ((format8 t).encode true (f.value c)), none)

/-- A slot as the sidecar holds it (R96). -/
def sideSlot : Option Factor → Nat
  | none => 0
  | some f => 2 ^ 15 + f.xf.code * 2 ^ 12 + f.fv

/-- The sidecar of a tile (R96). -/
def sidecar (x : Ctx) (t : Tile) : List Word :=
  let state (f : Option Factor) : Word := match f with
    | some f => (x.fv.getD f.fv .zero).word
    | none => 0
  let sigma : Word := match t.sigma with
    | some c => word (c.toNat * 2 ^ 32 + 1)
    | none => 0
  let slots : Word :=
    word (sideSlot t.gamma * 2 ^ 48 + sideSlot t.beta * 2 ^ 32 + sideSlot t.kappa * 2 ^ 16 + sideSlot t.rho)
  [t.word, sigma, slots, state t.rho, state t.kappa, state t.beta, state t.gamma, 0]

/-! ## Commands of the unit (R210) -/

/-- The steps of a command's own stream. -/
def TfCmd.steps (q : TfCmd) : Nat :=
  let rows (r : Option TileRef) : Nat := (r.map fun r => r.tile.rows).getD 0
  match q.op with
  | .tsmul | .tscr | .tscc | .tshr | .tshc | .tdrop | .fvset | .fvexp | .fvst => 0
  | .ttrans => rows q.a + rows q.d
  | .tzero | .tld | .tdq => rows q.d
  | _ => rows q.a

/-- The cycles from the start of the present stream to its first row. -/
def TfCmd.lead (q : TfCmd) : Nat :=
  if q.phase < q.resolves.length then 8
  else match q.op with
    | .tld | .tdq => 0
    | _ => 8

/-- The cycles from a stream without rows to E. -/
def TfCmd.short (q : TfCmd) : Nat :=
  match q.op with
  | .fvset | .fvexp => 1
  | .fvst => 24
  | _ => 0

/-- Command `id` of a core. -/
def Core.tfCmd (co : Core) (id : Nat) : Option TfCmd := co.tf.find? (·.id == id)

/-- Replaces a command. -/
def Mach.setTf (m : Mach) (c : Nat) (q : TfCmd) : Mach :=
  m.onCore c fun co => { co with tf := co.tf.map fun r => if r.id = q.id then q else r }

/-- The first command that has not ended. -/
def Core.tfHead (co : Core) : Option TfCmd := co.tf.find? (!·.ended)

/-- A command joins the queue; it starts at once or with the end of the one before it. -/
def Mach.pushTf (m : Mach) (q : TfCmd) : Mach :=
  let c := m.issue.core
  let idle := (m.core c).tfHead.isNone
  let m := m.onCore c fun co => { co with tf := co.tf ++ [q] }
  if idle then m.post (max m.cycle (m.core c).tfEnd) (.tfCommandStart c q.id) else m

/-- A new command. -/
def newTf (id ctx : Nat) (op : TfOp) (t : Word) (mark : Nat) : TfCmd :=
  ⟨id, ctx, op, none, none, none, 64, t, [], [], [], 0, none, false, 0, mark, false, false, 0, 0, [], [], 0, 0, 0⟩

/-- Whether an engine of the core has an access older than command `id` to one of the keys still to perform: a store
waits for reads and stores, a read for stores. -/
def Core.earlierEngine (co : Core) (id : Nat) (store : Bool) (keys : List Nat) : Bool :=
  (co.tf.any fun q => q.id < id && (store || q.op.stores) && keys.any q.touches)
    || (store && co.mx.any fun q => q.id < id && keys.any q.reads)

/-- Whether a memory row of a command can be accessed now (R114). -/
def Mach.rowFree (m : Mach) (c : Nat) (q : TfCmd) (keys : List Nat) : Bool :=
  !(m.ctx c q.ctx).olderStore q.mark keys.contains && !(m.core c).earlierEngine q.id q.op.stores keys

/-- Once its last memory access has performed, a command's reservation is released and its slot left; once it has ended
with nothing on its way, it is gone. -/
def Mach.settleTf (m : Mach) (c id : Nat) : Mach :=
  match (m.core c).tfCmd id with
  | none => m
  | some q =>
    let m := if q.reserved && !q.unread then
        ((m.setTf c { q with reserved := false }).leaveSlot c q.ring).release c q.id
      else m
    if q.ended && q.puts.isEmpty && !q.unread then m.onCore c fun co => { co with tf := co.tf.filter (·.id != id) }
    else m

/-- Performs one row on its way. -/
def Mach.putRow (mem : Memory) (m : Mach) (c : Nat) (q : TfCmd) (p : TfPut) : Mach :=
  let m := (m.write p.mem).settleBarriers mem (p.mem.map (·.1))
  match q.d with
  | some d => if p.mem.isEmpty then m.onCtx c q.ctx (·.setTileRow d.tile p.idx p.cells) else m
  | none => m

/-- The command after a row has been performed. -/
def TfCmd.afterPut (q : TfCmd) (p : TfPut) : TfCmd :=
  let side := if p.idx < q.rows.length then q.side else []
  { q with puts := q.puts.filter (· != p), side := side,
           rows := if p.mem.isEmpty then q.rows else modifyAt (fun _ => []) p.idx q.rows }

/-- Performs the rows of a command that are due; one that must wait is tried again. -/
def Mach.flushTf (mem : Memory) (m : Mach) (c id : Nat) : List TfPut → Mach
  | [] => m
  | p :: rest =>
    match (m.core c).tfCmd id with
    | none => m
    | some q =>
      if m.cycle < p.due then Mach.flushTf mem m c id rest
      else if p.mem.isEmpty || m.rowFree c q (p.mem.map (·.1)) then
        Mach.flushTf mem ((m.putRow mem c q p).setTf c (q.afterPut p)) c id rest
      else Mach.flushTf mem (m.again (.tfRowStep c id)) c id rest

/-- A command has a row to write at a later cycle. -/
def Mach.addPut (m : Mach) (c : Nat) (q : TfCmd) (p : TfPut) : Mach :=
  (m.setTf c { q with puts := q.puts ++ [p] }).post p.due (.tfRowStep c q.id)

/-- Sets RAW_OVF of a command's destination (R93, R260). -/
def Ctx.rawOverflow (x : Ctx) (d : TileRef) : Ctx :=
  { x with tl := modifyAt (fun t => { t with rawOvf := true }) d.index x.tl }

/-- The keys of row r. -/
def TfCmd.rowKeys (q : TfCmd) (r : Nat) : List Nat := segKeys (q.rows.getD r [])

/-- A row of bytes to be written `after` cycles from now; with the last row goes the sidecar. -/
def Mach.putBytes (m : Mach) (c : Nat) (q : TfCmd) (r after : Nat) (bs : List Byte) : Mach :=
  let due := m.cycle + after
  let m := m.addPut c q ⟨due, r, (q.rowKeys r).zip bs, []⟩
  if r + 1 = q.rows.length ∧ !q.side.isEmpty then
    match (m.core c).tfCmd q.id with
    | some q => m.addPut c q ⟨due, q.rows.length, q.side, []⟩
    | none => m
  else m

/-- The accumulator rows that a row step reads. -/
def TfCmd.readRows (q : TfCmd) (r : Nat) : List Nat :=
  match q.resolves[q.phase]? with
  | some t => [t.tile.row0 + r]
  | none => (q.a.toList ++ q.b.toList).map (·.tile.row0 + r)

/-- What row r of a command's own stream does; x is the context as its reads see it. -/
def Mach.tfStep (mem : Memory) (m : Mach) (c : Nat) (x : Ctx) (q : TfCmd) (r : Nat) : Mach :=
  match q.op with
  | .trmax | .trsum | .tcmax | .tcsum | .trmaxr | .trsumr =>
    m.setTf c { q with seen := q.seen ++ (q.a.toList.map fun a => x.tileRow a.tile r) }
  | .ttrans =>
    match q.a, q.d with
    | some a, some d =>
      if r < a.tile.rows then m.setTf c { q with seen := q.seen ++ [x.tileRow a.tile r] }
      else
        let i := r - a.tile.rows
        m.onCtx c q.ctx (·.setTileRow d.tile i (((transpose a.tile.n q.seen).getD i []).map a.tile.fmt.held))
    | _, _ => m
  | .tld | .tdq =>
    match q.d with
    | none => m
    | some d =>
      let bs := peekAll mem m (q.rowKeys r)
      let m := m.settleBarriers mem (q.rowKeys r)
      let (cells, miss) := if q.op = .tld then (loadRow d.tile.fmt bs, false) else dequantRow q.ctl d.tile.fmt bs
      let m := if miss then m.onCtx c q.ctx (·.raiseCsw cswEscOvr) else m
      m.addPut c { q with rows := modifyAt (fun _ => []) r q.rows } ⟨m.cycle + 8 + q.lat, r, [], cells⟩
  | .tst | .tstr =>
    match q.a with
    | some a => m.putBytes c q r q.lat (storeRow a.tile.fmt (x.tileRow a.tile r))
    | none => m
  | .tquant =>
    match q.a with
    | none => m
    | some a =>
      let old := if tcDelay q.ctl then peekAll mem m (q.rowKeys r) else []
      let (bs, info) := quantRow q.ctl a.tile.fmt (x.tileRow a.tile r) old
      let (m, q) := match info with
        | some i =>
          (m.onCtx c q.ctx fun x =>
              let x := x.countScales i.ovf i.unf
              if i.invalid then x.raiseCsw cswInvalid else x,
            { q with clipped := min 0xFFFF (q.clipped + i.clipped), escapes := min 0xFFFF (q.escapes + i.block.escn) })
        | none => (m, q)
      m.putBytes c q r (q.lat + if tcGuard q.ctl || tcSub q.ctl == 4 then 32 else 24) bs
  | _ =>
    let (cells, over_) := q.row x r
    match q.d, q.a with
    | some d, _ =>
      m.onCtx c q.ctx fun x =>
        let x := x.setTileRow d.tile r cells
        if over_ && d.tile.occupied then x.rawOverflow d else x
    | none, some a => m.onCtx c q.ctx (·.setTileRow a.tile r cells)
    | none, none => m

/-- Whether the row step that is due can be taken: a read of memory waits for what is older (R114). -/
def Mach.stepFree (m : Mach) (c : Nat) (q : TfCmd) : Bool :=
  q.phase < q.resolves.length || (match q.op with
    | .tld | .tdq => m.rowFree c q (q.rowKeys q.step)
    | .tquant => !tcDelay q.ctl || m.rowFree c q (q.rowKeys q.step)
    | _ => true)

/-- The rows of the present stream. -/
def TfCmd.streamRows (q : TfCmd) : Nat :=
  match q.resolves[q.phase]? with
  | some r => r.tile.rows
  | none => q.steps

/-- A stream begins in cycle t: its first row, or where it has none the end of the command. -/
def Mach.beginStream (m : Mach) (c : Nat) (q : TfCmd) (t : Nat) : Mach :=
  let q := { q with start := t, step := 0 }
  let m := m.setTf c q
  if q.streamRows = 0 then m.post (t + q.short) (.tfCommandEnd c q.id) else m.post (t + q.lead) (.tfRowStep c q.id)

/-- After a row step: the next row, the next stream, or the end E. -/
def Mach.nextStep (m : Mach) (c : Nat) (q : TfCmd) : Mach :=
  let q := { q with step := q.step + 1 }
  if q.step < q.streamRows then (m.setTf c q).post (m.cycle + 1) (.tfRowStep c q.id)
  else if q.phase < q.resolves.length then m.beginStream c { q with phase := q.phase + 1 } (m.cycle + 1)
  else
    let tail := match q.op with
      | .tld | .tdq => 8 + q.lat
      | _ => 0
    (m.setTf c q).post (m.cycle + tail + 1) (.tfCommandEnd c q.id)

/-- Takes the row step that is due, if one is. -/
def Mach.takeStep (mem : Memory) (m : Mach) (c : Nat) (q : TfCmd) : Mach :=
  if !q.started || q.ended || q.streamRows ≤ q.step || m.cycle < q.start + q.lead + q.step then m
  else if !m.stepFree c q then (m.setTf c { q with start := q.start + 1 }).again (.tfRowStep c q.id)
  else
    let (x, m) := m.seenCtx mem c q.ctx (q.readRows q.step)
    let m := match q.resolves[q.phase]? with
      | some r => m.onCtx c q.ctx (·.setTileRow r.tile q.step (x.resolveRow r.tile q.step))
      | none => m.tfStep mem c x q q.step
    match (m.core c).tfCmd q.id with
    | some q => m.nextStep c q
    | none => m

/-- TF_ROW_STEP (R210). -/
def execTfRowStep (core id : Nat) (s : State) : Out :=
  let m := s.mach
  endEvent s (match (m.core core).tfCmd id with
    | none => m
    | some q =>
      let m := Mach.flushTf s.mem m core id q.puts
      let m := match (m.core core).tfCmd id with
        | some q => m.takeStep s.mem core q
        | none => m
      m.settleTf core id)

/-- TF_COMMAND_START (R210): the first command that has not ended starts. -/
def execTfCommandStart (core id : Nat) (s : State) : Out :=
  let m := s.mach
  endEvent s (match (m.core core).tfHead with
    | some q => if q.id = id ∧ !q.started then m.beginStream core { q with started := true } m.cycle else m
    | none => m)

/-- tf.res as R217 lays it out. -/
def tfResult (status clipped escapes : Nat) : Word := word (status * 2 ^ 56 + clipped * 2 ^ 16 + escapes)

/-- tf.res arrives. -/
def Mach.tfSay (m : Mach) (c : Nat) (q : TfCmd) (status : Nat) : Mach :=
  m.onCtx c q.ctx (·.arrive .tf q.tag (tfResult status q.clipped q.escapes))

/-- A reduction's values are written, or sent as a contribution (R213). -/
def Mach.endReduction (m : Mach) (c : Nat) (q : TfCmd) : Mach :=
  let vals := q.reduced
  if tcContrib q.ctl then
    let (n, m) := m.newId
    let uid := ((m.ctx c q.ctx).unit.map (·.uid)).getD 0
    Mach.post { m with contribs := m.contribs ++ [⟨n, m.pkg, c, q.ctx, c, q.ctx, q.fv, vals.map toC40,
      some (if q.op.sums then .add else .max), .tf c q.ctx uid q.tag, [], m.cycle⟩] } m.cycle (.fvContribution n)
  else
    let new := vals.map fun v => BitVec.ofNat 40 (f32.encode false v)
    let put (f : FactorVec) : FactorVec :=
      { f with state := .ready, nn := false, op := .add, remain := 0, vcause := 0, entries := new ++ f.entries.drop new.length }
    m.onCtx c q.ctx fun x => { x with fv := modifyAt put q.fv x.fv }

/-- The operator with a code of SUB (R214). -/
def fvOpOf : Nat → FvOp
  | 0 => .add
  | 1 => .max
  | _ => .min

/-- A vector after tf.fvset (R214). -/
def FactorVec.set (f : FactorVec) (t : Word) : FactorVec :=
  let op := fvOpOf (tcSub t)
  if tcCount t = 0 then { f with state := .ready, nn := false, op := .add, remain := 0, vcause := 0 }
  else ⟨.pending, tcNn t, op, tcCount t, 0, List.replicate 512 op.identity⟩

/-- A vector after tf.fvexp, with the status (R214, R217). -/
def FactorVec.expectMore (f : FactorVec) (n : Nat) : FactorVec × Nat :=
  if f.state ≠ .pending then (f, 0x20)
  else if 65535 < f.remain + n then (f, 0x21)
  else ({ f with remain := f.remain + n }, 0)

/-- What a command does at its end E. -/
def Mach.tfEndWork (m : Mach) (c : Nat) (q : TfCmd) : Mach :=
  let x := m.ctx c q.ctx
  match q.op with
  | .trmax | .trsum | .tcmax | .tcsum | .trmaxr | .trsumr => m.endReduction c q
  | .fvset => (m.onCtx c q.ctx fun x => { x with fv := modifyAt (·.set q.ctl) q.fv x.fv }).tfSay c q 0
  | .fvexp =>
    let (f, st) := (x.fv.getD q.fv .zero).expectMore (tcCount q.ctl)
    (m.onCtx c q.ctx fun x => { x with fv := modifyAt (fun _ => f) q.fv x.fv }).tfSay c q st
  | .fvst => m.putBytes c q 0 q.lat (((x.fv.getD q.fv .zero).cells).flatMap fun w => bytesLE 4 w.toNat)
  | .tquant => m.tfSay c q 0
  | _ => m

/-- TF_COMMAND_END (R210): the command ends, and the next starts. -/
def execTfCommandEnd (core id : Nat) (s : State) : Out :=
  let m := s.mach
  endEvent s (match (m.core core).tfCmd id with
    | none => m
    | some q =>
      if q.ended then m
      else
        let m := Mach.flushTf s.mem m core id q.puts
        let m := m.tfEndWork core ((m.core core).tfCmd id |>.getD q)
        let m := m.setTf core { (((m.core core).tfCmd id).getD q) with ended := true }
        let m := m.onCore core fun co => { co with tfEnd := m.cycle }
        let m := match (m.core core).tfHead with
          | some r => m.post m.cycle (.tfCommandStart core r.id)
          | none => m
        m.settleTf core id)

/-! ## Issue (R209, R218) -/

/-- The frame of a tf trigger: control word, latches, factor operand, then the operation on its operands. -/
def tfTrigger (code : Nat) (op : TfOp) (f : Mach → Word → TfArgs → Except Stop Mach) (o : TOp) (s : State) : Out :=
  triggerW o s fun _ m t =>
    let x := m.me
    let latchF := (x.latchCell .tfF).val
    let usesF := op.latches.any (·.1 == .tfF)
    if !op.ctlOk t || (usesF && (latchF.elim false (badFactor (op == .tdrop)))) then illBundle
    else do
      let _ ← checkKinds m op.latches
      if usesF && (latchF.elim false fun v => x.fv.length ≤ bits (factorWord v) 5 0) then illMove
      else do
        let (vals, m) ← takeAll code op.latches m
        f m t (tfArgs m.me op vals)

/-- What holds back every tf trigger at last: the queue of four (R210), and MXW (R206). -/
def tfReady (m : Mach) (t : Word) : Except Stop Unit :=
  if 4 ≤ m.myCore.tfQueued m.issue.ctx then .error (.block .tfQueue)
  else if tcMxw t && (m.cycle < m.me.mxwFrom || m.myCore.mx.any (·.ctx == m.issue.ctx)) then .error .stall
  else .ok ()

/-- Sets a descriptor of the context. -/
def Mach.setTile (m : Mach) (r : TileRef) : Mach := m.onMe fun x => { x with tl := modifyAt (fun _ => r.tile) r.index x.tl }

/-- A descriptor as it stands now. -/
def TileRef.now (r : TileRef) (m : Mach) : TileRef := ⟨r.index, m.me.tl.getD r.index .unset⟩

/-- The occupied tiles among the operands, each once (R89). -/
def toResolve (a : TileRef) (b : Option TileRef) : List TileRef :=
  let l := match b with
    | some b => if b.index = a.index then [a] else [a, b]
    | none => [a]
  l.filter (·.tile.occupied)

/-- A number for a command, and the command. -/
def startTf (m : Mach) (op : TfOp) (t : Word) : TfCmd × Mach :=
  let (id, m) := m.newId
  (newTf id m.issue.ctx op t id, m)

/-- The operands of an elementwise operation: which it has. -/
def TfOp.hasA : TfOp → Bool
  | .tzero => false
  | _ => true

/-- Which elementwise operations have a second operand. -/
def TfOp.hasB : TfOp → Bool
  | .tadd | .tsub | .tmul | .tmax | .tmin => true
  | _ => false

/-- A vector whose entries decide whether tmax or tmin commutes is still to be written by an earlier command. -/
def orderUnknown (m : Mach) (op : TfOp) (a : TileRef) : Bool :=
  (op == .tmax || op == .tmin) && a.tile.factors.any fun f =>
    m.myCore.tf.any fun q => q.ctx == m.issue.ctx && !q.ended && q.fv == f.fv

/-- An elementwise operation (R88, R89, R211). Whether it commutes is judged as it issues: a tmax or tmin that has waited for a
vector is judged anew (DESIGN CHOICE, log 115). -/
def tfElementwise (m : Mach) (op : TfOp) (t : Word) (r : TfArgs) : Except Stop Mach :=
  if !op.suits t r.a.tile r.b.tile r.d.tile then illOperand
  else do
    let b := if op.hasB then some r.b else none
    let _ ← if orderUnknown m op r.a then .error .stall else .ok ()
    let plain := m.me.commute op r.a.tile r.b.tile r.d.tile
    let res := if plain.isSome then [] else toResolve r.a b
    let m' ← (if plain.isSome then .ok m
      else if op = .texpw then do
        let _ ← awaitVectors m r.a.vectors
        .ok (m.setTile ⟨r.a.index, r.a.tile.bare⟩)
      else forcedResolve m res : Except Stop Mach)
    let _ ← tfReady m t
    let a := if plain.isSome then r.a else ⟨r.a.index, r.a.tile.bare⟩
    let b := if plain.isSome then b else b.map fun b => ⟨b.index, b.tile.bare⟩
    let d := (plain.or (m.me.commute op a.tile ((b.map (·.tile)).getD r.b.tile) r.d.tile)).getD r.d.tile.bare
    let (q, m) := startTf (m'.setTile ⟨r.d.index, d⟩) op t
    .ok (m.pushTf { q with a := if op.hasA then some a else none, b := b, d := some ⟨r.d.index, d⟩, resolves := res })

/-- A slot operation on the tile of a (R212). One that does not commute waits for the vectors of its tile, not for that of tf.f
(DESIGN CHOICE, log 114). -/
def tfSlot (m : Mach) (op : TfOp) (t : Word) (r : TfArgs) : Except Stop Mach := do
  let plain := slotCommute op r.a.tile r.f r.c
  let res := if plain.isSome then [] else toResolve r.a none
  let m' ← if plain.isSome then .ok m else forcedResolve m res
  let _ ← tfReady m t
  let d := (plain.or (slotCommute op r.a.tile.bare r.f r.c)).getD r.a.tile
  let (q, m) := startTf (m'.setTile ⟨r.a.index, d⟩) op t
  .ok (m.pushTf { q with a := some ⟨r.a.index, d⟩, resolves := res })

/-- tf.resolve (R90). -/
def tfResolve (m : Mach) (t : Word) (r : TfArgs) : Except Stop Mach := do
  let _ ← awaitVectors m r.a.vectors
  let _ ← tfReady m t
  let (q, m) := startTf (m.setTile ⟨r.a.index, r.a.tile.bare⟩) .resolve t
  .ok (m.pushTf { q with a := some r.a })

/-- A reduction that disregards slots (R88). -/
def TfOp.rawReduction : TfOp → Bool
  | .trmaxr | .trsumr => true
  | _ => false

/-- A tf command whose result goes to tf.res awaits it there (R217). -/
def awaitTf (m : Mach) (q : TfCmd) : TfCmd × Mach := ({ q with tag := q.id }, m.awaitResult .tf q.id)

/-- A reduction (R213). -/
def tfReduction (m : Mach) (op : TfOp) (t : Word) (r : TfArgs) : Except Stop Mach := do
  let res := if op.rawReduction then [] else toResolve r.a none
  let m' ← if res.isEmpty then .ok m else forcedResolve m res
  let st := m.fvState m.issue.core m.issue.ctx r.fv
  let _ ← if !tcContrib t && st == .pending then .error (.block (.factor [r.fv])) else .ok ()
  let _ ← if m.me.outstanding (.ref .fv r.fv) then .error .stall else .ok ()
  let _ ← tfReady m t
  let (q, m) := startTf m' op t
  let q := { q with a := some ⟨r.a.index, r.a.tile.bare⟩, fv := r.fv, resolves := res }
  if tcContrib t then
    let (q, m) := awaitTf m q
    .ok (m.pushTf q)
  else .ok (m.pushTf q)

/-- fvset and fvexp (R214). -/
def tfVector (m : Mach) (op : TfOp) (t : Word) (r : TfArgs) : Except Stop Mach := do
  let st := m.fvState m.issue.core m.issue.ctx r.fv
  let _ ← if op == .fvset && st == .pending then .error (.block (.factor [r.fv])) else .ok ()
  let _ ← if m.me.outstanding (.ref .fv r.fv) then .error .stall else .ok ()
  let _ ← tfReady m t
  let (q, m) := startTf m op t
  let (q, m) := awaitTf m { q with fv := r.fv }
  .ok (m.pushTf q)

/-- fvst (R214). -/
def tfVectorStore (m : Mach) (t : Word) (r : TfArgs) : Except Stop Mach := do
  let base := r.mem.w.toNat
  let _ ← if base % 4 ≠ 0 then alignFault base else .ok ()
  let pieces ← enginePages m true base 2048 [(base, 2048)]
  let segs := pieces.map (·.map (·.1))
  let _ ← awaitVectors m [(r.fv, r.fv * 256 + 128)]
  let _ ← tfReady m t
  let (q, m) := startTf m .fvst t
  let lat := rangeCycles m m.issue.core base segs.flatten
  .ok ((m.allocPages pieces.flatten).pushTf { q with fv := r.fv, rows := segs, lat := lat })

/-- A tile load or store (R215, R216): the tile whose rows move, and whether they are read. -/
def tfMemory (m : Mach) (op : TfOp) (t : Word) (r : TfArgs) : Except Stop Mach :=
  let load := op == .tld || op == .tdq
  let tile := if load then r.d else r.a
  if !op.suits t r.a.tile r.b.tile r.d.tile then illOperand
  else do
    let (size, al) := rowFormat op t tile.tile
    let stride := if tcStride t = 0 then size else tcStride t
    let base0 := r.mem.w.toNat
    let _ ← if tcStride t ≠ 0 && (stride < size || stride % al ≠ 0) || base0 % al ≠ 0 then alignFault base0 else .ok ()
    let rows := tile.tile.rows
    let sideAt (base : Nat) : Nat := roundUp (base + rows * stride) 64
    let total (base : Nat) : Nat := if op = .tstr then sideAt base + 64 - base else (rows - 1) * stride + size
    let p ← memOperand m r.mem (total 0) load
    let pieces := (upFrom 0 rows).map fun i => (p.base + i * stride, size)
    let pages ← enginePages m (!load) p.base (total p.base)
      (if op = .tstr then pieces ++ [(sideAt p.base, 64)] else pieces)
    let all := pages.map (·.map (·.1))
    let res := if load || op == .tstr then [] else toResolve r.a none
    let m' ← if res.isEmpty then .ok m else forcedResolve m res
    let _ ← tfReady m t
    let (q, m2) := startTf m' op t
    let m2 ← useRing m2 q.id p load
    let lat := rangeCycles m m.issue.core p.base all.flatten
    let side := if op = .tstr then
        (segKeys ((all.drop rows).flatten)).zip (bytesOfWords (sidecar m.me r.a.tile))
      else []
    let m2 := m2.allocPages pages.flatten
    let d : TileRef := ⟨r.d.index, r.d.tile.bare⟩
    let m2 := if load then m2.setTile d else m2
    let q := { q with a := if load then none else some ⟨r.a.index, r.a.tile.bare⟩, d := if load then some d else none,
                      resolves := res, rows := all.take rows, side := side, lat := lat, ring := p.slot,
                      reserved := p.ring.isSome }
    if op = .tquant then
      let (q, m2) := awaitTf m2 q
      .ok (m2.pushTf q)
    else .ok (m2.pushTf q)


/-! ## The triggers (R209) -/

/-- tf.tzero (R88, R211). -/
def execTfTzero (o : TOp) (s : State) : Out := tfTrigger 0x19C .tzero (fun m t r => tfElementwise m .tzero t r) o s

/-- tf.tcopy (R88, R211). -/
def execTfTcopy (o : TOp) (s : State) : Out := tfTrigger 0x19D .tcopy (fun m t r => tfElementwise m .tcopy t r) o s

/-- tf.tadd (R88, R211). -/
def execTfTadd (o : TOp) (s : State) : Out := tfTrigger 0x19E .tadd (fun m t r => tfElementwise m .tadd t r) o s

/-- tf.tsub (R88, R211). -/
def execTfTsub (o : TOp) (s : State) : Out := tfTrigger 0x19F .tsub (fun m t r => tfElementwise m .tsub t r) o s

/-- tf.tmul (R88, R211). -/
def execTfTmul (o : TOp) (s : State) : Out := tfTrigger 0x1A0 .tmul (fun m t r => tfElementwise m .tmul t r) o s

/-- tf.tmax (R88, R211). -/
def execTfTmax (o : TOp) (s : State) : Out := tfTrigger 0x1A1 .tmax (fun m t r => tfElementwise m .tmax t r) o s

/-- tf.tmin (R88, R211). -/
def execTfTmin (o : TOp) (s : State) : Out := tfTrigger 0x1A2 .tmin (fun m t r => tfElementwise m .tmin t r) o s

/-- tf.tsmul (R88, R212). -/
def execTfTsmul (o : TOp) (s : State) : Out := tfTrigger 0x1A3 .tsmul (fun m t r => tfSlot m .tsmul t r) o s

/-- tf.tscr (R88, R212). -/
def execTfTscr (o : TOp) (s : State) : Out := tfTrigger 0x1A4 .tscr (fun m t r => tfSlot m .tscr t r) o s

/-- tf.tscc (R88, R212). -/
def execTfTscc (o : TOp) (s : State) : Out := tfTrigger 0x1A5 .tscc (fun m t r => tfSlot m .tscc t r) o s

/-- tf.tshr (R88, R212). -/
def execTfTshr (o : TOp) (s : State) : Out := tfTrigger 0x1A6 .tshr (fun m t r => tfSlot m .tshr t r) o s

/-- tf.tshc (R88, R212). -/
def execTfTshc (o : TOp) (s : State) : Out := tfTrigger 0x1A7 .tshc (fun m t r => tfSlot m .tshc t r) o s

/-- tf.texp (R88, R211). -/
def execTfTexp (o : TOp) (s : State) : Out := tfTrigger 0x1A8 .texp (fun m t r => tfElementwise m .texp t r) o s

/-- tf.texpw (R88, R211). -/
def execTfTexpw (o : TOp) (s : State) : Out := tfTrigger 0x1A9 .texpw (fun m t r => tfElementwise m .texpw t r) o s

/-- tf.tcvt (R88, R211). -/
def execTfTcvt (o : TOp) (s : State) : Out := tfTrigger 0x1AA .tcvt (fun m t r => tfElementwise m .tcvt t r) o s

/-- tf.trmax (R213). -/
def execTfTrmax (o : TOp) (s : State) : Out := tfTrigger 0x1AB .trmax (fun m t r => tfReduction m .trmax t r) o s

/-- tf.trsum (R213). -/
def execTfTrsum (o : TOp) (s : State) : Out := tfTrigger 0x1AC .trsum (fun m t r => tfReduction m .trsum t r) o s

/-- tf.tcmax (R213). -/
def execTfTcmax (o : TOp) (s : State) : Out := tfTrigger 0x1AD .tcmax (fun m t r => tfReduction m .tcmax t r) o s

/-- tf.tcsum (R213). -/
def execTfTcsum (o : TOp) (s : State) : Out := tfTrigger 0x1AE .tcsum (fun m t r => tfReduction m .tcsum t r) o s

/-- tf.trmaxr (R213). -/
def execTfTrmaxr (o : TOp) (s : State) : Out := tfTrigger 0x1AF .trmaxr (fun m t r => tfReduction m .trmaxr t r) o s

/-- tf.trsumr (R213). -/
def execTfTrsumr (o : TOp) (s : State) : Out := tfTrigger 0x1B0 .trsumr (fun m t r => tfReduction m .trsumr t r) o s

/-- tf.resolve (R90). -/
def execTfResolve (o : TOp) (s : State) : Out := tfTrigger 0x1B1 .resolve tfResolve o s

/-- tf.tdrop (R88, R212). -/
def execTfTdrop (o : TOp) (s : State) : Out := tfTrigger 0x1B2 .tdrop (fun m t r => tfSlot m .tdrop t r) o s

/-- tf.tld (R215). -/
def execTfTld (o : TOp) (s : State) : Out := tfTrigger 0x1B3 .tld (fun m t r => tfMemory m .tld t r) o s

/-- tf.tst (R215). -/
def execTfTst (o : TOp) (s : State) : Out := tfTrigger 0x1B4 .tst (fun m t r => tfMemory m .tst t r) o s

/-- tf.tstr (R215). -/
def execTfTstr (o : TOp) (s : State) : Out := tfTrigger 0x1B5 .tstr (fun m t r => tfMemory m .tstr t r) o s

/-- tf.tquant (R215). -/
def execTfTquant (o : TOp) (s : State) : Out := tfTrigger 0x1B6 .tquant (fun m t r => tfMemory m .tquant t r) o s

/-- tf.tdq (R215). -/
def execTfTdq (o : TOp) (s : State) : Out := tfTrigger 0x1B7 .tdq (fun m t r => tfMemory m .tdq t r) o s

/-- tf.fvexp (R214). -/
def execTfFvexp (o : TOp) (s : State) : Out := tfTrigger 0x1B8 .fvexp (fun m t r => tfVector m .fvexp t r) o s

/-- tf.fvset (R214). -/
def execTfFvset (o : TOp) (s : State) : Out := tfTrigger 0x1B9 .fvset (fun m t r => tfVector m .fvset t r) o s

/-- tf.fvst (R214). -/
def execTfFvst (o : TOp) (s : State) : Out := tfTrigger 0x1BA .fvst tfVectorStore o s

/-- tf.ttrans (R88, R211). -/
def execTfTtrans (o : TOp) (s : State) : Out := tfTrigger 0x1BB .ttrans (fun m t r => tfElementwise m .ttrans t r) o s

end Sys2Proof.Machine
end

