-- ==== Sys2Proof/Machine/Merge.lean ====
section
/-!
DEFINITION. Views and their merge (spec/01_execution_model.md R32-R38, R343; spec/18_translation_faults.md R322;
spec/19_prog_spawn_merge_fault.md R327, R328), the end of a unit by `sy.merge` (R97, R169), reruns and retired cores (R36,
R38, R325).
-/

namespace Sys2Proof.Machine

/-! ## Folding one element (R32, R34, R284) -/

/-- The TYPE of R223 that an ETYPE of R168 names. -/
def typeOfEtype : Nat → Nat
  | 0 => 4
  | n => n - 1

/-- An element of the accumulated view or object folded with an element of a view. -/
def foldElem (m : Mach) (e : ViewEntry) (a b : Nat) : Nat :=
  let fl (f : Fl → Fl → Fl) : Nat := f32.encode false (f (f32.decode a) (f32.decode b))
  match e.op with
  | 0 => fl Fl.add
  | 1 => (a + b) % 2 ^ 32
  | 2 => fl Fl.max
  | 3 => fl Fl.min
  | 4 => a &&& b
  | 5 => a ||| b
  | 6 => a ^^^ b
  | _ =>
    let t := typeOfEtype e.etype
    let image := (m.handler (24 + e.hnd)).image
    (porterRun image (typeExtend t (word a)) (typeExtend t (word b)) 0).1.toNat % 2 ^ (8 * e.esize)

/-- Bytes folded element by element. -/
def foldBytes (m : Mach) (e : ViewEntry) (as bs : List Byte) : List Byte :=
  let n := as.length / e.esize
  ((chunks e.esize n as).zip (chunks e.esize n bs)).flatMap fun p => bytesLE e.esize (foldElem m e (natLE p.1) (natLE p.2))

/-- Cells folded. -/
def foldCells (m : Mach) (e : ViewEntry) (as bs : List Cell) : List Cell :=
  (as.zip bs).map fun p => BitVec.ofNat 32 (foldElem m e p.1.toNat p.2.toNat)

/-- `n` bytes of the identity of an entry's operator. -/
def identityBytes (m : Mach) (e : ViewEntry) (n : Nat) : List Byte :=
  (upFrom 0 n).map fun i => BitVec.ofNat 8 (identityOf m e / 256 ^ (i % e.esize))

/-! ## Blocks (R327) -/

/-- The blocks of a region. -/
def ViewEntry.blocks (e : ViewEntry) : Nat := (e.base + e.length - 1) / 64 + 1 - e.base / 64

/-- The address of block b's line. -/
def ViewEntry.line (e : ViewEntry) (b : Nat) : Nat := (e.base / 64 + b) * 64

/-- The region's first byte in block b, and its bytes there. -/
def ViewEntry.part (e : ViewEntry) (b : Nat) : Nat × Nat :=
  let lo := max e.base (e.line b)
  (lo, min (e.base + e.length) (e.line b + 64) - lo)

/-- The rows of a tile entry. -/
def ViewEntry.rows (e : ViewEntry) : Nat := bits e.geom 18 9

/-- The geometry of a tile entry as a descriptor. -/
def ViewEntry.shape (e : ViewEntry) : Tile := Tile.unset.setGeometry e.geom

/-- The key of a pool block for the device's work on core c: by the translation that the core has cached, else by the page tables
(R310). -/
def deviceBlock (mem : Memory) (m : Mach) (h c b : Nat) : Option Nat :=
  let a := (m.part h).poolBase + 64 * b
  match findTlb (m.core c).tlb h a with
  | some t => if windowOf a = .hbm then some (t.key a) else deviceKey mem m h a
  | none => deviceKey mem m h a

/-- The block of an entry's line in a view. -/
def findBlock (l : List ViewBlock) (n line : Nat) : Option ViewBlock := l.find? fun b => b.entry == n && b.line == line

/-- The least block of entry n, from `b` on, that one of the views holds. -/
def heldFrom (e : ViewEntry) (l : List ViewBlock) (n b : Nat) : Option Nat :=
  extreme false (((l.filter (·.entry == n)).map fun q => q.line / 64 - e.base / 64).filter (b ≤ ·))

/-- The next block or row of a step from entry n and block b on: with a child what either view holds, without one every
block of the objects. -/
def Family.nextWork (f : Family) (kid : Option Child) : Nat → Nat → Nat → Option (Nat × Nat)
  | 0, _, _ => none
  | fuel + 1, n, b =>
    match f.table[n]? with
    | none => none
    | some e =>
      let here := if e.tile then (if b < e.rows then some b else none)
        else match kid with
          | some k => heldFrom e (f.accBlocks ++ k.blocks) n b
          | none => if b < e.blocks then some b else none
      match here with
      | some b => some (n, b)
      | none => f.nextWork kid fuel (n + 1) 0

/-! ## Cursors and suspension (R35, R319, R322) -/

/-- Writes an entry's CURSOR. -/
def Mach.writeCursor (m : Mach) (e : ViewEntry) (v : Nat) : Mach :=
  if e.tile then m else m.writeBytes (e.slotAddr + 12) (bytesLE 4 v)

/-- Whether the CURSORs of a family lie in host memory and no module of the link is trained: the merge waits (R168, R335). -/
def Mach.cursorDown (m : Mach) (f : Family) : Bool := m.hostDown ((f.table.filter (!·.tile)).map (·.slotAddr))

/-- A step that was resumed while its CURSOR could not be written shows there now that it is no longer suspended (R322, R335). -/
def Mach.showResumed (m : Mach) (h : Nat) (f : Family) : Mach :=
  if f.resuming then (m.writeCursor (f.table.getD f.entry default) f.block).onFamily h f.parent fun f => { f with resuming := false }
  else m

/-- CURSOR of entry n once its block b is written back: the blocks done, or 0 where this was the last of the entry's step. -/
def Family.cursorAfter (f : Family) (kid : Option Child) (n b : Nat) : Nat :=
  match f.nextWork kid (f.table.length + 1) n (b + 1) with
  | some (n', _) => if n' = n then b + 1 else 0
  | none => 0

/-- The context that holds a unit. -/
def Mach.findUnit (m : Mach) (h uid : Nat) : Option (Nat × Nat) :=
  (partCores h).findSome? fun c =>
    (findAt (fun x : Ctx => x.unit.any fun u => u.uid == uid) 0 (m.core c).ctxs).map fun p => (c, p.1)

/-- The context number that names a family's parent. -/
def Mach.parentCtx (m : Mach) (h : Nat) (f : Family) : Nat := ((m.findUnit h f.parent).map (·.2)).getD 0

/-- The step a family is in: k, or 0 for the fold into the parent's objects. -/
def Family.step (f : Family) : Nat := if f.final then 0 else f.folded + 1

/-- The walks that an access to pool blocks for a merge takes, for pages that the parent's core has not cached: their time, and
the state with what they find cached (R310, R343; log 98). -/
def Mach.poolWalks (mem : Memory) (m : Mach) (h c : Nat) (blocks : List Nat) : Nat × Mach :=
  blocks.foldl (fun r b =>
    let a := (r.2.part h).poolBase + 64 * b
    if windowOf a ≠ .hbm ∨ (findTlb (r.2.core c).tlb h a).isSome then r
    else match walkNow mem r.2 h a with
      | .ok p => (r.1 + walkTime mem r.2 h a, r.2.onCore c (·.addTlb (tlbOf h a p)))
      | .error _ => r) (0, m)

/-- A step suspends at block b of entry n with an XLATE detail. -/
def Mach.suspendMerge (m : Mach) (h : Nat) (f : Family) (n b detail : Nat) : Mach :=
  let e := f.table.getD n default
  let k := m.parentCtx h f
  let m := m.writeCursor e (2 ^ 31 + b)
  let m := m.onFamily h f.parent fun f => { f with suspended := true, entry := n, block := b, target := none }
  m.report h (faultRecord 0x03 0x0C detail (masterWord f.core 0 k) (word f.handle) (word (e.part b).1)
    (word (2 * 2 ^ 56 + f.core * 2 ^ 48 + k * 2 ^ 8 + n)) (word ((2 ^ 31 + b) * 2 ^ 32 + e.length)) (word f.step) m.cycle)

/-! ## A child's view into the accumulated view (R34, R343) -/

/-- Folds block b of region entry n of a child's view, or fails with an XLATE detail. -/
def foldRegion (mem : Memory) (m : Mach) (h : Nat) (f : Family) (kid : Child) (n b : Nat) (e : ViewEntry) :
    Except Nat (Mach × Family × Child) :=
  let line := e.line b
  let (lo, size) := e.part b
  let idn := identityBytes m e size
  let key (q : ViewBlock) : Except Nat Nat := match deviceBlock mem m h f.core q.block with
    | some k => .ok (k + lo % 64)
    | none => .error 6
  match findBlock f.accBlocks n line, findBlock kid.blocks n line with
  | some a, some q => do
    let ka ← key a
    let kq ← key q
    let new := foldBytes m e (peekAll mem m (upFrom ka size)) (peekAll mem m (upFrom kq size))
    .ok ((m.writeBytes ka new).freeBlocks h [q], f, { kid with blocks := kid.blocks.filter (· != q) })
  | some a, none => do
    let ka ← key a
    .ok (m.writeBytes ka (foldBytes m e (peekAll mem m (upFrom ka size)) idn), f, kid)
  | none, some q => do
    let kq ← key q
    let new := foldBytes m e idn (peekAll mem m (upFrom kq size))
    .ok (m.writeBytes kq new, { f with accBlocks := f.accBlocks ++ [q] }, { kid with blocks := kid.blocks.filter (· != q) })
  | none, none => .ok (m, f, kid)

/-- Folds row b of tile entry n of a child's view. -/
def foldTile (m : Mach) (f : Family) (kid : Child) (n b : Nat) (e : ViewEntry) : Family :=
  let theirs := ((kid.tiles.lookup n).getD []).getD b []
  let each (p : Nat × List (List Cell)) : Nat × List (List Cell) :=
    if p.1 = n then (p.1, modifyAt (fun row => foldCells m e row theirs) b p.2) else p
  { f with accTiles := f.accTiles.map each }

/-- A step of a child ends: its view is spent. -/
def Mach.endStep (m : Mach) (h : Nat) (f : Family) (kid : Child) : Mach :=
  ((m.freeBlocks h kid.blocks).onFamily h f.parent fun f =>
    { f.onKid kid.spawn kid.index fun q => { q with blocks := [], tiles := [] } with
      folded := f.folded + 1, busy := false, stepEnd := m.cycle, entry := 0, block := 0 }).familyGoesOn h f.parent

/-- MERGE_STEP (R343): the next block or row of the step in progress is folded, after the walks that its blocks need; after the
last the step ends. -/
def execMergeStep (part parent : Nat) (s : State) : Out :=
  let m := s.mach
  endEvent s (match m.family part parent with
    | none => m
    | some f =>
      if !f.busy || f.final || f.suspended then m
      else if m.cursorDown f then m.again (.mergeStep part parent)
      else
      let m := m.showResumed part f
      let f := { f with resuming := false }
      match f.kids[f.folded]? with
        | none => m
        | some kid =>
          match f.nextWork (some kid) (f.table.length + 1) f.entry f.block with
          | none => m.endStep part f kid
          | some (n, b) =>
            let e := f.table.getD n default
            let put (m : Mach) (f' : Family) (kid' : Child) : Mach :=
              (m.onFamily part parent fun _ => { f'.onKid kid.spawn kid.index fun _ => kid' with entry := n, block := b + 1 }).post
                (m.cycle + 1) (.mergeStep part parent)
            let (walks, m') := m.poolWalks s.mem part f.core (((findBlock f.accBlocks n (e.line b)).toList
              ++ (findBlock kid.blocks n (e.line b)).toList).map (·.block))
            if e.tile then put m (foldTile m f kid n b e) kid
            else if walks ≠ 0 then m'.post (m.cycle + walks) (.mergeStep part parent)
            else match foldRegion s.mem m part f kid n b e with
              | .ok (m, f', kid') => put (m.writeCursor e (f.cursorAfter (some kid) n b)) f' kid'
              | .error d => m.suspendMerge part f n b d)

/-! ## The fold into the parent's objects (R34, R97, R327, R328) -/

/-- Where a byte of a parent's object lies: its key, the time of the walk that finds it, whether a view block was taken for it,
and the state that this leaves. -/
structure ObjectByte where
  key : Nat
  walk : Nat
  fresh : Bool
  mach : Mach

/-- A byte of a parent's object under the parent's own translation, or an XLATE detail. -/
def objectByte (mem : Memory) (m : Mach) (h c : Nat) (priv : Priv) (a : Nat) : Except Nat ObjectByte :=
  let under (t : Tlb) (walk : Nat) (m : Mach) : Except Nat ObjectByte :=
    match pageDenies t.pte priv true false with
    | some d => .error d
    | none => .ok ⟨t.key a, walk, false, m⟩
  match windowOf a with
  | .vault => if partOf (vaultCore a) = h then .ok ⟨a, 0, false, m⟩ else .error 2
  | .hbm =>
    if !(m.part h).ptEn.getD (windowOf a).index false then .error 1
    else match findTlb (m.core c).tlb h a with
      | some t => under t 0 m
      | none =>
        match walkNow mem m h a with
        | .error d => .error d
        | .ok r => under (tlbOf h a r) (walkTime mem m h a) (m.onCore c (·.addTlb (tlbOf h a r)))
  | _ => .error 3

/-- A byte in the view storage of the parent itself, a block being taken at the first touch (R33). -/
def ownViewByte (mem : Memory) (m : Mach) (h c k : Nat) (n : Nat) (e : ViewEntry) (a : Nat) : Except Nat ObjectByte :=
  let line := a / 64 * 64
  let blocks := ((m.ctx c k).unit.map (·.blocks)).getD []
  let keyOf (b : Nat) : Except Nat (Nat × Nat × Mach) :=
    let (walk, m) := m.poolWalks mem h c [b]
    match deviceBlock mem m h c b with
    | some key => .ok (key + a % 64, walk, m)
    | none => .error 6
  match findBlock blocks n line with
  | some b => (keyOf b.block).map fun (key, walk, m) => ⟨key, walk, false, m⟩
  | none =>
    match freeBlock (m.part h).poolUsed 0 ((m.part h).poolSize * 1024) with
    | none => .error 5
    | some b =>
      (keyOf b).map fun (key, walk, m) =>
        let m := (m.onPart h fun p => { p with poolUsed := b :: p.poolUsed }).onCtx c k fun x =>
          { x with unit := x.unit.map fun u => { u with blocks := u.blocks ++ [⟨n, line, b⟩] } }
        ⟨key, walk, true, m.writeBytes (key - a % 64) (identityBytes m e 64)⟩

/-- The bytes of a parent's object: in its own view where the parent is itself a child (R328), else by its translation. -/
def objectBytes (mem : Memory) (h c k : Nat) (views : List ViewEntry) (priv : Priv) :
    List Nat → Mach → Except Nat (List Nat × Nat × Bool × Mach)
  | [], m => .ok ([], 0, false, m)
  | a :: rest, m => do
    let r ← match regionOf views a with
      | some (n, e) => ownViewByte mem m h c k n e a
      | none => objectByte mem m h c priv a
    let (keys, walks, fresh, m) ← objectBytes mem h c k views priv rest r.mach
    .ok (r.key :: keys, r.walk + walks, r.fresh || fresh, m)

/-- The figure of R104 for a line of a parent's object; the first touch of a view line counts as absent (R328). -/
def objectFigure (m : Mach) (c : Nat) (keys : List Nat) (fresh : Bool) : Nat :=
  if keys.any isHbmKey then (if fresh then hbmCycles false else m.hbmFigure (keys.map fun key => (key, 1)))
  else vaultCycles c (vaultCore (keys.headD 0))

/-- The views that redirect the parent's object. -/
def Ctx.ownViews (x : Ctx) : List ViewEntry :=
  match x.unit with
  | some u => if u.parent.isSome then u.views else []
  | none => []

/-- The keys of the accumulated view's bytes in block b of entry n; none where no child has touched the line. -/
def accKeys (mem : Memory) (m : Mach) (h : Nat) (f : Family) (n b : Nat) (e : ViewEntry) : Except Nat (List Nat) :=
  match findBlock f.accBlocks n (e.line b) with
  | some q => match deviceBlock mem m h f.core q.block with
    | some key => .ok (upFrom (key + (e.part b).1 % 64) (e.part b).2)
    | none => .error 6
  | none => .ok []

/-- Folds the block of region entry n under way into the parent's object, whose bytes were found as it started. -/
def foldObject (mem : Memory) (m : Mach) (h : Nat) (f : Family) (n b : Nat) (e : ViewEntry) (keys acc : List Nat) : Mach :=
  let theirs := if acc.isEmpty then identityBytes m e keys.length else peekAll mem m acc
  let spent := (findBlock f.accBlocks n (e.line b)).toList
  let m := (m.write (keys.zip (foldBytes m e (peekAll mem m keys) theirs))).settleBarriers mem keys
  (m.onFamily h f.parent fun f => { f with accBlocks := f.accBlocks.filter (!spent.contains ·) }).freeBlocks h spent

/-- Folds row b of tile entry n into the parent's tile. -/
def foldParentTile (m : Mach) (c k : Nat) (f : Family) (n b : Nat) (e : ViewEntry) : Mach :=
  let theirs := ((f.accTiles.lookup n).getD []).getD b []
  m.onCtx c k fun x => x.setTileRow e.shape b (foldCells m e (x.tileRow e.shape b) theirs)

/-- Block or row b of entry n starts: its bytes are found, and it ends when the object's line has been read and the written
block has performed (R327, R343); a translation fault suspends the fold here. -/
def Mach.startFold (mem : Memory) (m : Mach) (h c k : Nat) (f : Family) (n b : Nat) : Mach :=
  let e := f.table.getD n default
  let x := m.ctx c k
  let go (m : Mach) (cycles : Nat) (target : List Nat × List Nat) : Mach :=
    let t := m.cycle + cycles
    (m.onFamily h f.parent fun f => { f with entry := n, block := b, stepEnd := t, target := some target }).post t
      (.joinComplete h f.parent)
  if e.tile then go m 1 ([], [])
  else match objectBytes mem h c k x.ownViews x.priv (upFrom (e.part b).1 (e.part b).2) m with
    | .error d => m.suspendMerge h f n b d
    | .ok (keys, walks, fresh, m') =>
      match accKeys mem m' h f n b e with
      | .error d => m.suspendMerge h f n b d
      | .ok acc =>
        let (more, m') := m'.poolWalks mem h c ((findBlock f.accBlocks n (e.line b)).toList.map (·.block))
        go m' (walks + more + 2 * objectFigure m c keys fresh + 1) (keys, acc)

/-- The next block or row of the fold into the parent's objects starts, or the join completes. -/
def Mach.nextFold (m : Mach) (mem : Memory) (h c k : Nat) (f : Family) (n b : Nat) : Mach :=
  match f.nextWork none (f.table.length + 1) n b with
  | some (n, b) => m.startFold mem h c k f n b
  | none => m.dropFamily h f.parent

/-- The parent's tiles that a fold needs resolved. -/
def Family.tilesOf (f : Family) (x : Ctx) : List TileRef :=
  ((f.table.filter (·.tile)).map fun e => (⟨e.base, x.tl.getD e.base .unset⟩ : TileRef)).filter (·.tile.occupied)

/-- The fold into the parent's objects begins, once its tiles can be resolved: a void vector or a trapped resolve faults in
the parent's context (R89, R97). -/
def Mach.beginFold (m : Mach) (mem : Memory) (h c k : Nat) (f : Family) : Mach :=
  let x := m.ctx c k
  let occ := f.tilesOf x
  let fvs := occ.flatMap (·.vectors)
  let st (i : Nat) : FvState := m.fvState c k i
  match fvs.find? fun p => st p.1 == .void with
  | some p => (m.takeTrap c k (trap5 .factorVoid 0 p.2)).makeReady c k
  | none =>
    if fvs.any fun p => st p.1 == .pending then m
    else if !occ.isEmpty && (m.part h).frTrap && !x.passForced then
      (m.takeTrap c k ⟨.brk, 1, 0, 5, true, false⟩).makeReady c k
    else
      let m := m.onCtx c k fun x =>
        { (occ.foldl (fun x r => x.resolveTile r.tile) x).countForced occ.length with
          tl := occ.foldl (fun tl r => modifyAt Tile.bare r.index tl) x.tl }
      let m := m.onFamily h f.parent fun f => { f with busy := true, final := true }
      m.nextFold mem h c k f 0 0

/-- Whether the fold of a family into the parent's objects can begin. -/
def Mach.foldReady (m : Mach) (c k : Nat) (f : Family) : Bool :=
  (m.ctx c k).status == .blocked .join && !f.busy && f.folded == f.kids.length
    && !((m.core c).mx.any (·.ctx == k)) && !((m.core c).tf.any (·.ctx == k))

/-- JOIN_COMPLETE (R343): the fold into the parent's objects goes on by a block or row; after the last the family is gone and
the join complete. -/
def execJoinComplete (part parent : Nat) (s : State) : Out :=
  let m := s.mach
  endEvent s (match m.family part parent, m.findUnit part parent with
    | some f, some (c, k) =>
      if f.suspended then m
      else if f.busy && f.final then
        if m.cursorDown f then m.again (.joinComplete part parent)
        else
        let m := m.showResumed part f
        let f := { f with resuming := false }
        let e := f.table.getD f.entry default
        match f.target with
        | none => m.nextFold s.mem part c k f f.entry f.block
        | some (keys, acc) =>
          if m.cycle < f.stepEnd then m.post f.stepEnd (.joinComplete part parent)
          else
            let m := if e.tile then foldParentTile m c k f f.entry f.block e
              else (foldObject s.mem m part f f.entry f.block e keys acc).writeCursor e (f.cursorAfter none f.entry f.block)
            m.nextFold s.mem part c k { f with target := none } f.entry (f.block + 1)
      else if !m.foldReady c k f then m
      else if f.any then if m.cursorDown f then m else m.beginFold s.mem part c k f
      else m.dropFamily part parent
    | _, _ => m)

/-- A suspended step goes on at its cursor, which no longer shows it as suspended, at once or when it can be written (R320, R322,
R335). -/
def Mach.resumeMerge (m : Mach) (h : Nat) (f : Family) : Mach :=
  let wait := m.cursorDown f
  let m := (m.showResumed h { f with resuming := !wait }).onFamily h f.parent fun f =>
    { f with suspended := false, resuming := wait, stepEnd := m.cycle }
  m.post m.cycle (if f.final then .joinComplete h f.parent else .mergeStep h f.parent)

/-! ## Signatures (R38) -/

/-- One byte of the CRC-64, most significant bit first (log 132). -/
def crc64Step (c : BitVec 64) (b : Byte) : BitVec 64 :=
  (upFrom 0 8).foldl (fun c _ => if c.msb then (c <<< 1) ^^^ 0x42F0E1EBA9EA3693 else c <<< 1) (c ^^^ (b.setWidth 64 <<< 56))

/-- The bytes of block b of a region view. -/
def viewBytes (mem : Memory) (m : Mach) (h c : Nat) (u : UnitId) (n : Nat) (e : ViewEntry) (b : Nat) : List Byte :=
  let (lo, size) := e.part b
  match findBlock u.blocks n (e.line b) with
  | none => identityBytes m e size
  | some q => match deviceBlock mem m h c q.block with
    | some key => peekAll mem m (upFrom (key + lo % 64) size)
    | none => identityBytes m e size

/-- The rows of the tile views of a unit. -/
def Ctx.viewTiles (x : Ctx) (u : UnitId) : List (Nat × List (List Cell)) :=
  ((upFrom 0 u.views.length).zip u.views).filterMap fun p =>
    if p.2.tile then some (p.1, (upFrom 0 p.2.rows).map fun i => x.tileRow p.2.shape i) else none

/-- The signature of a unit's views. -/
def signature (mem : Memory) (m : Mach) (h c : Nat) (x : Ctx) (u : UnitId) : Word :=
  let tiles := x.viewTiles u
  let bytes := ((upFrom 0 u.views.length).zip u.views).flatMap fun p =>
    if p.2.tile then ((tiles.lookup p.1).getD []).flatten.flatMap fun c => bytesLE 4 c.toNat
    else (upFrom 0 p.2.blocks).flatMap (viewBytes mem m h c u p.1 p.2)
  bytes.foldl crc64Step 0

/-! ## Reruns and retired cores (R36, R38, R325) -/

/-- The children of a unit that starts anew are cancelled, and what they have merged is discarded. -/
def Mach.orphan (m : Mach) (h uid : Nat) : Mach :=
  let kids := ((m.unitsOf h).filter fun u => u.parent == some uid).map (·.uid)
  let m := m.dropFamily h uid
  let m := m.cancelFrom h kids
  ((m.work h).batches.filter fun b => b.parent == some uid).foldl (fun m b => m.dropUnits b fun _ => true) m

/-- A unit runs again in its context from its first bundle, its views discarded, as `u` describes it. Requests to save it and a
cancel that it has not stopped for stay with the unit (R14, R297). The second run of a verified unit starts again alone (log 129). -/
def Mach.restart (m : Mach) (c k : Nat) (u : UnitId) : Mach :=
  let h := partOf c
  let (uid, m) := (m.orphan h u.uid).newId
  let m := (m.switchOut c k).dropRings c
  let m := match u.parent with
    | some q => m.onFamily h q (·.onKid u.spawn u.index fun kid => { kid with uid := uid })
    | none => m
  let keep := (m.ctx c k).pend
  let buffer := (m.ctx c k).buffer
  m.onCtx c k fun old =>
    { m.unitCtx h old { u with uid := uid, blocks := [] } (m.cycle + 1) with
      pend := keep, buffer := buffer, preempt := old.preempt, cancelled := old.cancelled
      children := if old.cancelled then Counter.zero.request else Counter.zero }

/-- A unit that has been dropped stands among those to be placed, in its original order of acceptance (R325). -/
def Mach.placeBack (m : Mach) (h : Nat) (u : UnitId) : Mach :=
  let m := m.freeBlocks h (u.blocks ++ u.firstBlocks)
  let old := (m.work h).batches.find? (·.id == u.batch)
  let b : Batch := old.getD ⟨u.batch, h, none, u.depth, u.handle, u.packet, u.parent, u.spawn, u.views, u.packet.units, [], []⟩
  let b := { b with again := b.again ++ [(u.index, u.errors)] }
  m.onWork h fun w => { w with batches :=
    if old.isSome then w.batches.map fun q => if q.id = b.id then b else q else b :: w.batches }

/-- A started unit is dropped with its views and placed again as unstarted. -/
def Mach.placeAgain (m : Mach) (h : Nat) (u : UnitId) : Mach := (m.orphan h u.uid).placeBack h u

/-- A core is retired (R325): its units are placed again, be one the parent of another (log 127), but for those that a cancel has
reached, which end (R14); its rings, traverse queue and B records are lost. -/
def Mach.retireCore (m : Mach) (c : Nat) : Mach :=
  let h := partOf c
  let units := ((m.core c).ctxs.filter (!·.cancelled)).filterMap (·.unit)
  let cancelled := ((m.core c).ctxs.filter (·.cancelled)).filterMap (·.unit)
  let saved := ((m.work h).saves.filter (·.core == c)).map (·.unit)
  let m := (upFrom 0 8).foldl (fun m k => (m.leaveBlocked c k h false).2) m
  let m := m.onWork h fun w => { w with saves := w.saves.filter (·.core != c) }
  let m := m.onCore c fun co =>
    { Core.reset with
      ctxs := co.ctxs.map fun x => { Ctx.reset with pend := x.pend, buffer := x.buffer }
      dicts := co.dicts, curDict := co.curDict, tlb := co.tlb, nextJob := co.nextJob, retired := true }
  let m := (units ++ saved).foldl (fun m u => m.orphan h u.uid) m
  let m := (units ++ saved).foldl (fun m u => m.placeBack h u) m
  cancelled.foldl (fun m u => m.countCancelled h u) m

/-! ## The end of a unit (R38, R169) -/

/-- A unit's views are handed to the merge engine, and it counts in DONE. -/
def Mach.handOver (m : Mach) (h : Nat) (u : UnitId) (blocks : List ViewBlock) (tiles : List (Nat × List (List Cell))) : Mach :=
  let m := m.onWork h (·.count u.level fun c => { c with done := c.done + 1 })
  let m := match u.parent with
    | none => m
    | some q =>
      let m := m.onUnit h q fun x => { x with children := { x.children with done := x.children.done + 1 } }
      if (m.family h q).isSome then
        (m.onFamily h q (·.onKid u.spawn u.index fun kid =>
          { kid with state := .merged, doneAt := m.cycle, blocks := blocks, tiles := tiles })).familyGoesOn h q
      else m.freeBlocks h blocks
  m.settle h

/-- The unit in context k of core c, whose `sy.merge` has issued, ends: a verified unit starts its second run, or its two
signatures are compared. -/
def Mach.endUnit (m : Mach) (mem : Memory) (c k : Nat) (u : UnitId) : Mach :=
  let h := partOf c
  let x := m.ctx c k
  let tiles := x.viewTiles u
  if !u.packet.verify then ((m.freeCtx c k).handOver h u u.blocks tiles).postStart h
  else
    let sig := signature mem m h c x u
    if u.run = 0 then m.restart c k { u with run := 1, sig1 := sig, firstBlocks := u.blocks, firstTiles := tiles }
    else if sig = u.sig1 then
      (((m.freeBlocks h u.blocks).freeCtx c k).handOver h u u.firstBlocks u.firstTiles).postStart h
    else
      let rec_ := faultRecord 0x07 0x0D 0 (masterWord c 0 k) (word x.pc) 0 0 0 4 m.cycle
      ((m.retireCore c).report h rec_).postStart h

/-- Whether a unit whose `sy.merge` has issued can end: its engine commands and privileged operation are over and its
accesses have performed. -/
def Mach.mergeReady (m : Mach) (c k : Nat) : Bool :=
  (m.ctx c k).status == .merging && !((m.core c).mx.any (·.ctx == k)) && !((m.core c).tf.any (·.ctx == k))
    && m.coveredDone c k 1 (m.ids + 1) && (m.ctx c k).privOp.isNone

/-- What is left of `sy.merge` once it has issued (R169): the release, the hand-over and the count. -/
def mergeEnd (core ctx : Nat) (s : State) : Out :=
  let m := s.mach
  endEvent s (match (m.ctx core ctx).unit with
    | some u => if m.mergeReady core ctx then m.endUnit s.mem core ctx u else m
    | none => m)

end Sys2Proof.Machine
end

