-- ==== Sys2Proof/Machine/Save.lean ====
section
/-!
DEFINITION. Units saved at waypoints and resumed (spec/17_scheduling.md R298-R302; spec/04_pending_factors.md R98).
-/

namespace Sys2Proof.Machine

/-! ## What a record names live (R294) -/

/-- Bit k of a mask in a record: word `w`, from bit `lo` on. -/
def liveBit (r : List Word) (w lo k : Nat) : Bool := bit (r.getD w 0).toNat (lo + k)

/-- Keeps the elements of a list whose bit is set, and takes the others from a fresh list. -/
def keepLive {α : Type} (live : Nat → Bool) (fresh old : List α) : List α :=
  ((upFrom 0 old.length).zip (fresh.zip old)).map fun p => if live p.1 then p.2.2 else p.2.1

/-- The accumulator rows covered by live descriptors. -/
def liveRows (x : Ctx) (r : List Word) : List Nat :=
  (upFrom 0 x.acc.length).filter fun i => ((upFrom 0 32).zip x.tl).any fun p =>
    liveBit r 5 32 p.1 && p.2.isSet && p.2.row0 ≤ i && i < p.2.row0 + p.2.rows

/-- How many of the first n bits of a live mask are set. -/
def liveCount (r : List Word) (w lo n : Nat) : Nat := ((upFrom 0 n).filter (liveBit r w lo)).length

/-- The save size (R299). -/
def saveBytes (x : Ctx) (r : List Word) : Nat :=
  1536 + 32 * liveCount r 2 0 64 + 1024 * liveCount r 3 0 x.v.length + 32 * liveCount r 6 56 x.vm.length
    + 32 * liveCount r 5 32 32 + 1024 * (liveRows x r).length + 4160 * liveCount r 4 0 x.fv.length

/-- Whether the save holds a pending factor vector. -/
def savesPending (x : Ctx) (r : List Word) : Bool :=
  ((upFrom 0 x.fv.length).zip x.fv).any fun p => liveBit r 4 0 p.1 && p.2.state == .pending

/-- The cells of a context's rows that belong to its own tile views, which a saved child keeps (R329). -/
def Ctx.keepViewTiles (new old : Ctx) : Ctx :=
  (old.ownViews.filter (·.tile)).foldl (fun z e =>
    (upFrom 0 e.rows).foldl (fun z i => z.setTileRow e.shape i (old.tileRow e.shape i))
      { z with tl := modifyAt (fun _ => old.tl.getD e.base .unset) e.base z.tl }) new

/-- The state a saved unit will have once it is restored (R299, R301): the state of R39, with what the save names. -/
def Mach.savedImage (m : Mach) (h : Nat) (x : Ctx) (u : UnitId) (r : List Word) : Ctx :=
  let y := m.unitCtx h x u 0
  let rows := liveRows x r
  let stub := wbits r 1 47 0
  let z := { y with
    g := keepLive (liveBit r 2 0) y.g x.g
    p := x.p
    arms := x.arms
    tl := keepLive (liveBit r 5 32) y.tl x.tl
    v := keepLive (liveBit r 3 0) y.v x.v
    vm := keepLive (liveBit r 6 56) y.vm x.vm
    fv := keepLive (liveBit r 4 0) y.fv x.fv
    acc := keepLive rows.contains y.acc x.acc
    cb := x.cb
    tx := x.tx
    rx := x.rx
    csw := x.csw
    ports := x.ports
    pc := if stub = 0 then x.pc else stub / 16 * 16
    loop := if stub = 0 then x.loop else { x.loop with active := false }
    stub := if stub = 0 then none else some ⟨x.pc, x.loop⟩
    ranges := x.ranges
    prio := x.ownPrio
    ownPrio := x.ownPrio
    priv := x.priv
    spawns := x.spawns
    children := x.children
    views := x.views
    brec := x.brec
    peerOut := x.peerOut
    hold := x.hold
    bundleNo := 2
    scales := ([false, true].filterMap fun isB => (x.effectiveScale isB).map fun c => ⟨isB, c, 0⟩) }
  z.keepViewTiles x

/-! ## UNIT_SAVE (R298) -/

/-- Whether everything a save must wait for has come (step 2 of R298). -/
def Ctx.settled (x : Ctx) : Bool :=
  x.landing.isEmpty && x.loads.isEmpty && x.rxReserved == 0 && x.pend.isEmpty && x.buffer.isEmpty

/-- The slots of a partition's save pool (R300). -/
def Work.slots (w : Work) : Nat := min (6144 / w.slotKb) 160

/-- The slots in use: units saved, and saves being written. -/
def Mach.slotsTaken (m : Mach) (h : Nat) : Nat :=
  (m.work h).saves.length + ((partCores h).flatMap fun c => (m.core c).ctxs.filter (·.saveSet)).length

/-- The cycles that a save area takes, either way. -/
def saveCycles (bytes : Nat) : Nat := 40 + ceilDiv bytes 256

/-- The save of a unit is written: it joins the resume list, and its context is free, or reserved for its pending vectors. -/
def Mach.finishSave (m : Mach) (c k : Nat) (u : UnitId) : Mach :=
  let h := partOf c
  let x := m.ctx c k
  let keep := savesPending x x.record
  let v : Save := ⟨c, if keep then some k else none, none, u, m.savedImage h x u x.record, saveBytes x x.record, []⟩
  let m := m.onWork h fun w => { w with saves := w.saves ++ [v] }
  let m := m.freeCtx c k
  let m := if keep then m.onCtx c k fun y => { y with status := .reserved, v := x.v, vm := x.vm, fv := x.fv, acc := x.acc } else m
  (if x.cancelled then m.cancelSave h v else m).postStart h

/-- UNIT_SAVE (R298): once all that is outstanding has come, the save begins if a slot can hold it, and ends when its bytes
have been written. -/
def execUnitSave (core ctx : Nat) (s : State) : Out :=
  let m := s.mach
  let x := m.ctx core ctx
  let h := partOf core
  endEvent s (match x.unit with
    | none => m
    | some u =>
      if x.status != .saving then m
      else if x.saveSet then m.finishSave core ctx u
      else if !x.settled then m
      else
        let n := saveBytes x x.record
        if (m.work h).slotKb * 1024 < n ∨ (m.work h).slots ≤ m.slotsTaken h then
          m.makeReady core ctx
        else
          (m.onCtx core ctx fun x => { x with saveSet := true }).post (m.cycle + saveCycles n) (.unitSave core ctx))

/-! ## UNIT_RESUME (R301, R302) -/

/-- A saved unit takes its context, in which its restore begins after the latency of R31. -/
def Mach.beginResume (m : Mach) (h : Nat) (v : Save) : Mach :=
  let k := v.reserved.getD (m.core v.core).freeCtx
  let due := m.cycle + 20 + saveCycles v.bytes
  let m := m.onCtx v.core k fun old =>
    { Ctx.reset with status := .restoring, v := v.image.v, vm := v.image.vm, fv := v.image.fv, acc := v.image.acc,
                     halted := old.halted, fqFrozen := old.fqFrozen, fqHalted := old.fqHalted }
  (m.onWork h fun w => { w with saves := w.saves.map fun q =>
    if q.unit.uid = v.unit.uid then { q with reserved := some k, due := some due } else q }).post due
      (.unitResume h v.unit.uid)

/-- The restore is over: held contributions combine in the order in which they arrived, and the unit goes on. -/
def Mach.finishResume (m : Mach) (h : Nat) (v : Save) : Mach :=
  let k := v.reserved.getD 0
  let x := v.held.foldl (fun x p => (x.contribute p.1 p.2.1 p.2.2).1) v.image
  let m := m.onCtx v.core k fun old =>
    { x with status := .ready, readySince := m.cycle, issueAt := m.cycle, quantum := (m.work h).quantum,
             wpMax := (m.work h).wpMax, halted := old.halted, fqFrozen := old.fqFrozen, fqHalted := old.fqHalted }
  m.onWork h fun w => { w with saves := w.saves.filter (·.unit.uid != v.unit.uid) }

/-- UNIT_RESUME (R301). -/
def execUnitResume (part uid : Nat) (s : State) : Out :=
  let m := s.mach
  endEvent s (match (m.work part).saves.find? fun v => v.unit.uid == uid with
    | none => m
    | some v =>
      match v.due with
      | some t => if t ≤ m.cycle then m.finishResume part v else m
      | none =>
        match m.nextStart part with
        | some (.saved q) => if q.unit.uid = uid then (m.beginResume part v).postStart part else m
        | _ => m)

/-- The contributions that the bank of a partition holds for its saved units (R302). -/
def Work.heldCount (w : Work) : Nat := (w.saves.map (·.held.length)).foldl (· + ·) 0

/-- What becomes of a contribution to a saved unit (R302): where the hold area has room, what it will do when the unit resumes,
after those held before it; else it voids a vector that is pending and is discarded by another (DEDUCED, log 120). -/
def Mach.heldFate (m : Mach) (h c k fv : Nat) (op : Option FvOp) (values : List (BitVec 40)) : FvFate :=
  match (m.work h).saves.find? fun v => v.core == c && v.reserved == some k with
  | none => .discarded
  | some v =>
    if (m.work h).heldCount < 1024 then
      ((v.held.foldl (fun x p => (x.contribute p.1 p.2.1 p.2.2).1) v.image).contribute fv op values).2
    else if (v.image.fv.getD fv .zero).state = .pending then .voided
    else .discarded

/-- A contribution addressed to the context of a saved unit is held, up to 1,024 of a bank; beyond, its vector becomes void
with VCAUSE 0x03 (R302). -/
def Mach.holdContribution (m : Mach) (h c k fv : Nat) (op : Option FvOp) (values : List (BitVec 40)) : Mach :=
  let keep (v : Save) : Save :=
    if v.core = c ∧ v.reserved = some k then
      if (m.work h).heldCount < 1024 then { v with held := v.held ++ [(fv, op, values)] }
      else
        let spoil (f : FactorVec) : FactorVec := if f.state = .pending then f.makeVoid 3 else f
        { v with image := { v.image with fv := modifyAt spoil fv v.image.fv } }
    else v
  m.onWork h fun w => { w with saves := w.saves.map keep }

end Sys2Proof.Machine
end

