-- ==== Sys2Proof/Machine/Xe.lean ====
section
/-!
DEFINITION. The traverse engine (spec/11_ops_memory_engines.md R229-R241, R344; spec/06_ordering.md R124;
spec/18_translation_faults.md R321): job cards, their checks and promises, when a job begins, its transfers,
decompression and dictionaries, completion, cancel and suspension; and what arrives at a context or job: replies and
contributions (spec/04_pending_factors.md R85).
-/

namespace Sys2Proof.Machine

/-! ## The card (R230, R231) -/

/-- A field of word i of a card. -/
def Job.w (j : Job) (i hi lo : Nat) : Nat := wbits j.card i hi lo
/-- KIND. -/
def Job.kind (j : Job) : Nat := j.w 0 2 0
/-- E, the bytes of an element. -/
def Job.esize (j : Job) : Nat := 2 ^ j.w 0 10 8
/-- Whether the source is at a peer. -/
def Job.srcPeer (j : Job) : Bool := j.w 0 4 3 == 1
/-- Whether the destination is at a peer. -/
def Job.dstPeer (j : Job) : Bool := j.w 0 6 5 == 1
/-- PEER0. -/
def Job.peer0 (j : Job) : Nat := j.w 0 55 48
/-- SRC. -/
def Job.src (j : Job) : Nat := j.w 1 47 0
/-- DST. -/
def Job.dst (j : Job) : Nat := j.w 2 47 0
/-- COUNT of level l. -/
def Job.count (j : Job) (l : Nat) : Nat := j.w (4 + 2 * l) 31 0
/-- SSTRIDE of level l. -/
def Job.sstride (j : Job) (l : Nat) : Int := sint 32 (j.w (4 + 2 * l) 63 32)
/-- DSTRIDE of level l. -/
def Job.dstride (j : Job) (l : Nat) : Int := sint 32 (j.w (5 + 2 * l) 31 0)
/-- PCOEF of level l. -/
def Job.pcoef (j : Job) (l : Nat) : Int := sint 16 (j.w (5 + 2 * l) 47 32)
/-- The operation word. -/
def Job.opw (j : Job) : Word := j.card.getD 21 0
/-- The levels. -/
def levels : List Nat := upFrom 0 6
/-- The transfers of a card. -/
def Job.transfers (j : Job) : Nat := (levels.map j.count).foldl (· * ·) 1
/-- Ranges: base and length. -/
abbrev Span := Nat × Nat
/-- The read footprint. -/
def Job.readSpan (j : Job) : Span := (j.w 16 47 0, j.w 17 31 0)
/-- The claimed slot of a ring fill, in a core. -/
def Core.slotSpan (co : Core) (j : Job) : Span :=
  match j.ring with
  | some (b, i) => match co.ring b with
    | some r => (r.slotAddr i, r.slot)
    | none => (0, 0)
  | none => (0, 0)
/-- The write footprint: of a ring fill the slot it has claimed (R124, R230). -/
def Core.writeSpan (co : Core) (j : Job) : Span := if j.kind = 4 then co.slotSpan j else (j.w 18 47 0, j.w 19 31 0)

/-- The iteration of level l in transfer `idx` (R232): the innermost varies fastest. -/
def Job.iteration (j : Job) (idx l : Nat) : Nat :=
  idx / ((upFrom 0 l).map j.count).foldl (· * ·) 1 % j.count l

/-- A sum over the levels. -/
def Job.sum (j : Job) (idx : Nat) (f : Nat → Int) : Int := (levels.map fun l => j.iteration idx l * f l).foldl (· + ·) 0

/-- s of transfer `idx` (R232). -/
def Job.srcAt (j : Job) (idx : Nat) : Nat := ((j.src + j.sum idx j.sstride) % 2 ^ 48).toNat
/-- t of transfer `idx`. -/
def Job.dstAt (j : Job) (idx : Nat) : Nat := ((j.dst + j.sum idx j.dstride) % 2 ^ 48).toNat
/-- p of transfer `idx`. -/
def Job.peerAt (j : Job) (idx : Nat) : Nat := ((j.peer0 + j.sum idx j.pcoef) % 192).toNat

/-- The reduction of a KIND 2 job, without its operand (R231, R233): relaxed, package scope when local and domain scope when
peer. A handler's second operand is left open (log 32). -/
def Job.reduction (j : Job) : Atomic :=
  let o := j.opw
  let hv := bits o 11 11 == 1
  ⟨if hv then .hnd else .red, bits o 3 0, bits o 6 4, bits o 7 7 == 1, if j.dstPeer then 2 else 1, 0, bits o 16 12, 0,
    Config.reductionB⟩

/-! ## Words of a job (R236, R237, R321) -/

/-- The job word. -/
def Job.word (j : Job) : Word := Machine.word (j.num * 2 ^ 48 + j.promise % 2 ^ 48)

/-- The code of a state. -/
def JobState.code : JobState → Nat
  | .queued => 0 | .running => 1 | .complete => 2 | .failed => 3 | .suspended => 4 | .cancelled => 5

/-- The transfers of a job that have performed: every one below the first part, and those of the second. Those of a contribution do so
as it lands, however many of its elements have been read (R344; log 80). -/
def Job.performed (j : Job) : Nat × List Nat := if j.kind = 3 ∧ j.landed ≠ .yes then (0, []) else (j.n, j.ahead)

/-- The job state word. -/
def Job.stateWord (j : Job) : Word :=
  Machine.word (j.state.code * 2 ^ 56 + j.code * 2 ^ 48 + (j.performed.1 + j.performed.2.length) % 2 ^ 48)

/-- The cursor (R321). -/
def Job.cursor (j : Job) : Word :=
  let (n, ahead) := j.performed
  let mask := ((upFrom 0 16).filter fun m => ahead.contains (n + 1 + m)).foldl (fun v m => v + 2 ^ m) 0
  Machine.word (mask * 2 ^ 48 + n % 2 ^ 48)

/-! ## Checks at issue (R236) -/

/-- The lowest and highest destination offset of a card. -/
def Job.offsets (j : Job) : Int × Int :=
  let ends := levels.map fun l => ((j.count l : Int) - 1) * j.dstride l
  (j.dst + (ends.map (min 0)).foldl (· + ·) 0, j.dst + (ends.map (max 0)).foldl (· + ·) 0)

/-- BAD_SIZE. -/
def Job.badSize (j : Job) (slot : Option Nat) : Bool :=
  let t := bits j.opw 6 4
  j.w 0 10 8 == 7
    || (j.kind == 2 && t != 7 && typeSize t != j.esize)
    || (j.kind == 3 && (j.esize != 4 || 512 < j.transfers))
    || match slot with
      | some n => j.kind == 4 && j.transfers != 0 && (decide (j.offsets.1 < 0) || decide ((n : Int) - j.esize < j.offsets.2))
      | none => false

/-- BAD_ALIGN. -/
def Job.badAlign (j : Job) : Bool :=
  let al := min j.esize 16
  let off (v : Int) : Bool := v % al != 0
  let active := levels.filter fun l => 1 < j.count l
  j.dst % al != 0 || active.any (fun l => off (j.dstride l))
    || (j.kind != 1 && (j.src % al != 0 || active.any fun l => off (j.sstride l)))

/-- BAD_SPACE. -/
def Job.badSpace (j : Job) : Bool :=
  1 < j.w 0 4 3 || 1 < j.w 0 6 5 || (j.srcPeer && j.dstPeer) || (j.kind == 1 && j.srcPeer) || (j.kind == 4 && j.dstPeer)
    || (j.kind == 3 && levels.any fun l => j.pcoef l != 0) || 191 < j.peer0

/-- The ring that a card names for a context. -/
def Job.namedRing (j : Job) (x : Ctx) : Option Nat := if j.w 0 19 19 = 1 then x.cb.getD (j.w 0 23 20) none else none

/-- The barrier operand word. -/
def Job.bar (j : Job) : Word := Machine.word (j.w 20 31 0)

/-- The refusal code of a card, 0 where it is accepted. -/
def Job.refusal (j : Job) (c : Nat) (slot : Option Nat) (bound : Bool) : Nat :=
  let tcore := bits j.opw 47 40
  if 5 ≤ j.kind then 0x30
  else if j.badSize slot then 0x31
  else if j.badAlign then 0x32
  else if j.badSpace then 0x33
  else if j.kind = 4 ∧ !bound then 0x34
  else if j.kind = 2 ∧ !j.reduction.legal then 0x35
  else if j.kind = 3 ∧ (159 < tcore || (!j.dstPeer && !inPart (partOf c) tcore)) then 0x36
  else if j.w 0 18 18 = 1 ∧ (159 < barrierCore j.bar c || !inPart (partOf c) (barrierCore j.bar c)) then 0x37
  else 0

/-! ## The promise (R239) -/

/-- The uncontended figure of an address's class, an HBM line counting as absent; an address of no class has none. -/
def classCycles (c a : Nat) : Option Nat :=
  match windowOf a with
  | .vault => some (vaultCycles c (vaultCore a))
  | .hbm => some (hbmCycles false)
  | .host => some hostCycles
  | _ => none

/-- Lsrc, or none where the spec gives no figure. -/
def Job.lsrc (j : Job) (c : Nat) : Option Nat := if j.srcPeer then some 2500 else classCycles c j.src

/-- Ldst, or none where the spec gives no figure. -/
def Job.ldst (j : Job) (c : Nat) : Option Nat :=
  if j.kind = 3 then some (if j.dstPeer then 2524 else 24)
  else if j.dstPeer then some 2500
  else classCycles c (if j.kind = 4 then j.ringBase else j.dst)

/-- The promise of a job that issues in this cycle; a class without a figure counts a free value (log 33). -/
def Mach.promiseOf (m : Mach) (c : Nat) (j : Job) : Nat × Mach :=
  let s0 := (((m.core c).jobs.filter (·.live)).getLast?).elim (m.cycle + 16) fun q => max (m.cycle + 16) q.promise
  let b := ceilDiv (j.esize * j.transfers) (if j.kind = 1 then 16 else 64)
  match j.lsrc c, j.ldst c with
  | some a, some d => (s0 + a + d + b, m)
  | _, _ => (s0 + (Config.freeWord m.fresh).toNat, { m with fresh := m.fresh + 1 })

/-! ## xe.go (R236) -/

/-- The next JOB number from n on: not 0, and of no record that is kept. -/
def Core.freeJob (co : Core) : Nat → Nat → Nat
  | n, 0 => n
  | n, fuel + 1 => if n = 0 ∨ co.jobs.any (·.num == n) then co.freeJob ((n + 1) % 2 ^ 16) fuel else n

/-- A word reaches xe.res 16 cycles after issue. -/
def Mach.xeSay (m : Mach) (w : Word) : Mach :=
  let (tag, m) := m.newId
  (m.awaitResult .xe tag).post (m.cycle + 16) (.xeResWrite m.issue.core m.issue.ctx tag w)

/-- A job from a card, before it has a number. -/
def newJob (m : Mach) (card : List Word) (addr : Nat) : Job where
  num := 0
  ctx := m.issue.ctx
  uid := (m.me.unit.map (·.uid)).getD 0
  part := m.myPart
  priv := m.me.priv
  card := card
  cardAddr := addr
  state := .queued
  code := 0
  begun := false
  n := 0
  ahead := []
  issued := 0
  total := 0
  flights := []
  readyAt := m.cycle + 16
  gen := if wbits card 0 2 0 = 1 then some m.myCore.curDict else none
  ring := none
  ringBase := 0
  values := []
  landed := .no
  stream := []
  streamPos := 0
  nextBlock := wbits card 1 47 0
  mark := 0
  promise := 0
  stop := false
  fault := none

/-- xe.go (R236, R261). -/
def execXeGo (o : TOp) (s : State) : Out :=
  triggerW o s fun mem m t =>
    let c := m.issue.core
    let a := t.toNat
    if a % 64 ≠ 0 ∨ windowOf a ≠ .vault ∨ vaultCore a ≠ c ∨ vaultCore (a + 255) ≠ c then alignFault a
    else if 32 ≤ (m.myCore.jobs.filter (·.live)).length then .error (.block .xeQueue)
    else
      let card := (upFrom 0 32).map fun i => word (natLE ((upFrom (a + 8 * i) 8).map mem.read))
      let j := newJob m card a
      let ring := j.namedRing m.me
      let slot := (ring.bind m.myCore.ring).map (·.slot)
      let code := j.refusal c slot ring.isSome
      if code ≠ 0 then .ok (m.xeSay (word code))
      else
        let (n, m) := m.newId
        let j := { j with num := m.myCore.freeJob m.myCore.nextJob 400, total := j.transfers, ringBase := ring.getD 0, mark := n }
        let (p, m) := m.promiseOf c j
        let j := { j with promise := p }
        let m := m.onMyCore fun co => { co with jobs := co.jobs ++ [j], nextJob := (j.num + 1) % 2 ^ 16 }
        .ok (m.xeSay j.word)

/-- XE_RES_WRITE (R236, R334). -/
def execXeResWrite (core ctx tag : Nat) (value : Word) (s : State) : Out :=
  endEvent s (s.mach.onCtx core ctx (·.arrive .xe tag value))

/-- xe.stat (R237). -/
def execXeStat (o : TOp) (s : State) : Out :=
  triggerW o s fun _ m t =>
    .ok (m.xeSay (match m.myCore.jobs.find? (·.num == bits t 63 48) with
      | some j => j.stateWord
      | none => word (6 * 2 ^ 56)))

/-! ## Eligibility (R124, R229, R235) -/

/-- Whether two spans share a byte; an empty one shares none (R230). -/
def Span.meets (p q : Span) : Bool := p.2 != 0 && q.2 != 0 && p.1 < q.1 + q.2 && q.1 < p.1 + p.2

/-- Whether a segment of keys may lie in a span of addresses: exactly in a vault; in the HBM and host windows, which are
translated, whenever the span enters the window (log 34). -/
def segInSpan (p : Span) (g : Seg) : Bool :=
  if p.2 = 0 then false
  else if g.1 < hbmStart then Span.meets p g
  else if g.1 < hostStart then p.1 < hostStart && hbmStart < p.1 + p.2
  else hostStart < p.1 + p.2

/-- Whether every access of context k numbered up to `mark` that may touch one of the spans has performed. -/
def Mach.accessesDone (m : Mach) (c k mark : Nat) (spans : List Span) : Bool :=
  let x := m.ctx c k
  let co := m.core c
  let hit (g : Seg) : Bool := spans.any fun p => segInSpan p g
  let keys (l : List Nat) : Bool := l.any fun key => hit (key, 1)
  !((x.pend ++ x.buffer).any fun e => e.seq ≤ mark && keys e.keys)
    && !(x.loads.any fun l => l.tag ≤ mark && l.val.isNone && keys l.keys)
    && !(m.host.any fun q => q.core == c && q.ctx == k && q.seq ≤ mark && keys q.keys)
    && !(co.mx.any fun q => q.ctx == k && q.id ≤ mark && q.state != .writing && (q.segs ++ q.metaSegs).any hit)
    && !(co.tf.any fun q => q.ctx == k && q.id ≤ mark && (q.rows.any (·.any hit) || keys (q.side.map (·.1))))
    && !(m.sent.any fun r => r.peer == m.pkg && r.who.queue == some (c, k) && r.id ≤ mark
      && spans.any fun p => p.2 != 0 && Span.meets p (r.lo, r.size))

/-- Whether no earlier job or dictionary load of a core stands against a read span and a write span. -/
def Core.clearBefore (co : Core) (mark : Nat) (r w : Span) : Bool :=
  !(co.jobs.any fun q => q.live && q.mark < mark
      && (Span.meets (co.writeSpan q) r || Span.meets q.readSpan w || Span.meets (co.writeSpan q) w))
    && !(co.dicts.any fun d => d.loading && d.mark < mark && Span.meets (d.lo, d.size) w)

/-- A job's spans as R124 checks them before it begins. -/
def Core.beginSpans (co : Core) (j : Job) : Span × Span := (j.readSpan, if j.kind = 4 then (0, 0) else co.writeSpan j)

/-- Whether a job that has not begun is eligible, banks apart. -/
def Mach.eligibleJob (m : Mach) (c : Nat) (j : Job) : Bool :=
  let co := m.core c
  let (r, w) := co.beginSpans j
  j.readyAt ≤ m.cycle && m.accessesDone c j.ctx j.mark [r, w] && co.clearBefore j.mark r w
    && !(j.gen.any fun g => (co.dicts.getD g .empty).loading)
    && (j.kind != 4 || (match co.ring j.ringBase with
        | some q => q.slotState q.head == .free
        | none => false)
      && !(co.jobs.any fun q => q.live && !q.begun && q.kind == 4 && q.ringBase == j.ringBase && q.mark < j.mark)
      && !(co.ctxs.any fun x => match x.ticket with
        | some (w, _) => x.status != .free && w == .ringFree j.ringBase
        | none => false))

/-- The banks a ring fill needs. -/
def Core.jobBanks (co : Core) (j : Job) : Option Ring := if j.kind = 4 ∧ !j.begun then co.ring j.ringBase else none

/-- The job that a core begins next: a resumed one, else the earliest eligible. -/
def Mach.nextJob (m : Mach) (c : Nat) : Option Job :=
  let co := m.core c
  if co.jobsFrozen || co.jobsHalted || 4 ≤ (co.jobs.filter (·.state == .running)).length then none
  else match co.jobs.find? fun j => j.state == .queued && j.begun with
    | some j => some j
    | none => co.jobs.find? fun j => j.state == .queued && !j.begun && m.eligibleJob c j && (match co.jobBanks j with
      | some r => co.banksFree m.cycle (8 + j.num) r.banks || !(co.waiters.any (·.1 == 8 + j.num))
      | none => true)

/-- The cycles before the first transfer of a job: those of its local sides (R104). -/
def Job.fill (j : Job) (c : Nat) : Nat :=
  (if j.srcPeer then 0 else (classCycles c j.src).getD 0)
    + (if j.srcPeer || j.dstPeer || j.kind = 3 then 0 else (classCycles c (if j.kind = 4 then j.ringBase else j.dst)).getD 0)

/-- A job with nothing more to issue and nothing out completes, stops or is suspended in the next cycle; the last access of a
ring fill has performed, and its reservation is released (R107). -/
def Mach.jobGoesOn (m : Mach) (c num : Nat) : Mach :=
  match (m.core c).jobs.find? (·.num == num) with
  | some j =>
    if j.state == .running && j.flights.isEmpty && (j.total ≤ j.issued || j.code != 0 || j.stop || j.fault.isSome) then
      (if j.fault.isNone then m.release c j.mark else m).post (m.cycle + 1) (.jobComplete c num)
    else m
  | none => m

/-- JOB_BEGIN (R229, R236): the next job begins; a ring fill claims its slot and its banks, or starts to wait for them. -/
def execJobBegin (core : Nat) (s : State) : Out :=
  let m := s.mach
  endEvent s (match m.nextJob core with
    | none => m
    | some j =>
      let co := m.core core
      let start (j : Job) : Job := { j with state := .running, begun := true, readyAt := m.cycle + j.fill core }
      let go (m : Mach) (f : Job → Job) : Mach := ((m.onJob core j.num f).jobGoesOn core j.num).post m.cycle (.jobBegin core)
      match co.jobBanks j with
      | none => go m start
      | some r =>
        if co.banksFree m.cycle (8 + j.num) r.banks then
          go (m.onCore core fun co => (co.reserve (8 + j.num) j.mark r).onRing r.base (·.claim true))
            fun j => { start j with ring := some (r.base, r.head) }
        else (m.onCore core (·.awaitBanks (8 + j.num) r.banks)).post m.cycle (.jobBegin core))

/-! ## Decompression (R234) -/

/-- The nibbles of runs: one byte gives a run of its code. -/
def runNibbles (bs : List Byte) : List Nat :=
  bs.flatMap fun b => List.replicate (field b.toNat 7 4 + 1) (field b.toNat 3 0)

/-- Bytes from nibbles, low nibble first. -/
def packNibbles : List Nat → List Byte
  | lo :: hi :: rest => BitVec.ofNat 8 (lo + 16 * hi) :: packNibbles rest
  | _ => []

/-- Copies n bytes one at a time from d bytes before the end of the output, which is held last byte first over the dictionary;
none where the copy would start before the dictionary. -/
def copyBack (d : Nat) : Nat → List Byte → Option (List Byte)
  | 0, out => some out
  | n + 1, out =>
    match d with
    | 0 => none
    | e + 1 => match out[e]? with
      | some b => copyBack d n (b :: out)
      | none => none

/-- Decodes dictionary-LZ tokens: `out` is the output so far, last byte first, over the dictionary. -/
def lzTokens (dict : List Byte) : Nat → List Byte → List Byte → Option (List Byte)
  | 0, _, _ => none
  | _, [], out => some out
  | fuel + 1, t :: rest, out =>
    let v := t.toNat
    if v < 128 then
      let n := v + 1
      if rest.length < n then none else lzTokens dict fuel (rest.drop n) ((rest.take n).reverse ++ out)
    else match rest with
      | lo :: hi :: rest =>
        let d := lo.toNat + 256 * hi.toNat
        let n := v % 64 + 3
        if v < 192 then
          match copyBack d n out with
          | some out => lzTokens dict fuel rest out
          | none => none
        else if dict.length < d + n then none
        else lzTokens dict fuel rest (((dict.drop d).take n).reverse ++ out)
      | _ => none

/-- The output of a block's payload, none where it is in error. -/
def decodeBlock (dict : List Byte) (method outLen : Nat) (payload : List Byte) : Option (List Byte) :=
  match method with
  | 0 => if payload.length = outLen then some payload else none
  | 1 =>
    match lzTokens dict (payload.length + 1) payload dict.reverse with
    | some out =>
      let bs := out.reverse.drop dict.length
      if bs.length = outLen then some bs else none
    | none => none
  | 2 =>
    let nibs := runNibbles payload
    if nibs.length = 2 * outLen then some (packNibbles nibs) else none
  | _ => none

/-- Reads local bytes for a job. -/
def jobRead (mem : Memory) (m : Mach) (c : Nat) (j : Job) (a size : Nat) : Except Stop (List Byte × Mach) :=
  match rangePages (m.asking c (8 + j.num)) c j.part j.priv false a size with
  | .error e => .error e
  | .ok pages =>
    let segs := pages.map (·.1)
    .ok (peekAll mem m (segKeys segs), (m.allocPages pages).settleBarriers mem (barrierKeys segs))

/-- What a step of the stream gives: the job with more bytes, or an error in the stream. -/
def nextBlockOf (mem : Memory) (m : Mach) (c : Nat) (j : Job) : Except Stop (Option Job × Mach) := do
  let (hb, m) ← jobRead mem m c j j.nextBlock 8
  let h := word (natLE hb)
  let clen := bits h 31 8
  let (payload, m) ← if clen = 0 then pure ([], m) else jobRead mem m c j (j.nextBlock + 8) clen
  let dict := j.gen.elim [] fun g => ((m.core c).dicts.getD g .empty).bytes
  .ok (match decodeBlock dict (bits h 1 0) (bits h 47 32 + 1) payload with
    | some bs => some { j with stream := j.stream ++ bs, nextBlock := roundUp (j.nextBlock + 8 + clen) 8 }
    | none => none, m)

/-- Bytes lo to lo + n - 1 of the stream, decoding blocks until they are there: the job, and none for a stream in error. -/
def streamBytes (mem : Memory) (c lo n : Nat) : Nat → Mach → Job → Except Stop (Option (List Byte) × Job × Mach)
  | 0, m, j => .ok (none, j, m)
  | fuel + 1, m, j =>
    let drop := min (lo - j.streamPos) j.stream.length
    let j := { j with stream := j.stream.drop drop, streamPos := j.streamPos + drop }
    if j.streamPos = lo ∧ n ≤ j.stream.length then .ok (some (j.stream.take n), j, m)
    else match nextBlockOf mem m c j with
      | .error e => .error e
      | .ok (none, m) => .ok (none, j, m)
      | .ok (some j, m) => streamBytes mem c lo n fuel m j

/-! ## Transfers (R232, R233) -/

/-- Replaces the record of a job. -/
def Mach.setJob (m : Mach) (c : Nat) (j : Job) : Mach := m.onJob c j.num fun _ => j

/-- The job has issued transfer `idx`. -/
def Job.issue (j : Job) (idx : Nat) (f : Option Flight) : Job := { j with issued := idx + 1, flights := j.flights ++ f.toList }

/-- The next transfer of a job: those ahead of the cursor have performed already. -/
def Job.next (j : Job) : Nat := ((upFrom j.issued 18).find? fun i => !j.ahead.contains i).getD j.issued

/-- The destination of transfer `idx` in the own package. -/
def Core.place (co : Core) (j : Job) (idx : Nat) : Nat := if j.kind = 4 then (co.slotSpan j).1 + j.dstAt idx else j.dstAt idx

/-- Where transfer `idx` goes in the own package: nothing for a contribution or a peer. -/
def jobTarget (m : Mach) (c : Nat) (j : Job) (idx : Nat) : Except Stop (List Seg × Word) :=
  if j.dstPeer || j.kind = 3 then .ok ([], 0)
  else
    let t := (m.core c).place j idx
    if j.kind = 2 ∧ j.reduction.kind = .hnd ∧ windowOf t ≠ .hbm then alignFault t
    else rangeSegs (m.asking c (8 + j.num)) c j.part j.priv true t j.esize

/-- Whether a reduction of a job stands behind an atomic of the host port that has read its word and not written it (R118). -/
def Mach.reductionWaits (m : Mach) (j : Job) (segs : List Seg) : Bool :=
  j.kind == 2 && m.hostBusy (segKeys segs)

/-- A reduction of a local destination: through the network to its home, or at the host port. -/
def Mach.reduceAt (mem : Memory) (m : Mach) (c : Nat) (j : Job) (idx key : Nat) (operand : Word) : Mach :=
  let a := j.reduction
  if hostStart ≤ key then
    let n := typeSize a.type
    let (new, writes, _) := m.performOne a (typeExtend a.type (word (peekNat mem m key n))) (carry a operand)
    let m := if writes then m.writeBytes key (bytesLE n new.toNat) else m
    (m.onJob c j.num (·.perform idx)).jobGoesOn c j.num
  else
    let path := netPath c (homeRouter key)
    let (n, m) := m.newId
    (m.onJob c j.num fun j => { j with flights := j.flights.filter (·.idx != idx) ++ [⟨idx, 0, []⟩] }).enterNet
      ⟨n, key, a, .leaf (.job c j.ctx j.num idx) (carry a operand) (2 * path.length), path, m.cycle, false, j.part, none⟩

/-- What a transfer does with its element, once that has been read, at a destination in the own package. -/
def Mach.placeElement (mem : Memory) (m : Mach) (c : Nat) (j : Job) (idx : Nat) (segs : List Seg) (bs : List Byte) : Mach :=
  if j.kind = 2 then m.reduceAt mem c j idx ((segs.headD (0, 0)).1) (word (natLE bs))
  else if j.kind = 3 then
    (m.onJob c j.num fun j => { j.perform idx with values := j.values ++ [(idx, BitVec.ofNat 32 (natLE bs))] }).jobGoesOn c j.num
  else (((m.write ((segKeys segs).zip bs)).settleBarriers mem (segKeys segs)).onJob c j.num (·.perform idx)).jobGoesOn c j.num

/-- The header of a request that a job makes (R242, R331). -/
def Job.header (j : Job) (p op : Nat) : Nat :=
  let a := j.reduction
  let noReply := if op = 1 ∨ op = 5 then 2 ^ 7 else 0
  let fields := if op = 5 ∨ op = 6 then a.hnd * 2 ^ 43 + a.type * 2 ^ 40 + a.aop * 2 ^ 36 + b2n a.sat * 2 ^ 32 else 0
  p * 2 ^ 56 + fields + j.esize * 2 ^ 8 + noReply + op

/-- The request by which a transfer of element bytes reaches a peer (R233, R331): a write, a reduction, or a handler. -/
def Job.peerRequest (j : Job) (p addr : Nat) (bs : List Byte) : List Word × Nat :=
  if j.kind = 2 then
    let a := j.reduction
    if a.kind = .hnd then ([Machine.word (j.header p 6), Machine.word addr, Machine.word (natLE bs), a.b], 32)
    else (wireWords [Machine.word (j.header p 5), Machine.word addr, Machine.word (natLE bs)], 24)
  else
    ([Machine.word (j.header p 1), Machine.word addr] ++ (chunks 8 9 bs).map (fun b => Machine.word (natLE b)), 16 + bs.length)

/-- Hands a request of a job to its port. -/
def Mach.sendForJob (m : Mach) (c : Nat) (j : Job) (idx plane p : Nat) (ws : List Word) (size : Nat) (dst : List Seg) : Mach :=
  let (n, m) := m.newId
  (m.setJob c (j.issue idx (some ⟨idx, n, dst⟩))).launchRequest ⟨n, false, plane, p, .job c j.ctx j.num idx, ws, size⟩
    (bits (ws.getD 1 0) 47 0) j.esize

/-- The plane of a transfer to package p: none where p cannot be reached; it stalls while the send queue is full. -/
def jobRoute (m : Mach) (c p size : Nat) : Except Stop (Option Nat) :=
  match m.route c p with
  | none => .ok none
  | some plane => if p ≠ m.pkg ∧ !(m.peer plane p).room size then .error .stall else .ok (some plane)

/-- A job that meets an error issues nothing more (R232, R234, R237). -/
def Mach.failJob (m : Mach) (c num code : Nat) : Mach :=
  (m.onJob c num fun j => { j with code := if j.code = 0 then code else j.code }).jobGoesOn c num

/-- The element of transfer `idx`, read in the own package; none for a stream in error. -/
def jobElement (mem : Memory) (m : Mach) (c : Nat) (j : Job) (idx : Nat) : Except Stop (Option (List Byte) × Job × Mach) :=
  if j.kind = 1 then streamBytes mem c (idx * j.esize) j.esize (idx * j.esize + j.esize + 2) m j
  else match jobRead mem m c j (j.srcAt idx) j.esize with
    | .error e => .error e
    | .ok (bs, m) => .ok (some bs, j, m)

/-- A job whose element has been taken in cycle `now`: the stream of a compressed one gives 16 bytes a cycle (R234). -/
def Job.paced (j : Job) (now : Nat) : Job := { j with readyAt := if j.kind = 1 then now + ceilDiv j.esize 16 else j.readyAt }

/-- Transfer `idx` of a job (R233): done at once where both sides are local, handed on where one is at a peer. -/
def Mach.transfer (mem : Memory) (m : Mach) (c : Nat) (j : Job) (idx : Nat) : Except Stop Mach := do
  let p := j.peerAt idx
  let (dst, _) ← jobTarget m c j idx
  if j.srcPeer then
    match ← jobRoute m c p 16 with
    | none => .ok (m.failJob c j.num 0x44)
    | some plane =>
      .ok (m.sendForJob c j idx plane p [word (j.header p 0), word (j.srcAt idx)] 16 dst)
  else if j.dstPeer ∧ j.kind ≠ 3 then
    match ← jobRoute m c p (16 + max 16 j.esize) with
    | none => .ok (m.failJob c j.num 0x44)
    | some plane =>
      let (bs, j, m) ← jobElement mem m c j idx
      match bs with
      | none => .ok ((m.setJob c j).failJob c j.num 0x40)
      | some bs =>
        let (ws, size) := j.peerRequest p (j.dstAt idx) bs
        .ok (m.sendForJob c (j.paced m.cycle) idx plane p ws size [])
  else
    let _ ← if m.reductionWaits j dst then .error .stall else .ok ()
    let (bs, j, m) ← jobElement mem m c j idx
    match bs with
    | none => .ok ((m.setJob c j).failJob c j.num 0x40)
    | some bs =>
      let j := (j.issue idx none).paced m.cycle
      .ok ((m.setJob c j).placeElement mem c j idx dst bs)

/-- Whether the transfers of a job are peer writes, which the port delivers once they stand in its send queue (R331). -/
def Job.writesPeer (j : Job) : Bool := j.dstPeer && !j.srcPeer && j.kind != 3 && !(j.kind == 2 && j.reduction.kind == .hnd)

/-- The first transfer of a job that counts against the limit of R321: the cursor's, or of peer writes, the first that is not in its
send queue yet (log 35). -/
def Mach.firstOpen (m : Mach) (j : Job) : Nat :=
  if j.writesPeer then
    (extreme false ((j.flights.filter fun f => m.parked.any (·.id == f.id)).map (·.idx))).getD j.next
  else j.n

/-- Whether a running job can issue a transfer in this cycle: R124 for a claimed slot, and at most 17 transfers at or beyond
the first that is still open (R321). -/
def Mach.canTransfer (m : Mach) (c : Nat) (j : Job) : Bool :=
  let co := m.core c
  j.state == .running && j.next < j.total && j.code == 0 && !j.stop && j.fault.isNone && j.readyAt ≤ m.cycle
    && (j.kind != 4 || (m.accessesDone c j.ctx j.mark [co.slotSpan j] && co.clearBefore j.mark (0, 0) (co.slotSpan j)))
    && decide (j.next < m.firstOpen j + 17)

/-- Jobs from the one after the last served on, in turn (R229). -/
def Core.inTurn (co : Core) : List Job :=
  match findAt (fun j : Job => j.num == co.rr) 0 co.jobs with
  | some (i, _) => co.jobs.drop (i + 1) ++ co.jobs.take (i + 1)
  | none => co.jobs

/-- Whether a stop keeps the engine from the transfer only for now. -/
def Stop.passes : Stop → Bool
  | .raise _ => false
  | _ => true

/-- The transfer that the engine of a core makes in this cycle, with the walks that others need: the job, and the address. -/
def Mach.engineTurn (mem : Memory) (m : Mach) (c : Nat) : Option Job × List (Nat × Nat) :=
  let co := m.core c
  if co.jobsFrozen || co.jobsHalted then (none, [])
  else
    let l := (co.inTurn.filter (m.canTransfer c)).map fun j => (j, m.transfer mem c j j.next)
    let can (r : Except Stop Mach) : Bool := match r with
      | .ok _ => true
      | .error e => !e.passes
    let walks := l.filterMap fun p => match p.2 with
      | .error (.walk _ _ a) => some (p.1.num, a)
      | _ => none
    ((l.find? fun p => can p.2).map (·.1), walks)

/-! ## Completion, suspension, cancel (R238, R240, R241, R317) -/

/-- Records that a core keeps: those not over, and the 256 that ended last. -/
def keepJobs (l : List Job) : List Job :=
  let n := (l.filter (!·.live)).length
  let drop := (l.filter (!·.live)).take (n - 256)
  l.filter fun j => j.live || !drop.any (·.num == j.num)

/-- A job ends: its slot is full, its barrier credited unless it is cancelled, its flag set, word 0xF8 written (R238, R240). -/
def Mach.endJob (m : Mach) (c : Nat) (j : Job) (st : JobState) : Mach :=
  let j := { j with state := st, fault := none, stop := false }
  let m := match j.ring with
    | some (b, i) =>
      let full (q : RingSlot) : RingSlot := { q with state := .full, byJob := false }
      (m.onCore c (·.onRing b (·.setSlot i full))).release c j.mark
    | none => m
  let m := if j.w 0 18 18 = 1 ∧ st ≠ .cancelled then
      let key := barrierKey (barrierCore j.bar c) (bits j.bar 7 0)
      Mach.post { m with bars := m.bars ++ [⟨key, .credit (j.w 20 63 32), c, j.ctx, 0, m.cycle⟩] } m.cycle .barrierUnits
    else m
  let m := if j.w 0 27 27 = 1 then m.onUnit j.part j.uid (·.setFlag (j.w 0 31 28) true) else m
  let m := m.writeWord (j.cardAddr + 0xF8) j.stateWord.toNat
  m.onCore c fun co =>
    { co with jobs := keepJobs (co.jobs.filter (·.num != j.num) ++ [j])
              waiters := co.waiters.filter (·.1 != 8 + j.num) }

/-- A job as it stands once it is suspended: what it has not performed will be issued again, and its stream decoded again. -/
def Job.rewind (j : Job) : Job :=
  let (n, ahead) := j.performed
  { j with n := n, ahead := ahead, issued := n, values := [], stream := [], streamPos := 0, nextBlock := j.src, fault := none }

/-- A job is suspended: CURSOR is written and the fault reported (R241, R319, R320). -/
def Mach.suspendJob (m : Mach) (c : Nat) (j : Job) (t : Trap) : Mach :=
  let m := m.writeWord (j.cardAddr + 0xF0) j.cursor.toNat
  let handle := word (2 ^ 56 + c * 2 ^ 48 + j.num)
  (m.setJob c { j.rewind with state := .suspended }).report j.part
    (faultRecord 0x02 t.cause.code t.detail (masterWord c 1 0) j.word t.addr handle j.cursor 0 m.cycle)

/-- A transfer that faults: a protection failure freezes the queue, another fault suspends the job once what it has out has
ended (R241, R317). -/
def Mach.jobFaults (m : Mach) (c : Nat) (j : Job) (t : Trap) : Mach :=
  let m := m.forgetFaults c (8 + j.num)
  if t.cause = .prot then
    (m.onCore c fun co => { co with jobsFrozen := true }).report j.part
      (faultRecord 0x04 t.cause.code t.detail (masterWord c 1 0) j.word t.addr 0 j.cursor 0 m.cycle)
  else if j.flights.isEmpty then m.suspendJob c j t
  else m.setJob c { j with fault := some t }

/-- JOB_TRANSFER (R232, R233): a running job makes its next transfer, or a reduction it has sent performs at its home. -/
def execJobTransfer (core job idx : Nat) (s : State) : Out :=
  let m := s.mach
  let mine (r : NetReq) : Bool := match r.combo.first with
    | .job c _ n i => c == core && n == job && i == idx
    | _ => false
  endEvent s (match m.atHome mine with
    | some r => m.tryPerform s.mem r
    | none =>
      match (m.core core).jobs.find? (·.num == job) with
      | none => m
      | some j =>
        if (m.core core).jobsFrozen || (m.core core).jobsHalted || !m.canTransfer core j || j.next != idx then m
        else
          let m := m.onCore core fun co => { co with rr := job }
          match m.transfer s.mem core j idx with
          | .ok m => m
          | .error (.raise t) => m.jobFaults core j t
          | .error (.walk c h a) => m.startWalk c (8 + j.num) h a
          | .error _ => m)

/-- The contribution of a KIND 3 job sets out (R233, R344): to the factor store, or as a request to its peer. -/
def Mach.sendContribution (m : Mach) (c : Nat) (j : Job) : Mach :=
  let o := j.opw
  let vals := (upFrom 0 j.total).map fun i => ((j.values.lookup i).getD 0)
  let m := m.setJob c { j with landed := .sent }
  if !j.dstPeer then
    m.contribution (m.cycle + 24) m.pkg c j.ctx (bits o 47 40) (bits o 34 32) (bits o 29 24)
      (vals.map fun v => toC40 (f32.decode v.toNat)) (.job c j.ctx j.num 0) []
  else
    let p := j.peer0
    let data := (chunks 8 (vals.length + 1) (vals.flatMap fun v => bytesLE 4 v.toNat)).map fun b => word (natLE b)
    let ws := [word (p * 2 ^ 56 + 4 * j.total * 2 ^ 8 + 8),
      word (bits o 47 40 * 2 ^ 16 + bits o 34 32 * 2 ^ 8 + bits o 29 24)] ++ data
    match m.route c p with
    | none => (m.setJob c { j with landed := .yes, code := 0x44, n := 0 }).post (m.cycle + 1) (.jobComplete c j.num)
    | some plane =>
      if p ≠ m.pkg ∧ !(m.peer plane p).room (8 * ws.length) then
        (m.setJob c j).again (.jobComplete c j.num)
      else
        let (n, m) := m.newId
        (m.setJob c { j with landed := .sent, flights := [⟨0, n, []⟩] }).launchRequest
          ⟨n, false, plane, p, .job c j.ctx j.num 0, ws, 8 * ws.length⟩ (bits (ws.getD 1 0) 47 0) 0

/-- JOB_COMPLETE (R238): a job with nothing more to do ends, or its contribution sets out, unless the queue is frozen or halted (R303,
R317), or its fault suspends it. -/
def execJobComplete (core job : Nat) (s : State) : Out :=
  let m := s.mach
  endEvent s (match (m.core core).jobs.find? (·.num == job) with
    | none => m
    | some j =>
      if j.state != .running || !j.flights.isEmpty || j.landed == .sent then m
      else if j.stop then m.endJob core j .cancelled
      else if j.code ≠ 0 then m.endJob core j .failed
      else match j.fault with
        | some t => m.suspendJob core j t
        | none =>
          if j.issued < j.total then m
          else if j.kind = 3 ∧ j.landed = .no then
            if (m.core core).jobsFrozen || (m.core core).jobsHalted then m.again (.jobComplete core job) else m.sendContribution core j
          else m.endJob core j .complete)

/-- xe.cancel (R240). -/
def execXeCancel (o : TOp) (s : State) : Out :=
  triggerW o s fun _ m t =>
    let c := m.issue.core
    .ok (match m.myCore.jobs.find? (·.num == bits t 63 48) with
      | none => m
      | some j =>
        if !j.live then m
        else if j.state == .running && (!j.flights.isEmpty || j.landed == .sent) then m.setJob c { j with stop := true }
        else m.endJob c j .cancelled)

/-- A suspended job is resumed (R241, R320): it takes a place ahead of the jobs that have not begun. -/
def Mach.resumeJob (m : Mach) (c num : Nat) : Mach :=
  (m.onJob c num fun j => if j.state = .suspended then { j with state := .queued } else j).post m.cycle (.jobBegin c)

/-! ## Dictionaries (R235) -/

/-- xe.dict (R235). -/
def execXeDict (o : TOp) (s : State) : Out :=
  triggerW o s fun _ m t =>
    let c := m.issue.core
    let a := bits t 47 0
    let size := bits t 63 48
    let w := windowOf a
    if size = 0 ∨ (w ≠ .vault ∧ w ≠ .hbm) ∨ windowOf (a + size - 1) ≠ w then alignFault a
    else
      let co := m.myCore
      let g := 1 - co.curDict
      if (co.jobs.any fun j => j.live && j.gen == some g) || (co.dicts.getD g .empty).loading then .error (.block .dictFree)
      else match rangeSegs m c m.myPart m.me.priv false a size with
        | .error e => .error e
        | .ok (segs, _) =>
          let (n, m) := m.newId
          let d : Dict := ⟨[], true, a, size, segs, m.issue.ctx, n, none⟩
          .ok (m.onMyCore fun co => { co with dicts := modifyAt (fun _ => d) g co.dicts, curDict := g })

/-- Whether the load of a dictionary can start its reads (R124, R235): not while its engine is frozen or halted (R303, R317). -/
def Mach.dictReady (m : Mach) (c : Nat) (d : Dict) : Bool :=
  d.loading && d.due.isNone && !(m.core c).jobsFrozen && !(m.core c).jobsHalted && m.accessesDone c d.ctx d.mark [(d.lo, d.size)]
    && (m.core c).clearBefore d.mark (d.lo, d.size) (0, 0)

/-- Starts the reads of the dictionaries of a core that can start: at the figure of R104 and 64 bytes in a cycle. -/
def Mach.startDicts (m : Mach) (c : Nat) : Mach :=
  [0, 1].foldl (fun m g =>
    let d := (m.core c).dicts.getD g .empty
    if m.dictReady c d then
      let t := m.cycle + (classCycles c d.lo).getD 0 + ceilDiv d.size 64
      (m.onCore c fun co => { co with dicts := modifyAt (fun d => { d with due := some t }) g co.dicts }).post t
        (.dictLoadComplete c g)
    else m) m

/-- DICT_LOAD_COMPLETE (R235). -/
def execDictLoadComplete (core gen : Nat) (s : State) : Out :=
  let m := s.mach
  let d := (m.core core).dicts.getD gen .empty
  let done : Bool := match d.due with
    | some t => t ≤ m.cycle
    | none => false
  endEvent s (if d.loading && done then
    let bs := peekAll s.mem m (segKeys d.segs)
    (m.settleBarriers s.mem (barrierKeys d.segs)).onCore core fun co => { co with dicts := modifyAt (fun _ => { Dict.empty with bytes := bs }) gen co.dicts }
  else m)

/-! ## Replies (R244, R237, R344) -/

/-- The reply to a request of a job: of a read its bytes go on, of a handler it has performed, of a contribution it has
landed. -/
def Mach.jobReply (mem : Memory) (m : Mach) (c num : Nat) (id : Nat) (ws : List Word) : Mach :=
  match (m.core c).jobs.find? (·.num == num) with
  | none => m
  | some j =>
    match j.flights.find? (·.id == id) with
    | none => m
    | some f =>
      let st := bits (ws.getD 0 0) 47 40
      let gone := { j with flights := j.flights.filter (·.id != id) }
      if reqOp (ws.getD 0 0) = 8 then
        let code := if st = 8 then 0x41 else if st = 2 then 0x42 else 0
        let j := { gone with landed := .yes, code := code, n := if code = 0 then j.total else 0 }
        (m.setJob c j).post (m.cycle + 1) (.jobComplete c num)
      else if st ≠ 0 then (m.setJob c gone).failJob c num 0x42
      else if reqOp (ws.getD 0 0) = 0 then
        (m.setJob c gone).placeElement mem c gone f.idx f.dst (((ws.drop 1).flatMap fun w => bytesLE 8 w.toNat).take j.esize)
      else (m.onJob c num (·.perform f.idx)).jobGoesOn c num

/-- Words enter fq.rx of a context, in place of those reserved for them. -/
def Ctx.receive (x : Ctx) (reserved : Nat) (ws : List Word) : Ctx :=
  { x with rx := x.rx ++ ws, rxReserved := x.rxReserved - reserved }

/-- The DETAIL of PROT for a reply whose STATUS alone tells of it: one of the details that R315 gives an access, which one
being a free value (log 4). -/
def replyDetail (m : Mach) : Nat := 2 + (Config.freeWord m.fresh).toNat % 4

/-- A reply for a fabric queue: into fq.rx, or on as a contribution; PROT freezes the port (R243, R317). -/
def Mach.queueReply (m : Mach) (c k uid id : Nat) (ws : List Word) : Mach :=
  let h := ws.getD 0 0
  let st := bits h 47 40
  let ask := m.asked.find? (·.id == id)
  let m := ({ m with asked := m.asked.filter (·.id != id) } : Mach).delivered id
  if (m.ctx c k).unit.map (·.uid) ≠ some uid then m
  else
    let m := m.onCtx c k fun x => { x with acquires := x.acquires.filter (· != id) }
    let m := if st = 2 then
        let m : Mach := m.onCtx c k fun x => { x with fqFrozen := true }
        ({ m with fresh := m.fresh + 1 } : Mach).report (partOf c)
          (faultRecord 0x05 Cause.prot.code (replyDetail m) (masterWord c 2 k) 0 ((ask.bind (·.words[1]?)).getD 0) 0 0 0 m.cycle)
      else m
    let req := ((ask.bind (·.words[0]?)).getD 0)
    if ask.isSome && reqFvr req && st == 0 then
      m.contribution m.cycle m.pkg c k c k (reqFv req) (valuesOf (reqSize req / 4) (ws.drop 1)) (.fq c k uid) [h]
    else m.onCtx c k (·.receive (if ask.isSome then replyNeed req else 1) ws)

/-- Whether what a reply brings to a job must wait to be performed (R118, R335). -/
def Mach.replyWaits (m : Mach) (r : FqReply) : Bool :=
  match r.who with
  | .job c _ num _ => (m.core c).jobs.any fun j => j.num == num
      && (j.flights.find? (·.id == r.id)).any fun f => m.reductionWaits j f.dst || m.hostDown (segKeys f.dst)
  | _ => false

/-- FQ_REPLY_ARRIVE (R244): a reply reaches its context or job, or the port by which it leaves for another package (R270). -/
def execFqReplyArrive (id : Nat) (s : State) : Out :=
  let m := s.mach
  endEvent s (match m.replies.find? (·.id == id) with
    | none =>
      match m.leaving.find? (·.id == id) with
      | some g => Mach.offerMsg { m with leaving := m.leaving.filter (·.id != id) } g
      | none => m
    | some r =>
      if m.replyWaits r then m.again (.fqReplyArrive id)
      else
      let m : Mach := { m with replies := m.replies.filter (·.id != id) }
      match r.who with
      | .fq c k uid => m.queueReply c k uid id r.words
      | .job c _ num _ => (m.delivered id).jobReply s.mem c num id r.words
      | .lu _ _ _ _ | .tf _ _ _ _ | .peer _ _ _ _ => m)

/-! ## Contributions (R50, R85, R302) -/

/-- Whether one contribution combines before another (R85); two of one context go in the order in which they were sent (DESIGN CHOICE,
log 116). -/
def Contribution.before (a b : Contribution) : Bool :=
  a.pkg < b.pkg || (a.pkg == b.pkg && (a.core < b.core || (a.core == b.core && (a.ctx < b.ctx
    || (a.ctx == b.ctx && a.id < b.id)))))

/-- The contribution that combines next in this cycle. -/
def Mach.nextContribution (m : Mach) : Option Contribution :=
  (m.contribs.filter (·.due ≤ m.cycle)).foldl (fun b c => match b with
    | none => some c
    | some d => if c.before d then some c else some d) none

/-- What a fate reports to a fabric request, as a STATUS (R244). -/
def fateStatus : Option FvFate → Nat
  | none => 8
  | some .combined | some .mismatch => 0
  | some .discarded => 6
  | some .voided => 7

/-- The STATUS of tf.res for a fate (R217). -/
def fateTf : Option FvFate → Nat
  | some .mismatch => 0x22
  | some .voided => 0x24
  | some .combined => 0
  | _ => 0x23

/-- What has become of a contribution is told to who must know. -/
def Mach.tellFate (m : Mach) (q : Contribution) (f : Option FvFate) : Mach :=
  match q.report with
  | .tf c k uid tag =>
    if (m.ctx c k).unit.map (·.uid) = some uid then m.onCtx c k (·.arrive .tf tag (word (fateTf f * 2 ^ 56))) else m
  | .fq c k uid =>
    if (m.ctx c k).unit.map (·.uid) = some uid then
      let h := q.words.getD 0 0
      m.onCtx c k (·.receive 1 [word (h.toNat + fateStatus f * 2 ^ 40)])
    else m
  | .job c _ num _ =>
    let done (j : Job) : Job := { j with landed := .yes, code := if f.isNone then 0x41 else j.code,
                                         n := if f.isNone then 0 else j.total }
    (m.onJob c num done).post (m.cycle + 1) (.jobComplete c num)
  | .peer _ _ _ id => match m.ingress.find? (·.msg.id == id) with
    | some a => m.answerArrival a.msg (fateStatus f) 0 []
    | none => m
  | .lu _ _ _ _ => m

/-- A contribution combines with its vector, or is held for a saved unit (R302); none where there is no such vector or unit. -/
def Mach.combineAt (m : Mach) (q : Contribution) : Option FvFate × Mach :=
  let x := m.ctx q.toCore q.toCtx
  match x.status with
  | .free => (none, m)
  | .reserved | .restoring =>
    if x.fv.length ≤ q.fv then (none, m)
    else
      let h := partOf q.toCore
      (some (m.heldFate h q.toCore q.toCtx q.fv q.op q.values), m.holdContribution h q.toCore q.toCtx q.fv q.op q.values)
  | _ =>
    if x.unit.isNone || x.fv.length ≤ q.fv then (none, m)
    else
      let r := x.contribute q.fv q.op q.values
      (some r.2, m.onCtx q.toCore q.toCtx fun _ => r.1)

/-- FV_CONTRIBUTION (R85): of the contributions that have reached the factor store, the first in the order of R85
combines. -/
def execFvContribution (id : Nat) (s : State) : Out :=
  let m := s.mach
  endEvent s (match m.nextContribution, m.contribs.any fun c => c.id == id && c.due ≤ m.cycle with
    | some q, true =>
      let m : Mach := { m with contribs := m.contribs.filter (·.id != q.id) }
      let m := if q.id = id then m else m.post m.cycle (.fvContribution id)
      let (f, m) := m.combineAt q
      m.tellFate q f
    | _, _ => m)

end Sys2Proof.Machine
end

