-- ==== Sys2Proof/Machine/Halt.lean ====
section
/-!
DEFINITION. Masters stopped and let go: freezing and thawing (spec/18_translation_faults.md R174, R317), halting and
releasing (spec/17_scheduling.md R303), and the status of a privileged operation in cu.res (spec/08_ops_control.md R173).
-/

namespace Sys2Proof.Machine

/-! ## Master words (R174) -/

/-- A master. -/
structure Master where
  core : Nat
  kind : Nat
  ctx : Nat
  deriving DecidableEq, Repr

/-- The master that a word names. -/
def masterOf (t : Word) : Master := ⟨bits t 23 16, bits t 15 12, bits t 2 0⟩

/-! ## Freezing and thawing (R317) -/

/-- A context that holds a unit freezes. -/
def Mach.freezeUnit (m : Mach) (c k : Nat) : Mach := if (m.ctx c k).unit.isSome then m.freezeCtx c k else m

/-- The fabric queue port of a context is frozen or sends again. -/
def Mach.freezeFq (m : Mach) (c k : Nat) (on : Bool) : Mach := m.onCtx c k fun x => { x with fqFrozen := on }

/-- The traverse queue of a core is frozen, or every job goes on from its cursor. -/
def Mach.freezeJobs (m : Mach) (c : Nat) (on : Bool) : Mach := m.onCore c fun co => { co with jobsFrozen := on }

/-- A master freezes. -/
def Mach.freeze (m : Mach) (w : Master) : Mach :=
  match w.kind with
  | 0 => m.freezeUnit w.core w.ctx
  | 1 => m.freezeJobs w.core true
  | 2 => m.freezeFq w.core w.ctx true
  | 3 => (upFrom 0 8).foldl (fun m k => (m.freezeUnit w.core k).freezeFq w.core k true) (m.freezeJobs w.core true)
  | _ => m

/-- A frozen context goes on at the pc its freeze recorded. -/
def Mach.thawCtx (m : Mach) (c k : Nat) : Mach :=
  m.onCtx c k fun x => if x.frozen then { x with frozen := false, readySince := m.cycle } else x

/-- A master goes on. -/
def Mach.thaw (m : Mach) (w : Master) : Mach :=
  match w.kind with
  | 0 => m.thawCtx w.core w.ctx
  | 1 => m.freezeJobs w.core false
  | 2 => m.freezeFq w.core w.ctx false
  | 3 => (upFrom 0 8).foldl (fun m k => (m.thawCtx w.core k).freezeFq w.core k false) (m.freezeJobs w.core false)
  | _ => m

/-! ## Halting (R303) -/

/-- A cause for which a core is halted joins the others. -/
def Core.addHalt (co : Core) (why : HaltCause) : Core :=
  if co.haltCauses.contains why then co else { co with haltCauses := co.haltCauses ++ [why] }

/-- A core stops: its contexts at a bundle boundary, its engine before the next transfer, its ports before the next request;
what its partition's cloakroom holds is no longer the state of the cores (R304). A core that is halted already is halted for one
cause more. -/
def Mach.haltCore (m : Mach) (c : Nat) (why : HaltCause) : Mach :=
  if (m.core c).halted then m.onCore c (·.addHalt why)
  else
    let stop (x : Ctx) : Ctx := { x with fqHalted := true }
    (m.onCore c fun co => { co.addHalt why with halted := true, jobsHalted := true, ctxs := co.ctxs.map stop }).onPart (partOf c)
      fun p => { p with saved := false }

/-- A core is halted for one cause less; with the last it goes on. -/
def Mach.releaseCore (m : Mach) (c : Nat) (why : HaltCause) : Mach :=
  let go (x : Ctx) : Ctx := { x with fqHalted := false }
  m.onCore c fun co =>
    let left := co.haltCauses.filter (· != why)
    if left.isEmpty then { co with halted := false, haltCauses := [], jobsHalted := false, ctxs := co.ctxs.map go }
    else { co with haltCauses := left }

/-- A context stops at a bundle boundary, which ends its run (log 130). -/
def Mach.haltCtx (m : Mach) (c k : Nat) : Mach :=
  (if (m.ctx c k).status = .running then (m.switchOut c k).makeReady c k else m).onCtx c k
    fun x => { x with halted := true }

/-- A halted context goes on. -/
def Mach.releaseCtx (m : Mach) (c k : Nat) : Mach :=
  m.onCtx c k fun x => if x.halted then { x with halted := false, readySince := m.cycle } else x

/-- Whether a context is being saved. -/
def Ctx.writingSave (x : Ctx) : Bool := x.status == .saving

/-- Whether nothing of a halted core is in progress any more. -/
def Mach.coreStill (m : Mach) (c : Nat) : Bool :=
  let co := m.core c
  co.mx.isEmpty && co.tf.isEmpty && co.ctxs.all (!·.writingSave)
    && co.jobs.all fun j => j.state != .running || (j.flights.isEmpty && j.landed != .sent)

/-- Whether nothing of a halted context is in progress any more. -/
def Mach.ctxStill (m : Mach) (c k : Nat) : Bool :=
  !((m.core c).mx.any (·.ctx == k)) && !((m.core c).tf.any (·.ctx == k)) && !(m.ctx c k).writingSave

/-- Whether a core is halted by `cu.halt` with KIND 3, and still. -/
def Mach.haltedCore (m : Mach) (c : Nat) : Bool := (m.core c).haltCauses.contains .order && m.coreStill c

/-- The cursors of the running jobs of a core are written. -/
def Mach.writeCursors (m : Mach) (c : Nat) : Mach :=
  ((m.core c).jobs.filter (·.state == .running)).foldl (fun m j => m.writeWord (j.cardAddr + 0xF0) j.cursor.toNat) m

/-- A core is halted by the device or the firmware: its cursors are written once it is still. -/
def Mach.deviceHalt (m : Mach) (c : Nat) (why : HaltCause) : Mach :=
  if (m.core c).halted then m.haltCore c why else (m.haltCore c why).post m.cycle (.haltComplete c 8)

/-! ## The status of a privileged operation (R173) -/

/-- The operation of a context returns its status: in cu.res, be it set aside in the trap bank. -/
def Ctx.privDone (x : Ctx) (status : Nat) : Ctx :=
  let put (p : Ports) : Ports := if p.cu.tag.isSome then { p with cu := ⟨word status, 0, none⟩ } else p
  { x with privOp := none, ports := put x.ports, bank := x.bank.map fun b => { b with ports := put b.ports } }

/-- The operation of context k of core c is done. -/
def Mach.privDone (m : Mach) (c k status : Nat) : Mach := m.onCtx c k (·.privDone status)

/-- HALT_COMPLETE (R303): once all is still, the cursors are written and the status returned. Context 8 stands for the
device's own halt of the core (R324, R342). -/
def execHaltComplete (core ctx : Nat) (s : State) : Out :=
  let m := s.mach
  endEvent s (if ctx = 8 then
      if !(m.core core).halted then m
      else if m.coreStill core then m.writeCursors core
      else m.again (.haltComplete core ctx)
    else match (m.ctx core ctx).privOp with
      | some (.halt c none) =>
        if !(m.core c).halted then m.privDone core ctx 0
        else if m.coreStill c then (m.writeCursors c).privDone core ctx 0
        else m.again (.haltComplete core ctx)
      | some (.halt c (some k)) =>
        if !(m.ctx c k).halted || m.ctxStill c k then m.privDone core ctx 0 else m.again (.haltComplete core ctx)
      | _ => m)

end Sys2Proof.Machine
end

