-- ==== Sys2Proof/Machine/Fabric.lean ====
section
/-!
DEFINITION. The fabric ports (spec/16_fabric.md R271-R281; spec/20_prog_laser_failure.md R331-R333): slot boundaries and
timetables, flits sent, filled and received, acknowledgement and replay, loss of light and restriping, event records.
-/

namespace Sys2Proof.Machine

/-! ## Flits (R277) -/

/-- One byte of CRC-32C, in the usual reflected form of the polynomial 0x1EDC_6F41 (log 36). -/
def crc32Step (c : BitVec 32) (b : Byte) : BitVec 32 :=
  (upFrom 0 8).foldl (fun c _ => if c.getLsbD 0 then (c >>> 1) ^^^ 0x82F63B78 else c >>> 1) (c ^^^ b.setWidth 32)

/-- CRC-32C of bytes. -/
def crc32c (bs : List Byte) : BitVec 32 := ~~~ (bs.foldl crc32Step 0xFFFFFFFF)

/-- Bytes followed by zeros up to n. -/
def padTo (n : Nat) (bs : List Byte) : List Byte := bs ++ List.replicate (n - bs.length) 0

/-- The first eight bytes of a flit, as a number. -/
def Flit.head (f : Flit) : Nat :=
  f.src * 2 ^ 56 + f.dst * 2 ^ 48 + f.seq * 2 ^ 32 + f.ack * 2 ^ 16 + f.kind * 2 ^ 12 + f.payload.length

/-- The CRC that a flit must carry. -/
def Flit.goodCrc (f : Flit) : BitVec 32 := crc32c (bytesLE 8 f.head ++ padTo 128 f.payload)

/-- The CRC over the header and the 128 bytes of payload that came, those beyond PLEN among them. -/
def receivedCrc (src dst seq ack kind plen : Nat) (payload : List Byte) : BitVec 32 :=
  crc32c (bytesLE 8 (src * 2 ^ 56 + dst * 2 ^ 48 + seq * 2 ^ 32 + ack * 2 ^ 16 + kind * 2 ^ 12 + plen)
    ++ (padTo 128 payload).take 128)

/-- Whether one SEQ comes before another, mod 2^16. -/
def seqBefore (a b : Nat) : Bool := a != b && (b + 65536 - a) % 65536 < 32768

/-! ## Time (R271, R272) -/

/-- The entry in which a plane is; none while it waits for a default boundary. -/
def Mach.entry (m : Mach) (p : Nat) : TtEntry := (m.entries p).getD (m.plane p).slot ⟨0, 0, [], []⟩

/-- The domain time at which the present entry stops transmitting. -/
def Mach.sendEnd (m : Mach) (p : Nat) : Nat :=
  match (m.plane p).current with
  | some _ => (m.plane p).open_ + (m.entry p).length
  | none => (m.plane p).slotStart + 240

/-- The domain time at which the present entry ends. -/
def Mach.slotEnd (m : Mach) (p : Nat) : Nat :=
  match (m.plane p).current with
  | some _ => (m.plane p).open_ + (m.entry p).length + (m.entry p).guard
  | none => (m.plane p).slotStart + 250

/-- A port that is switched on begins in the present slot of the default rotor, or at entry 0 of its programmed table. -/
def Mach.startPlane (m : Mach) (p : Nat) : Mach :=
  let b := if (m.plane p).current.isSome then m.fbTime else m.fbTime / 250 * 250
  let slot := if (m.plane p).current.isSome then 0 else b / 250 % 3
  let m := m.onPlane p fun pl => { pl with enable := true, slot := slot, slotStart := b, open_ := b, heard := [] }
  m.postAt (m.slotEnd p) (.timetableSlotBoundary p 0xFFFF)

/-! ## Striping (R278) -/

/-- The number of lanes used of `n` that are live. -/
def stripe (n : Nat) : Nat := ([16, 12, 9, 8, 6, 4, 3, 2, 1].find? (· ≤ n)).getD 0

/-- The lanes that carry a flit, of those that an entry gives and that are live: the lowest-numbered ones. -/
def lanesUsed (l : List Nat) : List Nat := l.take (stripe l.length)

/-- The lane on which byte b of a flit travels. -/
def laneOfByte (used : List Nat) (b : Nat) : Option Nat := used[b / (144 / used.length)]?

/-- The number of lanes a plane uses to a peer in its present entry. -/
def Mach.lanes (m : Mach) (p peer : Nat) : Nat := (lanesUsed (lanesTo (m.entry p).tx (m.plane p).txLive peer)).length

/-- The lanes from which the receiver puts a peer's flits together in the present entry: its own live receive lanes. -/
def Mach.lanesFrom (m : Mach) (p peer : Nat) : List Nat := lanesUsed (lanesTo (m.entry p).rx (m.plane p).rxLive peer)

/-- The peers to which live receive lanes listen in the present entry, each with those lanes. -/
def Mach.listening (m : Mach) (p : Nat) : List (Nat × List Nat) :=
  ((upFrom 0 192).map fun r => (r, m.lanesFrom p r)).filter fun q => !q.2.isEmpty

/-- Whether a flit that arrives now can have been sent in the entry before the present one: 100 ns is the longest flight (R279;
log 30). -/
def Mach.justMoved (m : Mach) (p : Nat) : Bool := m.fbTime ≤ (m.plane p).slotStart + 100

/-- Whether a flit of a peer that arrives now was sent in an entry in which this port listens to it: the present one, or the
one before it while a flit sent in that can still be on its way, 100 ns (R271, R279; log 30). -/
def Mach.listens (m : Mach) (p peer : Nat) : Bool :=
  !(m.lanesFrom p peer).isEmpty || (m.justMoved p && (m.plane p).heard.any (·.1 == peer))

/-- Whether two sets of lanes carry every byte of a flit alike. -/
def sameStripe (a b : List Nat) : Bool := (upFrom 0 144).all fun i => laneOfByte a i == laneOfByte b i

/-- Whether the lanes that a peer's flit was striped over are those from which this port puts it together (R278), in the present
entry or, while a flit of that can still be on its way, in the one before. -/
def Mach.readsStripe (m : Mach) (p peer : Nat) (lanes : List Nat) : Bool :=
  (!(m.lanesFrom p peer).isEmpty && sameStripe lanes (m.lanesFrom p peer))
    || (m.justMoved p && (m.plane p).heard.any fun h => h.1 == peer && sameStripe lanes h.2)

/-! ## Event records (R281, R333) -/

/-- An event record. -/
def eventRecord (type plane laser pkg : Nat) (tx0 tx1 rx0 rx1 : BitVec 16) (time replayed first : Nat) : List Word :=
  [word (type * 2 ^ 56 + plane * 2 ^ 48 + laser * 2 ^ 40 + pkg * 2 ^ 32 + tx0.toNat * 2 ^ 16 + tx1.toNat), word time,
    word (rx0.toNat * 2 ^ 48 + rx1.toNat * 2 ^ 32 + replayed), word first, 0, 0, 0, 0]

/-- A record is on its way to the host event queue. -/
def Mach.sendRecord (m : Mach) (r : List Word) : Mach := m.post (m.cycle + hostCycles) (.eventRecordPerform r)

/-- Puts REPLAYED and FIRSTSEQ into a record. -/
def withReplay (n first : Nat) (r : List Word) : List Word :=
  modifyAt (fun w => word (w.toNat + n)) 2 (modifyAt (fun _ => word first) 3 r)

/-- Whether a replay, with what stood behind it when the hold ended, has been sent to its last byte, or acknowledged before. -/
def Mach.replayOver (m : Mach) (p : Nat) (w : ReplayWait) : Bool :=
  match w.sent with
  | some t => decide (t ≤ 50 * m.fbTime)
  | none => seqBefore w.last (m.peer p w.peer).nextSeq && !((m.plane p).replay.any fun f => f.dst == w.peer && f.seq == w.last)

/-- A record is due once the hold of its event has ended and the replay that the event caused is over (R333). -/
def Mach.recordDue (m : Mach) (p : Nat) (r : PendingRecord) : Bool := r.ended && r.waits.all (m.replayOver p)

/-- The records that are due are written. -/
def Mach.flushRecords (m : Mach) (p : Nat) : Mach :=
  let due := (m.plane p).records.filter (m.recordDue p)
  if due.isEmpty then m
  else (due.map (·.words)).foldl Mach.sendRecord (m.onPlane p fun pl => { pl with records := pl.records.filter (!m.recordDue p ·) })

/-- EVENT_RECORD_PERFORM (R281): the record performs in the host event queue, or is dropped. -/
def execEventRecordPerform (record : List Word) (s : State) : Out :=
  let m := s.mach
  let n := 2 ^ m.evqSize
  endEvent s (if m.boot.modules = 0 then m.again (.eventRecordPerform record)
    else if m.evqSize = 0 ∨ windowOf m.evqBase ≠ .host ∨ (m.evqHead + 1) % n = m.evqTail % n then
      { m with evqDropped := min (m.evqDropped + 1) 0xFFFF }
    else
      Mach.writeBytes { m with evqHead := (m.evqHead + 1) % n } (m.evqBase + 64 * (m.evqHead % n)) (bytesOfWords record))

/-! ## Sending (R276, R279, R331, R332) -/

/-- Whether a port has something to send to a peer: a replay, a NAK, an ACK that its last flit did not carry, or a new flit
while the replay buffer has room. The idle flits that only say the same ACK again change nothing and are not shown. -/
def Plane.hasFlit (p : Plane) (q : Peer) : Bool :=
  q.replaying.isSome || q.nakNeeded || q.ackSent != q.expected || (!q.queue.isEmpty && p.replay.length < 4096)

/-- Posts the sending of flits to every peer that has some, for the time the entry opens. -/
def Mach.kickPlane (m : Mach) (p : Nat) : Mach :=
  let pl := m.plane p
  (pl.peers.filter pl.hasFlit).foldl (fun m q => m.postAt (max pl.open_ m.fbTime) (.flitSend p q.peer)) m

/-- The time in fiftieths of a ns at which the next flit to a peer starts, if the present entry has room for it. -/
def Mach.flitStart (m : Mach) (p peer : Nat) : Option Nat :=
  let pl := m.plane p
  let q := m.peer p peer
  let n := m.lanes p peer
  let start := max q.freeAt (50 * m.fbTime)
  if pl.enable && n != 0 && pl.open_ ≤ m.fbTime && q.holdUntil == 0 && start + 144 / n ≤ 50 * m.sendEnd p then some start
  else none

/-- The flits to a peer that are not acknowledged, in SEQ order. -/
def Plane.unacked (p : Plane) (peer : Nat) : List Flit := p.replay.filter (·.dst == peer)

/-- The flit as it leaves now, with ACK and KIND. -/
def Peer.stamp (q : Peer) (f : Flit) : Flit :=
  let f := { f with ack := q.expected, kind := if q.nakNeeded then 2 else 1 }
  { f with crc := f.goodCrc }

/-- What a sent flit leaves of a peer's state. -/
def Peer.sent (q : Peer) (now free : Nat) : Peer :=
  { q with nakSeq := if q.nakNeeded then some (q.expected, now) else q.nakSeq, nakNeeded := false, ackSent := q.expected
           freeAt := free }

/-- A flit that is sent now begins the replays to its peer, and those that end with it note when its last byte has left (R333). -/
def PendingRecord.noteSent (peer seq free : Nat) (r : PendingRecord) : PendingRecord :=
  let note (w : ReplayWait) : ReplayWait :=
    { w with begun := w.begun || w.peer == peer
             sent := if w.peer = peer ∧ w.last = seq ∧ w.sent = none then some free else w.sent }
  { r with waits := r.waits.map note }

/-- One flit to a peer: of a replay, else a new one while the replay buffer has room, else an idle one that carries an ACK or
a NAK alone. -/
def Mach.sendFlit (m : Mach) (p peer free : Nat) : Mach :=
  let pl := m.plane p
  let q := m.peer p peer
  let again : Option Flit := match q.replaying with
    | some n => (pl.unacked peer).find? fun (f : Flit) => !seqBefore f.seq n
    | none => none
  match again with
  | some f =>
    let rest := (pl.unacked peer).any fun g => seqBefore f.seq g.seq
    m.onPlane p fun pl =>
      let restamp (g : Flit) : Flit := if g.dst = peer ∧ g.seq = f.seq then q.stamp f else g
      let pl := { pl with replay := pl.replay.map restamp, records := pl.records.map (.noteSent peer f.seq free) }
      pl.setPeer { q.sent m.fbTime free with replaying := if rest then some ((f.seq + 1) % 65536) else none }
  | none =>
    let q := { q with replaying := none }
    let idle : Peer := if q.nakNeeded || q.ackSent != q.expected then q.sent m.fbTime free else q
    match q.queue with
    | f :: rest =>
      if 4096 ≤ pl.replay.length then m.onPlane p (·.setPeer idle)
      else
        let f := q.stamp { f with seq := q.nextSeq }
        m.onPlane p fun pl =>
          { pl with replay := pl.replay ++ [f], records := pl.records.map (.noteSent peer f.seq free) }.setPeer
            { q.sent m.fbTime free with queue := rest, nextSeq := (q.nextSeq + 1) % 65536 }
    | [] => m.onPlane p (·.setPeer idle)

/-- The next flit to a peer is posted for a time in fiftieths of a ns, unless one is posted already. -/
def Mach.follow (m : Mach) (p peer t : Nat) : Mach :=
  if (m.plane p).hasFlit (m.peer p peer) && !(m.agenda.any (·.2 == .flitSend p peer)) then m.postAt (t / 50) (.flitSend p peer) else m

/-- Event records wait for the end of a flit that leaves now (R333). -/
def Mach.awaitEnd (m : Mach) (p free : Nat) : Mach :=
  if (m.plane p).records.isEmpty then m else m.postAt ((free + 49) / 50) (.restripeHoldEnd p)

/-- FLIT_SEND (R276): the next flit to a peer leaves, what waited for room in the queue joins it, and the flit after it
follows when the lanes are free. -/
def execFlitSend (plane peer : Nat) (s : State) : Out :=
  let m := s.mach
  endEvent s (match m.flitStart plane peer with
    | none => m
    | some start =>
      if !(m.plane plane).hasFlit (m.peer plane peer) then m
      else if 50 * m.fbTime + 50 ≤ start then m.follow plane peer start
      else
        let free := start + 144 / m.lanes plane peer
        let m := (m.sendFlit plane peer free).awaitEnd plane free
        (m.unpark m.parked.length).follow plane peer free)

/-- FLIT_FILL_TIMEOUT (R331): a flit that began to fill 8 ns ago is closed for sending. -/
def execFlitFillTimeout (plane peer : Nat) (s : State) : Out :=
  let m := s.mach
  let q := m.peer plane peer
  endEvent s (match q.fill with
    | none => m
    | some (since, f) =>
      if m.cycle < since + 8 then m
      else (m.onPlane plane (·.setPeer { q with queue := q.queue ++ [f], fill := none })).postFlit plane peer)

/-! ## Receiving (R111, R279) -/

/-- A message of a flit that has been acknowledged: it is delivered, and a transfer of a job that draws no reply has
performed (R238). -/
def Mach.acked (m : Mach) (g : Msg) : Mach :=
  if g.reply then m
  else
    let m := m.delivered g.id
    match g.who with
    | .job c _ n i => if noReply (g.words.getD 0 0) then (m.onJob c n (·.perform i)).jobGoesOn c n else m
    | _ => m

/-- An ACK frees the flits before it from the replay buffer. -/
def Mach.takeAck (m : Mach) (p peer ack : Nat) : Mach :=
  let (gone, kept) := (m.plane p).replay.partition fun f => f.dst == peer && seqBefore f.seq ack
  if gone.isEmpty then m
  else
    let m := m.onPlane p fun pl => { pl with replay := kept }
    let m := (gone.flatMap (·.msgs)).foldl Mach.acked m
    (m.kickPlane p).flushRecords p

/-- A NAK makes the port send again from the SEQ it names; during a hold it is dropped (R332). -/
def Mach.takeNak (m : Mach) (p peer seq : Nat) : Mach :=
  let q := m.peer p peer
  if q.holdUntil ≠ 0 ∨ ((m.plane p).unacked peer).isEmpty then m
  else (m.onPlane p (·.setPeer { q with replaying := some seq })).postFlit p peer

/-- A discarded flit asks for a NAK, at most one in 400 ns for one expected SEQ. -/
def Mach.askNak (m : Mach) (p peer : Nat) : Mach :=
  let q := m.peer p peer
  let quiet : Bool := match q.nakSeq with
    | some (n, t) => n == q.expected && m.fbTime < t + 400
    | none => false
  if quiet then m
  else (m.onPlane p (·.setPeer { q with nakNeeded := true })).postFlit p peer

/-- Who waits for the reply to one of the package's own requests. -/
def Mach.asker (m : Mach) (id : Nat) : Option Origin :=
  match m.asked.find? (·.id == id) with
  | some g => some g.who
  | none => ((upFrom 0 m.cores.length).zip m.cores).findSome? fun p => p.2.jobs.findSome? fun j =>
      (j.flights.find? (·.id == id)).map fun f => Origin.job p.1 j.ctx j.num f.idx

/-- A message that has come whole: a reply reaches its context or job, a request the ingress router. -/
def Mach.takeMsg (m : Mach) (p src : Nat) (g : Nat × Bool × Nat × Nat × List Word) : Mach :=
  let (id, reply, core, ctx, ws) := g
  if reply then
    match m.asker id with
    | some who => Mach.post { m with replies := m.replies ++ [⟨id, who, ws⟩] } m.cycle (.fqReplyArrive id)
    | none => m
  else
    let (n, m) := m.newId
    let msg : Msg := ⟨n, false, p, src, .peer src core ctx id, ws, 8 * ws.length⟩
    Mach.post { m with ingress := m.ingress ++ [⟨msg, 0, [], none⟩] } m.cycle (.channelDeliver n)

/-- FLIT_RECEIVE (R271, R279): a flit that the port listens for is accepted, discarded or asks for a NAK; its ACK and NAK act.
An idle flit and a NAK without data carry no SEQ. A flit striped over other lanes than the port reads is put together
wrong, as one with a bad CRC is (R278; log 122). `msgs` are the requests and replies whose last byte it holds: number, whether
it is a reply, core and context of the sender, words. -/
def execFlitReceive (plane src dst seq ack kind plen : Nat) (payload : Striped) (crc : BitVec 32)
    (msgs : List (Nat × Bool × Nat × Nat × List Word)) (s : State) : Out :=
  let m := s.mach
  endEvent s (if !(m.plane plane).enable || dst != m.pkg || 3 ≤ kind || !m.listens plane src then m
    else if receivedCrc src dst seq ack kind plen payload.bytes ≠ crc ∨ m.readsStripe plane src payload.lanes = false then
      if kind = 0 then m else m.askNak plane src
    else
      let m := m.takeAck plane src ack
      let m := if kind = 2 then m.takeNak plane src ack else m
      let q := m.peer plane src
      if kind = 0 ∨ (kind = 2 ∧ plen = 0) then m
      else if seq = q.expected then
        let m := (m.onPlane plane (·.setPeer { q with expected := (q.expected + 1) % 65536 })).postFlit plane src
        msgs.foldl (fun m g => m.takeMsg plane src g) m
      else if seqBefore seq q.expected then m
      else m.askNak plane src)

/-! ## Light (R280, R332) -/

/-- The peers whose lanes differ between two sets of live lanes, in some entry. -/
def Mach.changedPeers (m : Mach) (p : Nat) (before after : BitVec 16) : List Nat :=
  (upFrom 0 192).filter fun r => (m.entries p).any fun e => lanesTo e.tx before r != lanesTo e.tx after r

/-- A record whose hold is over, and whose replays have none begun and all wait for a new hold now: one replay will follow both
events, so its REPLAYED and FIRSTSEQ are 0 again (R333). -/
def PendingRecord.rejoin (held : List Nat) (r : PendingRecord) : PendingRecord :=
  if r.ended && !r.waits.isEmpty && r.waits.all fun w => !w.begun && held.contains w.peer then
    { r with ended := false, waits := [], words := withReplay 0 0 (modifyAt (fun w => word (w.toNat / 2 ^ 32 * 2 ^ 32)) 2 r.words) }
  else r

/-- Nothing is sent to a peer until the hold ends. -/
def Mach.holdPeer (m : Mach) (p t peer : Nat) : Mach := m.onPlane p (·.setPeer { m.peer p peer with holdUntil := t })

/-- The lanes that a laser feeds (R269). -/
def laserLanes (laser : Nat) : BitVec 16 := if laser < 4 then 15 <<< (4 * laser) else 0

/-- TX_LANE_DARK (R269, R280, R332): the lanes, and those of a laser that fails, leave the live set, the peers whose lanes
changed are held, and the event is recorded. Dark lanes no longer wait to rejoin. -/
def execTxLaneDark (plane : Nat) (lanes : BitVec 16) (laser : Nat) (s : State) : Out :=
  let m := s.mach
  let pl := m.plane plane
  let dark := lanes ||| laserLanes laser
  let after := pl.txLive &&& ~~~ dark
  let hit := m.changedPeers plane pl.txLive after
  let t := m.fbTime + 150
  let r := eventRecord 1 plane laser m.pkg pl.txLive after pl.rxLive pl.rxLive m.fbTime 0 0
  let darken (pl : Plane) : Plane :=
    { pl with txLive := after, rejoinTx := pl.rejoinTx &&& ~~~ dark
              laserOk := if laser < 4 then pl.laserOk &&& ~~~ (BitVec.ofNat 4 (2 ^ laser)) else pl.laserOk }
  endEvent s (if after = pl.txLive then m.onPlane plane darken
    else
      let held := hit ++ ((pl.peers.filter fun q => q.holdUntil != 0 && !hit.contains q.peer).map (·.peer))
      let m := m.onPlane plane darken
      let m := m.onPlane plane fun pl => { pl with records := pl.records.map (.rejoin held) }
      let m := (held.foldl (fun m r => m.holdPeer plane t r) m).postAt t (.restripeHoldEnd plane)
      if held.all fun r => (pl.unacked r).isEmpty then m.sendRecord r
      else m.onPlane plane fun pl => { pl with records := pl.records ++ [⟨r, held, false, []⟩] })

/-- RX_LANE_DARK (R280, R333): the lanes leave the live set and the event is recorded; the receiver replays nothing. -/
def execRxLaneDark (plane : Nat) (lanes : BitVec 16) (s : State) : Out :=
  let m := s.mach
  let pl := m.plane plane
  let after := pl.rxLive &&& ~~~ lanes
  let m' := m.onPlane plane fun pl => { pl with rxLive := after, rejoinRx := pl.rejoinRx &&& ~~~ lanes }
  endEvent s (if after = pl.rxLive then m'
    else m'.sendRecord (eventRecord 1 plane 255 m.pkg pl.txLive pl.txLive pl.rxLive after m.fbTime 0 0))

/-- A peer's hold is over: every flit not acknowledged is sent again, then those queued behind them. -/
def Mach.endHold (m : Mach) (p : Nat) (q : Peer) : Mach :=
  let l := (m.plane p).unacked q.peer
  (m.onPlane p (·.setPeer { q with holdUntil := 0, replaying := l.head?.map (·.seq) })).postFlit p q.peer

/-- The replay that begins as the hold of a peer ends, if something is not acknowledged. -/
def Plane.replayWait (pl : Plane) (q : Peer) : Option ReplayWait :=
  if (pl.unacked q.peer).isEmpty then none else some ⟨q.peer, (q.nextSeq + q.queue.length + 65535) % 65536, false, none⟩

/-- The holds of the records end with the replays `waits`. REPLAYED and FIRSTSEQ go into the last of these records; the others keep
0 in both (R333). -/
def endRecords (n first : Nat) (waits : List ReplayWait) (l : List PendingRecord) : List PendingRecord :=
  let last := (upFrom 0 l.length).reverse.find? fun i => l[i]?.any (!·.ended)
  (l.zip (upFrom 0 l.length)).map fun p =>
    if p.1.ended then p.1
    else
      { p.1 with ended := true, waits := waits.filter fun w => p.1.peers.contains w.peer
                 words := if last = some p.2 ∧ n ≠ 0 then withReplay n first p.1.words else p.1.words }

/-- RESTRIPE_HOLD_END (R332, R333): the holds that end now give way to their replays; records whose replay is over by now are
written. -/
def execRestripeHoldEnd (plane : Nat) (s : State) : Out :=
  let m := s.mach
  let pl := m.plane plane
  let due := pl.peers.filter fun q => q.holdUntil != 0 && q.holdUntil ≤ m.fbTime
  let again := due.map fun q => (q.peer, pl.unacked q.peer)
  let n := (again.map (·.2.length)).foldl (· + ·) 0
  let lowest := extreme false ((again.filter (!·.2.isEmpty)).map (·.1))
  let first := ((lowest.bind fun r => (pl.unacked r).head?).map (·.seq)).getD 0
  let m := if due.isEmpty then m else m.onPlane plane fun pl => { pl with records := endRecords n first (due.filterMap pl.replayWait) pl.records }
  endEvent s ((due.foldl (fun m q => m.endHold plane q) m).flushRecords plane)

/-- LANE_RESTORED (R280): lanes lit steadily for 1 µs rejoin at the next slot boundary. -/
def execLaneRestored (plane : Nat) (tx rx : BitVec 16) (s : State) : Out :=
  endEvent s (s.mach.onPlane plane fun pl =>
    { pl with rejoinTx := pl.rejoinTx ||| (tx &&& ~~~ pl.txLive), rejoinRx := pl.rejoinRx ||| (rx &&& ~~~ pl.rxLive) })

/-! ## Slot boundaries (R271, R275, R280) -/

/-- The lasers that feed some lane of a set. -/
def lasersOf (lanes : BitVec 16) : BitVec 4 :=
  (upFrom 0 4).foldl (fun b j => if lanes >>> (4 * j) &&& 15 ≠ 0 then b ||| BitVec.ofNat 4 (2 ^ j) else b) 0

/-- The laser that a restored-light record names: that of the transmit lanes where they have one in common. -/
def laserName (tx : BitVec 16) : Nat :=
  match (upFrom 0 4).filter fun j => (lasersOf tx).getLsbD j with
  | [j] => j
  | _ => 255

/-- Lanes that have been lit long enough rejoin, with a record. -/
def Mach.rejoin (m : Mach) (p : Nat) : Mach :=
  let pl := m.plane p
  if pl.rejoinTx = 0 ∧ pl.rejoinRx = 0 then m
  else
    let tx := pl.txLive ||| pl.rejoinTx
    let rx := pl.rxLive ||| pl.rejoinRx
    (m.onPlane p fun pl =>
      { pl with txLive := tx, rxLive := rx, rejoinTx := 0, rejoinRx := 0
                laserOk := pl.laserOk ||| lasersOf pl.rejoinTx }).sendRecord
      (eventRecord 2 p (laserName pl.rejoinTx) m.pkg pl.txLive tx pl.rxLive rx m.fbTime 0 0)

/-- A record of a plane that changes no lanes. -/
def Mach.plainRecord (m : Mach) (p type : Nat) : Mach :=
  let pl := m.plane p
  m.sendRecord (eventRecord type p 255 m.pkg pl.txLive pl.txLive pl.rxLive pl.rxLive m.fbTime 0 0)

/-- Live lanes that listened in the entry and heard no light are recorded as a mismatch. -/
def Mach.noteMismatch (m : Mach) (p : Nat) (heard : BitVec 16) : Mach :=
  let e := m.entry p
  let pl := m.plane p
  if (upFrom 0 16).any fun l => e.rx.getD l 255 != 255 && pl.rxLive.getLsbD l && !heard.getLsbD l then m.plainRecord p 4 else m

/-- The entry that follows at a boundary: of a pending table or the default rotor where one of them begins, else the next. -/
def Mach.nextEntry (m : Mach) (p : Nat) : Mach :=
  let pl := m.plane p
  let t := m.fbTime
  let heard := m.listening p
  let go (slot start opens : Nat) (f : Plane → Plane) : Mach :=
    m.onPlane p fun pl => { f pl with slot := slot, slotStart := start, open_ := opens, heard := heard }
  let step : Mach :=
    if pl.current.isSome then go ((pl.slot + 1) % (m.entries p).length) t t id else go (t / 250 % 3) t t id
  if pl.revert && pl.current.isSome then
    if t % 250 = 0 then (go (t / 250 % 3) t (t + 20) fun pl => { pl with current := none, revert := false }).plainRecord p 3
    else
      let b := roundUp t 250
      go 64 b b id
  else match pl.pending with
    | some tt =>
      if tt.start ≤ t then (go 0 t (t + 20) fun pl => { pl with current := some tt, pending := none }).plainRecord p 3 else step
    | none => step

/-- TIMETABLE_SLOT_BOUNDARY (R271): the port moves to its next entry; `heard` are the receive lanes that had light in the one
that ends. -/
def execTimetableSlotBoundary (plane : Nat) (heard : BitVec 16) (s : State) : Out :=
  let m := s.mach
  endEvent s (if !(m.plane plane).enable || m.fbTime < m.slotEnd plane then m
    else
      let m := (((m.noteMismatch plane heard).rejoin plane).nextEntry plane)
      (m.postAt (m.slotEnd plane) (.timetableSlotBoundary plane 0xFFFF)).kickPlane plane)

/-- FB_CTL_REVERT (R275): a plane with a programmed table returns to the default rotor once its entry has ended. -/
def Mach.fbRevert (m : Mach) (p : Nat) : Mach := m.onPlane p fun pl => { pl with revert := pl.current.isSome }

/-- FB_CTL_REVERT (R275). -/
def execFbCtlRevert (plane : Nat) (s : State) : Out := endEvent s (s.mach.fbRevert plane)

/-! ## Timetable images (R273-R275) -/

/-- The steps a lane moves between two peers, the shorter way round. -/
def laneStep (a b : Nat) : Nat := min (dist a b) (192 - dist a b)

/-- Whether every lane active in both of two entries moves by at most two channel steps. -/
def smallSteps (e f : TtEntry) : Bool :=
  let ok (l m : List Nat) : Bool := (l.zip m).all fun p => p.1 == 255 || p.2 == 255 || laneStep p.1 p.2 ≤ 2
  ok e.tx f.tx && ok e.rx f.rx

/-- The entries of a timetable image. -/
def ttEntries (bs : List Byte) (n : Nat) : List TtEntry :=
  (upFrom 0 n).map fun k =>
    let e := (bs.drop (64 + 48 * k)).take 48
    let w := natLE (e.take 8)
    ⟨field w 63 32, field w 15 0, ((e.drop 8).take 16).map (·.toNat), ((e.drop 24).take 16).map (·.toNat)⟩

/-- BAD_TABLE, but for NENT. -/
def badTable (pkg : Nat) (l : List TtEntry) : Bool :=
  let peer (q : Nat) : Bool := (191 < q && q != 255) || q == pkg
  l.any (fun e => e.length < 100 || 1000000 < e.length || e.guard < 10 || 10000 < e.guard || (e.tx ++ e.rx).any peer)
    || (l.zip (l.drop 1 ++ l.take 1)).any fun p => p.2.guard < 20 && !smallSteps p.1 p.2

end Sys2Proof.Machine
end

