-- ==== Sys2Proof/Machine/Boot.lean ====
section
/-!
DEFINITION. Boot, identity and power (spec/21_bringup_host.md R335-R342): the digest and the check of a firmware image,
package reset, updates, attestation, physical memory access by the host, throttling and the thermal halt.
-/

namespace Sys2Proof.Machine

/-! ## SHAKE256 (R337, R341; log 37) -/

/-- The round constants of Keccak. -/
def keccakRc : List Word :=
  [0x0000000000000001, 0x0000000000008082, 0x800000000000808A, 0x8000000080008000, 0x000000000000808B, 0x0000000080000001,
   0x8000000080008081, 0x8000000000008009, 0x000000000000008A, 0x0000000000000088, 0x0000000080008009, 0x000000008000000A]
  ++ [0x000000008000808B, 0x800000000000008B, 0x8000000000008089, 0x8000000000008003, 0x8000000000008002, 0x8000000000000080,
   0x000000000000800A, 0x800000008000000A, 0x8000000080008081, 0x8000000000008080, 0x0000000080000001, 0x8000000080008008]

/-- The rotation of lane x + 5 y. -/
def keccakRot : List Nat :=
  [0, 1, 62, 28, 27, 36, 44, 6, 55, 20, 3, 10, 43] ++ [25, 39, 41, 45, 15, 21, 8, 18, 2, 61, 56, 14]

/-- Lane (x, y) of a state. -/
def lane (a : List Word) (x y : Nat) : Word := a.getD (x % 5 + 5 * (y % 5)) 0

/-- A state from its lanes. -/
def lanes25 (f : Nat → Nat → Word) : List Word := (upFrom 0 25).map fun i => f (i % 5) (i / 5)

/-- A round. -/
def keccakRound (a : List Word) (rc : Word) : List Word :=
  let c : List Word := (upFrom 0 5).map fun x => (upFrom 0 5).foldl (fun w y => w ^^^ lane a x y) 0
  let d (x : Nat) : Word := c.getD ((x + 4) % 5) 0 ^^^ (c.getD ((x + 1) % 5) 0).rotateLeft 1
  let t := lanes25 fun x y => lane a x y ^^^ d x
  let b := lanes25 fun x y =>
    let u := (x + 3 * y) % 5
    (lane t u x).rotateLeft (keccakRot.getD (u + 5 * x) 0)
  let n := lanes25 fun x y => lane b x y ^^^ (~~~ lane b (x + 1) y &&& lane b (x + 2) y)
  modifyAt (· ^^^ rc) 0 n

/-- Keccak-f[1600]. -/
def keccakF (a : List Word) : List Word := keccakRc.foldl keccakRound a

/-- Takes a block of 136 bytes in. -/
def absorb (a : List Word) (block : List Byte) : List Word :=
  let ws := (chunks 8 17 block).map fun b => word (natLE b)
  keccakF ((upFrom 0 25).map fun i => a.getD i 0 ^^^ ws.getD i 0)

/-- The message padded to whole blocks. -/
def shakePad (bs : List Byte) : List Byte :=
  let n := (bs.length / 136 + 1) * 136
  modifyAt (· ||| 0x80) (n - 1) (padTo n (bs ++ [0x1F]))

/-- The first 64 bytes of SHAKE256. -/
def shake256 (bs : List Byte) : List Byte :=
  let p := shakePad bs
  (bytesOfWords ((chunks 136 (p.length / 136) p).foldl absorb (List.replicate 25 0))).take 64

/-! ## Firmware images (R337) -/

/-- LENGTH of an image. -/
def imageLength (bs : List Byte) : Nat := natLE ((bs.drop 4).take 4)
/-- VERSION of an image. -/
def imageVersion (bs : List Byte) : Nat := natLE ((bs.drop 2).take 2)
/-- Whether a LENGTH is within limits. -/
def goodLength (n : Nat) : Bool := n % 64 == 0 && 64 ≤ n && n ≤ 16 * 2 ^ 20
/-- The digest of an image. -/
def imageDigest (bs : List Byte) : List Byte := shake256 (bs.take 64 ++ (bs.drop 256).take (imageLength bs))

/-- CAUSE of an image, 0 where it is valid. -/
def imageCause (bs : List Byte) : Nat :=
  if bs.length < 256 then 5
  else if !goodLength (imageLength bs) then 2
  else if bs.length < 256 + imageLength bs then 5
  else if !Config.ed448Verify Config.vendorKey (imageDigest bs) ((bs.drop 64).take 114) then 1
  else if imageVersion bs < Config.minVer then 3
  else 0

/-! ## Reset and restart (R338, R339) -/

/-- Memory from a key on: what remains when the vaults and the HBM stacks are cleared. -/
def Memory.above (mem : Memory) (low : Nat) : Memory :=
  match mem with
  | [] => []
  | (k, b) :: rest => if k < low then Memory.above rest low else (k, b) :: rest

/-- The PART_CTL fields as a write at privilege F sets them (R287). -/
def Part.setCtl (p : Part) (w : Word) : Part :=
  { p with en := bits w 63 63 == 1, run := bits w 62 62 == 1, holdRes := bits w 61 61 == 1, ceil := bits w 59 58,
           work := { p.work with gquota := min (bits w 55 50) 56 } }

/-- The firmware runs on a machine that has been reset: it sets FB_CTL.ENABLE of every port, and PART_CTL of partition h to
word h of its controls. -/
def Mach.runFirmware (m : Mach) (image : List Byte) (controls : List Word) : Mach :=
  let set (p : Part × Nat) : Part := match controls[p.2]? with
    | some w => p.1.setCtl w
    | none => p.1
  let m : Mach := { m with
    parts := (m.parts.zip (upFrom 0 8)).map set
    boot := { m.boot with state := .running, before := .running, fwVer := imageVersion image, digest := imageDigest image } }
  (upFrom 0 4).foldl Mach.startPlane m

/-- Controls that the firmware chooses, which the spec does not give (log 4). -/
def Mach.freeControls (m : Mach) : List Word × Mach :=
  ((upFrom m.fresh 8).map Config.freeWord, { m with fresh := m.fresh + 8 })

/-- A machine whose device state is lost: what was numbered and counted by the model goes on. -/
def Mach.wiped (m : Mach) : Mach := { Mach.reset with fresh := m.fresh, ids := m.ids }

/-- PACKAGE_RESET (R338): the link trains `modules`, the flash image is checked, and the firmware runs or the device is in
recovery. FB_ID has its reset value (R6, R282) until firmware runs, which puts `npkg` and `pkg` there: how it learns its place
in the domain the spec does not say (DESIGN CHOICE, log 95). -/
def execPackageReset (modules npkg pkg : Nat) (controls : List Word) (s : State) : Out :=
  let m := s.mach
  let flash := m.boot.flash
  let cause := imageCause flash
  let r : Mach := { m.wiped with boot := { Boot.reset with modules := modules, flash := flash } }
  .next ⟨s.mem.above hostStart,
    if cause = 0 then Mach.runFirmware { r with npkg := npkg, pkg := pkg } flash controls
    else { r with boot := { r.boot with state := .recovery, before := .recovery, cause := cause } }⟩

/-- UCIE_MODULE_FAILURE (R335): `modules` of those still trained fail and are left out. -/
def execUcieModuleFailure (modules : Nat) (s : State) : Out :=
  endEvent s { s.mach with boot := { s.mach.boot with modules := s.mach.boot.modules - modules } }

/-- Sets CAUSE. -/
def Mach.bootCause (m : Mach) (n : Nat) : Mach := { m with boot := { m.boot with cause := n } }

/-- The bytes of host memory from a host-window address on, none where they leave the window. -/
def hostBytes (mem : Memory) (m : Mach) (a n : Nat) : List Byte :=
  if windowOf a = .host ∧ windowOf (a + n - 1) = .host then peekAll mem m (upFrom a n) else []

/-- The image at BOOT_IMG, as far as it can be read. -/
def readImage (mem : Memory) (m : Mach) : List Byte :=
  let a := m.boot.imgAddr.toNat
  if a % 64 ≠ 0 then []
  else
    let h := hostBytes mem m a 256
    if goodLength (imageLength h) then hostBytes mem m a (256 + imageLength h) else h

/-- GO (R339): accepted when the device is idle or in recovery, else ignored with a cause. With no module trained the read of
the image waits (R335). -/
def Mach.bootGo (mem : Memory) (m : Mach) : Mach :=
  let b := m.boot
  let idle := m.parts.all (!·.run) && (upFrom 0 m.cores.length).all m.haltedCore
  let start : Mach :=
    let (controls, m) := m.freeControls
    let m : Mach := { m with boot := { b with state := .verifying, before := b.state, loading := readImage mem m } }
    if b.modules = 0 then m else m.post (m.cycle + 1) (.firmwareCheckComplete controls)
  match b.state with
  | .recovery => start
  | .running => if idle then start else m.bootCause 6
  | .reset | .verifying => m.bootCause 4

/-- BOOT_GO (R339): the host's write, which fails at the host with no module trained (R335). -/
def execBootGo (s : State) : Out := endEvent s (if s.mach.boot.modules = 0 then s.mach else s.mach.bootGo s.mem)

/-- FIRMWARE_CHECK_COMPLETE (R339): a valid image is written to flash and the device restarts; otherwise STATE returns to its
value before GO with a cause. The system registers take their reset values, FB_ID among them. -/
def execFirmwareCheckComplete (controls : List Word) (s : State) : Out :=
  let m := s.mach
  let b := m.boot
  let cause := imageCause b.loading
  if b.state != .verifying then .next s
  else if cause ≠ 0 then endEvent s { m with boot := { b with state := b.before, cause := cause, loading := [] } }
  else
    let boot : Boot := { b with flash := b.loading, loading := [], cause := 0, tHalt := false, report := none, powerHalted := [] }
    let r : Mach := { m.wiped with cycle := m.cycle, boot := boot }
    .next ⟨s.mem.above hostStart, r.runFirmware b.loading controls⟩

/-- POWER_FAIL (R339): power lost while a valid image is being erased or written leaves no image; the device's state is
lost. -/
def execPowerFail (s : State) : Out :=
  let b := s.mach.boot
  let flash := if b.state == .verifying && imageCause b.loading == 0 then [] else b.flash
  .next ⟨s.mem.above hostStart, { s.mach.wiped with boot := { Boot.reset with modules := 0, flash := flash } }⟩

/-! ## Attestation (R341) -/

/-- Exactly n bytes. -/
def exactly (n : Nat) (bs : List Byte) : List Byte := padTo n (bs.take n)

/-- The report for a nonce. -/
def Mach.attestation (m : Mach) (nonce : List Byte) : List Byte :=
  let parts := ((upFrom 0 8).filter fun h => (m.part h).en).foldl (fun n h => n + 2 ^ h) 0
  let body := bytesLE 8 (m.pkg * 2 ^ 56 + parts * 2 ^ 48 + m.boot.fwVer * 2 ^ 32) ++ exactly 64 m.boot.digest ++ nonce
    ++ bytesLE 8 (m.cores.filter (·.retired)).length ++ exactly 57 Config.idKey ++ List.replicate 7 0
  padTo 320 (body ++ exactly 114 (Config.ed448Sign (shake256 body)))

/-- ATTEST: the nonce is read and a report is on its way to the ATT_ADDR of now. -/
def Mach.attest (mem : Memory) (m : Mach) : Mach :=
  let a := m.boot.attAddr.toNat
  if m.boot.state != .running || m.boot.report.isSome then m.bootCause 4
  else if windowOf a ≠ .host ∨ windowOf (a + 319) ≠ .host then m.bootCause 5
  else
    let report := m.attestation (hostBytes mem m (a + 0x48) 32)
    Mach.post { m with boot := { m.boot with report := some report, reportAt := a } } (m.cycle + hostCycles)
      .attestReportComplete

/-- ATTEST (R341): the host's write, which fails at the host with no module trained (R335). -/
def execAttest (s : State) : Out := endEvent s (if s.mach.boot.modules = 0 then s.mach else s.mach.attest s.mem)

/-- ATTEST_REPORT_COMPLETE (R341): every byte of the report has performed, and ATTDONE is set. -/
def execAttestReportComplete (s : State) : Out :=
  let m := s.mach
  endEvent s (match m.boot.report with
    | none => m
    | some bs =>
      if m.boot.modules = 0 then m.again .attestReportComplete
      else Mach.writeBytes { m with boot := { m.boot with report := none, attDone := true } } m.boot.reportAt bs)

/-! ## The host in physical memory (R336) -/

/-- Whether a key names a byte of a vault, of a stack or of host memory (R102, R106). -/
def keyExists (key : Nat) : Bool := windowOf key == .vault || windowOf key == .hbm || windowOf key == .host

/-- An atomic of the host performs at the home of its word, one indivisible read and write (R106, R128). -/
def Mach.atomicByHost (mem : Memory) (m : Mach) (key : Nat) (a : Atomic) : Mach :=
  let n := typeSize a.type
  let (new, writes, _) := m.performOne a (typeExtend a.type (word (peekNat mem m key n))) (carry a a.d)
  if writes then m.writeBytes key (bytesLE n new.toNat) else m

/-- The keys that an access of the host touches. -/
def hostKeys (key : Nat) (what : HostAccess) (bytes : List Byte) : List Nat :=
  upFrom key (match what with
    | .atomic a => typeSize a.type
    | .read | .write => bytes.length
    | .release => 0)

/-- Whether an access of the host stays in its own memory, which it reaches without the attachment (R106). -/
def ownMemory (keys : List Nat) : Bool := !keys.isEmpty && keys.all fun k => windowOf k == .host

/-- HOST_MEMORY_ACCESS (R128, R336): a write performs at its home, and so does an atomic on a page with the system-atomic
attribute; a read changes no byte. An atomic of the host on another page is a read and later a write. Every access of barrier
objects, the read too, is followed by their completion check (R54, R126). With no module trained, or in recovery, an access to the package fails at the
host. A release lets a halted core go on (R303, R339). -/
def execHostMemoryAccess (key : Nat) (what : HostAccess) (bytes : List Byte) (s : State) : Out :=
  let m := s.mach
  let keys := hostKeys key what bytes
  if (m.boot.modules = 0 ∨ m.boot.state = .recovery) ∧ ownMemory keys = false then endEvent s m
  else match keys.find? (!keyExists ·) with
    | some k => .fault (.noSuchMemory k)
    | none => endEvent s (match what with
      | .atomic a => (m.atomicByHost s.mem key a).settleBarriers s.mem keys
      | .write => (m.writeBytes key bytes).settleBarriers s.mem keys
      | .read => m.settleBarriers s.mem keys
      | .release => if m.boot.state = .running then m.releaseCore key .order else m)

/-! ## Power and cooling (R342) -/

/-- Whether the firmware runs. -/
def Boot.runs (b : Boot) : Bool := b.state == .running || (b.state == .verifying && b.before == .running)

/-- TEMP is measured. -/
def Mach.setTemp (m : Mach) (temp : Nat) : Mach := { m with boot := { m.boot with temp := temp } }

/-- THROTTLE_STEP (R342): at most one step of THROT in 10 µs. -/
def execThrottleStep (temp : Nat) (s : State) : Out :=
  let m := s.mach.setTemp temp
  let t := m.boot.throt
  endEvent s (if !m.boot.runs || m.cycle < m.boot.throtNext || (90 ≤ temp && temp < 95) then m
    else { m with boot := { m.boot with throt := if 95 ≤ temp then min (t + 1) 12 else t - 1
                                        throtNext := m.cycle + 10000 } })

/-- THERMAL_HALT (R342): every core halts, for one cause more where it is halted already, and each enabled partition gets a
record. -/
def execThermalHalt (temp : Nat) (s : State) : Out :=
  let m := s.mach.setTemp temp
  endEvent s (if temp < 105 ∨ m.boot.tHalt ∨ !m.boot.runs then m
    else
      let l := upFrom 0 m.cores.length
      let m := l.foldl (fun m c => m.deviceHalt c .heat) { m with boot := { m.boot with tHalt := true, powerHalted := l } }
      ((upFrom 0 8).filter fun h => (m.part h).en).foldl
        (fun m h => m.report h (faultRecord 0x0A 0 0 0 0 0 0 0 (word temp) m.cycle)) m)

/-- THERMAL_RELEASE (R342): the cores that the firmware halted go on, and THALT falls. -/
def execThermalRelease (temp : Nat) (s : State) : Out :=
  let m := s.mach.setTemp temp
  endEvent s (if !m.boot.tHalt ∨ 90 ≤ temp then m
    else m.boot.powerHalted.foldl (fun m c => m.releaseCore c .heat) { m with boot := { m.boot with tHalt := false, powerHalted := [] } })

end Sys2Proof.Machine
end

