-- ==== Sys2Proof/Machine/Rerun.lean ====
section
/-!
DEFINITION. Units that run again after a data error (spec/01_execution_model.md R36; spec/18_translation_faults.md R323, R324): in
their contexts, saved, or in a cloakroom image.
-/

namespace Sys2Proof.Machine

/-- A unit that met a data error runs again in its context, or is cancelled at its third: whether it runs again. -/
def Mach.rerun (m : Mach) (c k : Nat) : Bool × Mach :=
  match (m.ctx c k).unit with
  | none => (false, m)
  | some u =>
    if (m.ctx c k).status == .merging || (m.ctx c k).status == .stopping then (false, m)
    else if 2 ≤ u.errors then (false, m.cancelFrom (partOf c) [u.uid])
    else (true, (m.freeBlocks (partOf c) u.blocks).restart c k { u with errors := u.errors + 1 })

/-- A saved unit that met a data error is placed again as unstarted, or is cancelled at its third. -/
def Mach.rerunSaved (m : Mach) (h uid : Nat) : Bool × Mach :=
  match (m.work h).saves.find? (·.unit.uid == uid) with
  | none => (false, m)
  | some v =>
    if 2 ≤ v.unit.errors then (false, m.cancelSave h v)
    else
      let m := m.onWork h fun w => { w with saves := w.saves.filter (·.unit.uid != uid) }
      let m := match v.reserved with
        | some k => m.freeCtx v.core k
        | none => m.dropRings v.core
      (true, m.placeAgain h { v.unit with errors := v.unit.errors + 1 })

/-- A unit runs again, wherever it is. -/
def Mach.rerunUnit (m : Mach) (h uid : Nat) : Bool × Mach :=
  match m.findUnit h uid with
  | some (c, k) => m.rerun c k
  | none => m.rerunSaved h uid

/-- An error counts against the units that it is of, where they do not run again for it (R324). -/
def Mach.countErrors (m : Mach) (h : Nat) (uids : List Nat) : Mach :=
  let more (u : UnitId) : UnitId := if uids.contains u.uid then { u with errors := u.errors + 1 } else u
  let inWork (w : Work) : Work := { w with saves := w.saves.map fun v => { v with unit := more v.unit } }
  let inCore (co : Core) : Core := { co with ctxs := co.ctxs.map fun x => { x with unit := x.unit.map more } }
  let m := uids.foldl (fun m uid => m.onUnit h uid fun x => { x with unit := x.unit.map more }) m
  m.onPart h fun p =>
    { p with work := inWork p.work
             images := p.images.map fun i => i.map fun im => { im with cores := im.cores.map inCore, work := inWork im.work } }

/-! ## Cloakroom images -/

/-- The units of an image, in contexts or saved. -/
def Image.units (im : Image) : List UnitId := (im.cores.flatMap fun co => co.ctxs.filterMap (·.unit)) ++ im.work.saves.map (·.unit)

/-- A data error has met a unit's state in an image: the unit runs again once the image is on the cores, but for a third error
(R323, R324; log 123): whether it does, and the image. -/
def Image.strike (uid : Nat) (im : Image) : Bool × Image :=
  match im.units.find? (·.uid == uid) with
  | some u => (decide (u.errors + im.struck.count uid < 2), { im with struck := im.struck ++ [uid] })
  | none => (false, im)

/-- A data error has met a unit's state in a bank that is not on the cores. -/
def Mach.strikeImages (m : Mach) (h uid : Nat) : Bool × Mach :=
  let hits := (m.part h).images.map fun i => i.map (·.strike uid)
  (hits.any fun q => q.any (·.1), m.onPart h fun p => { p with images := hits.map fun q => q.map (·.2) })

/-- The units of an image that is on the cores now run again, if their state met a data error in the cloakroom; a third error
cancels (R323, R324). -/
def Mach.rerunStruck (h : Nat) (l : List Nat) (m : Mach) : Mach :=
  match l with
  | [] => m
  | uid :: rest => Mach.rerunStruck h rest (if rest.contains uid then m.countErrors h [uid] else (m.rerunUnit h uid).2)

end Sys2Proof.Machine
end

