-- ==== Sys2Proof/Machine/Cloak.lean ====
section
/-!
DEFINITION. Privileged triggers (spec/08_ops_control.md R173) and the cloakroom (spec/17_scheduling.md R304, R305): a
partition's state written to a bank, read back, or replaced by an empty image.
-/

namespace Sys2Proof.Machine

/-! ## The frame of a privileged trigger (R149, R173) -/

/-- The privileges in order. -/
def Priv.rank : Priv → Nat
  | .task => 0
  | .s => 1
  | .f => 2

/-- A privileged trigger: PROT below its privilege; it stalls while an earlier operation of the context is under way. -/
def privTrigger (need : Priv) (o : TOp) (s : State) (f : Memory → Mach → Word → Except Stop Mach) : Out :=
  triggerW o s fun mem m t =>
    if m.me.priv.rank < need.rank then .error (.raise ⟨.prot, 1, 0, 3, false, false⟩)
    else do
      let _ ← cuFree m
      f mem m t

/-- A completion status at once. -/
def Mach.status (m : Mach) (n : Nat) : Mach := m.result .cu (word n) 1

/-- An operation begins whose status comes later. -/
def Mach.beginOp (m : Mach) (op : PrivOp) : Mach :=
  let (tag, m) := m.newId
  (m.awaitResult .cu tag).onMe fun x => { x with privOp := some op }

/-! ## Conditions of the cloakroom (R305) -/

/-- Whether some factor vector of a partition, in a context or a save, is pending. -/
def Mach.pendingVectors (m : Mach) (h : Nat) : Bool :=
  let pending (x : Ctx) : Bool := x.fv.any (·.state == .pending)
  ((partCores h).any fun c => (m.core c).ctxs.any pending) || (m.work h).saves.any fun v => pending v.image

/-- The status with which a cloak.out or cloak.in of partition t is turned away, 0 where it is accepted. -/
def Mach.cloakStatus (m : Mach) (own t : Nat) (load : Bool) : Nat :=
  let p := m.part t
  if 7 < t then 1
  else if t = own then 2
  else if p.run || !((partCores t).all m.haltedCore) then 3
  else if load && !p.valid.getD (1 - p.res) false then 4
  else if load && !p.saved then 5
  else if !load && m.pendingVectors t then 6
  else 0

/-- Whether nothing is on its way to a context of a partition, and neither its merges nor its restores are at work. -/
def Mach.partSettled (m : Mach) (h : Nat) : Bool :=
  let mine (c : Nat) : Bool := partOf c == h
  ((partCores h).all fun c => (m.core c).ctxs.all (fun x => x.settled && x.privOp.isNone) && (m.core c).dicts.all (·.due.isNone))
    && (m.work h).families.all (fun f => !f.busy || f.suspended) && (m.work h).saves.all (·.due.isNone)
    && m.contribs.all (fun q => !mine q.core && !mine q.toCore) && m.bars.all (!mine ·.core) && m.host.all (!mine ·.core)

/-! ## Writing a bank (R305) -/

/-- A partition's state as its image holds it. -/
def Mach.imageOf (m : Mach) (h : Nat) : Image := ⟨(partCores h).map m.core, m.work h, []⟩

/-- A bank holds an image. -/
def Part.putImage (p : Part) (bank : Nat) (im : Image) : Part :=
  { p with images := modifyAt (fun _ => some im) bank p.images, valid := modifyAt (fun _ => true) bank p.valid }

/-- The partition's state is written into its resident bank. -/
def Mach.cloakOut (m : Mach) (h : Nat) : Mach :=
  m.onPart h fun p => { p.putImage p.res (m.imageOf h) with saved := true }

/-- cu.cloak.out (R305). -/
def execCuCloakOut (o : TOp) (s : State) : Out :=
  privTrigger .f o s fun _ m t =>
    let st := m.cloakStatus m.myPart t.toNat false
    .ok (if st ≠ 0 then m.status st
      else (m.beginOp (.cloakOut t.toNat)).post (m.cycle + 1800) (.cloakOutComplete m.issue.core m.issue.ctx))

/-- CLOAK_OUT_COMPLETE (R305): once what is on its way to the halted partition has come, its state is in the bank. -/
def execCloakOutComplete (core ctx : Nat) (s : State) : Out :=
  let m := s.mach
  endEvent s (match (m.ctx core ctx).privOp with
    | some (.cloakOut h) =>
      if m.partSettled h || !((partCores h).all m.haltedCore) then (m.cloakOut h).privDone core ctx 0
      else m.again (.cloakOutComplete core ctx)
    | _ => m)

/-! ## Another tenant's state in place of it (R304, R305) -/

/-- The queue entries of a partition become free, and its blocked packets no longer wait. -/
def Mach.dropEntries (m : Mach) (h : Nat) : Mach :=
  (m.onDie (h / 2) fun d =>
    { d with entries := d.entries.map (fun e => if e = some h then none else e), blocked := d.blocked.filter (·.part != h) }).post
      m.cycle (.queueEntryGrant (h / 2))

/-- The queue entry of an incoming packet: its own number, else another that is free. -/
def Mach.reclaim (m : Mach) (h : Nat) (b : Batch) : Mach :=
  match b.entry with
  | none => m
  | some e =>
    let d := m.die (h / 2)
    let free (i : Nat) : Bool := d.entries.getD i (some 0) == none
    let e' := if free e then some e else (upFrom 0 56).find? free
    let m := m.onWork h fun w => { w with batches := w.batches.map fun q => if q.id = b.id then { q with entry := e' } else q }
    match e' with
    | some i => m.takeEntry h i
    | none => m

/-- A core whose state is replaced by another tenant's: what is the core's own stays. -/
def Core.replaced (old new : Core) (sent : List Nat) : Core :=
  let ctx (p : Ctx × Ctx) : Ctx :=
    { p.2 with halted := p.1.halted, fqHalted := p.1.fqHalted, peerOut := p.2.peerOut.filter sent.contains }
  { new with
    ctxs := (old.ctxs.zip new.ctxs).map ctx
    bufs := new.bufs.map fun b => { b with owner := none }
    tlb := []
    nextIssue := old.nextIssue
    halted := old.halted
    haltCauses := old.haltCauses
    jobsHalted := old.jobsHalted
    retired := old.retired }

/-- The cores of a partition take another tenant's state, and the other bank is resident. -/
def Mach.replace (m : Mach) (h : Nat) (im : Image) : Mach :=
  let new := (partCores h).zip im.cores
  let put (p : Nat × Core) : Core := match new.lookup p.1 with
    | some co => p.2.replaced co (m.sent.map (·.id))
    | none => p.2
  let m : Mach := { m with cores := ((upFrom 0 m.cores.length).zip m.cores).map put, walks := m.walks.filter (·.part != h) }
  (m.dropEntries h).onPart h fun p =>
    { p with res := 1 - p.res, ingress := [], work := { im.work with gquota := p.work.gquota } }

/-- A context of an incoming tenant that was blocked on a queue entry waits for one again. -/
def Mach.waitAgain (m : Mach) (h c k : Nat) : Mach :=
  match (m.ctx c k).status with
  | .blocked (.entry depth) => m.joinBlocked c k h depth
  | _ => m

/-- The image of the bank that is not resident is read: its packets take queue entries, and the units of a core that has been
retired since are placed again. -/
def Mach.cloakIn (m : Mach) (h : Nat) (im : Image) : Mach :=
  let m := im.work.batches.foldl (fun m b => m.reclaim h b) (m.replace h im)
  let m := (partCores h).foldl (fun m c => (upFrom 0 8).foldl (fun m k => m.waitAgain h c k) m) m
  let m := Mach.rerunStruck h im.struck m
  let m := m.onPart h fun p => { p with saved := false }
  ((partCores h).filter fun c => (m.core c).retired).foldl Mach.retireCore m

/-- cu.cloak.in (R305). -/
def execCuCloakIn (o : TOp) (s : State) : Out :=
  privTrigger .f o s fun _ m t =>
    let st := m.cloakStatus m.myPart t.toNat true
    .ok (if st ≠ 0 then m.status st
      else (m.beginOp (.cloakIn t.toNat)).post (m.cycle + 1800) (.cloakInComplete m.issue.core m.issue.ctx))

/-- CLOAK_IN_COMPLETE (R305). -/
def execCloakInComplete (core ctx : Nat) (s : State) : Out :=
  let m := s.mach
  endEvent s (match (m.ctx core ctx).privOp with
    | some (.cloakIn h) =>
      match (m.part h).images.getD (1 - (m.part h).res) none with
      | some im => (m.cloakIn h im).privDone core ctx 0
      | none => m.privDone core ctx 4
    | _ => m)

/-! ## An empty image (R304) -/

/-- The image of a partition with no tenant; its registers stay. -/
def Work.emptied (w : Work) : Work :=
  { Work.reset with
    gquota := w.gquota, wpMax := w.wpMax, quantum := w.quantum, slotKb := w.slotKb, wptab := w.wptab
    subqBase := w.subqBase, subqHead := w.subqHead, subqTail := w.subqTail, subqSize := w.subqSize }

/-- A write of 1 to PART_CTL.FRESH: with SAVED = 1 the other bank becomes resident, with an empty image. -/
def Mach.emptyBank (m : Mach) (h : Nat) : Mach :=
  let p := m.part h
  if !p.saved then m
  else
    let im : Image := ⟨List.replicate 20 Core.reset, p.work.emptied, []⟩
    (m.replace h im).onPart h fun p => p.putImage p.res im

/-- PART_CTL_FRESH (R304). -/
def execPartCtlFresh (part : Nat) (s : State) : Out := endEvent s (s.mach.emptyBank part)

end Sys2Proof.Machine
end

