-- ==== Sys2Proof/Machine/Mx.lean ====
section
/-!
DEFINITION. The matrix array (spec/10_ops_tile_matrix.md R197-R207; spec/03_numbers.md R66, R67; spec/04_pending_factors.md
R91): loads of B into the two buffers, streams of A past them, the products and their rows in C.
-/

namespace Sys2Proof.Machine

/-! ## When a command runs (R204) -/

/-- The cycles from the start of a read to its last byte. -/
def readTime (m : Mach) (c addr bytes : Nat) (segs : List Seg) : Nat :=
  rangeCycles m c addr segs + ceilDiv bytes (if windowOf addr = .vault ∧ vaultCore addr = c then 4096 else 64)

/-- Whether a bload can start: the previous bload is complete, and every earlier stream on its buffer is over. -/
def Core.bloadFree (co : Core) (now : Nat) (q : MxCmd) : Bool :=
  co.mx.all fun r => q.id ≤ r.id || (if r.bload then false else r.buf != q.buf || r.streamed now)

/-- Whether a stream can launch: the previous one is over, and every earlier bload into its buffer is complete. -/
def Core.launchFree (co : Core) (now : Nat) (q : MxCmd) : Bool :=
  q.readAt ≤ now && co.mx.all fun r => q.id ≤ r.id || (if r.bload then r.buf != q.buf else r.streamed now)

/-- A command's last read has retired: its ring slot and reservation are released. -/
def Mach.retireReads (m : Mach) (c : Nat) (q : MxCmd) : Mach :=
  match q.ring with
  | some r => (m.leaveSlot c (some r)).release c q.id
  | none => m

/-- BLOAD_START (R204): the reads of B begin. -/
def execBloadStart (core id : Nat) (s : State) : Out :=
  let m := s.mach
  endEvent s (match (m.core core).mxCmd id with
    | none => m
    | some q =>
      if q.state != .queued then m
      else if !(m.core core).bloadFree m.cycle q then m.again (.bloadStart core id)
      else
        (m.setMx core { q with start := m.cycle, state := .reading }).post (m.cycle + q.readAt) (.bloadComplete core id))

/-- The last byte of B is read: the reservation and a taken ring slot are released (R107, R201), and the completion follows
(R204). -/
def Mach.bloadRead (mem : Memory) (m : Mach) (c : Nat) (q : MxCmd) : Mach :=
  (((m.retireReads c q).settleBarriers mem (barrierKeys q.segs)).setMx c { q with bData := peekAll mem m (segKeys q.segs), state := .writing }).post
    (max (q.start + 256) (m.cycle + 4)) (.bloadComplete c q.id)

/-- BLOAD_COMPLETE (R204, R262): B has been read, and then buffer BUF holds it. -/
def execBloadComplete (core id : Nat) (s : State) : Out :=
  let m := s.mach
  endEvent s (match (m.core core).mxCmd id with
    | none => m
    | some q =>
      if q.state == .reading then
        if m.operandsFree core q then m.bloadRead s.mem core q else m.again (.bloadComplete core id)
      else if q.state == .writing then
        (m.onCore core fun co =>
          { co with bufs := modifyAt (fun b => { b with fmt := q.fmt, data := q.bData }) q.buf co.bufs }).dropMx core id
      else m)

/-- MMA_LAUNCH (R204): A streams past the buffer. A forced resolve of C comes first and takes 8 + M cycles. -/
def execMmaLaunch (core id : Nat) (s : State) : Out :=
  let m := s.mach
  endEvent s (match (m.core core).mxCmd id with
    | none => m
    | some q =>
      if q.launched then m
      else if q.state == .reading then
        let m := match q.resolve with
          | some r => m.onCtx core q.ctx (·.resolveNoted r q.fvs)
          | none => m
        let b := (m.core core).bufs.getD q.buf ⟨none, .s4, []⟩
        let q := { q with start := m.cycle, state := .streaming, aData := peekAll s.mem m (segKeys q.segs),
                          metaData := peekAll s.mem m (segKeys q.metaSegs), bData := b.data, bFmt := b.fmt }
        (((m.settleBarriers s.mem (barrierKeys (q.segs ++ q.metaSegs))).setMx core q).post (m.cycle + q.occupancy) (.aReadRetirement core id)).post (q.rowAt 0) (.mmaRowWrite core id)
      else if !(m.core core).launchFree m.cycle q || !m.operandsFree core q then m.again (.mmaLaunch core id)
      else
        let wait := match q.resolve with
          | some r => 8 + r.tile.rows
          | none => 0
        (m.setMx core { q with state := .reading }).post (m.cycle + wait) (.mmaLaunch core id))

/-- A_READ_RETIREMENT (R204): the reads of A are over; a taken ring slot frees. -/
def execAReadRetirement (core id : Nat) (s : State) : Out :=
  let m := s.mach
  endEvent s (match (m.core core).mxCmd id with
    | some q =>
      if q.state == .streaming && q.start + q.occupancy ≤ m.cycle then
        (m.retireReads core q).setMx core { q with state := .writing }
      else m
    | none => m)

/-! ## The rows of C -/

/-- The context after row i of C is written (R202): the sticky bits are set with it. -/
def Ctx.writeProduct (x : Ctx) (q : MxCmd) (i : Nat) : Ctx :=
  let (cells, ovf, esc, bad) := q.product x i
  let x := x.setTileRow q.tile.tile i cells
  let x := if ovf && q.tile.tile.occupied then x.rawOverflow q.tile else x
  let x := if esc then x.raiseCsw cswEscOvr else x
  if bad then x.raiseCsw cswSparseMeta else x

/-- Writes the rows that are due in this cycle, at most `n`, from the next one on. -/
def Mach.writeRows (m : Mach) (c : Nat) (q : MxCmd) : Nat → Mach × MxCmd
  | 0 => (m, q)
  | n + 1 =>
    if q.row < q.tile.tile.rows ∧ q.rowAt q.row ≤ m.cycle then
      (m.onCtx c q.ctx (·.writeProduct q q.row)).writeRows c { q with row := q.row + 1 } n
    else (m, q)

/-- MMA_ROW_WRITE (R204): the rows of this cycle are written; with the last the command is over. -/
def execMmaRowWrite (core id : Nat) (s : State) : Out :=
  let m := s.mach
  endEvent s (match (m.core core).mxCmd id with
    | none => m
    | some q =>
      if !q.launched then m
      else
        let (m, q) := m.writeRows core q 4
        if q.tile.tile.rows ≤ q.row then
          (m.dropMx core id).onCtx core q.ctx fun x => { x with mxwFrom := m.cycle + 1 }
        else (m.setMx core q).post (q.rowAt q.row) (.mmaRowWrite core id))

/-! ## Issue (R197, R203-R207) -/

/-- A factor latch's content: a word that no trigger accepts, or a vector beyond the window. -/
def badFactorLatch (x : Ctx) (l : Latch) : Bool × Bool :=
  match (x.latchCell l).val with
  | none => (false, false)
  | some v => (badFactor false v, x.fv.length ≤ bits (factorWord v) 5 0)

/-- Takes an optional factor latch. -/
def takeFactor (l : Latch) (m : Mach) : Option Factor × Mach :=
  let (v, m) := takeIf l m
  (v.map fun v => factorOf (factorWord v), m)

/-- The queue of four (R204). -/
def mxReady (m : Mach) : Except Stop Unit :=
  if 4 ≤ m.myCore.mxQueued m.issue.ctx then .error (.block .mxQueue) else .ok ()

/-- The unit that issues. -/
def Mach.myUid (m : Mach) : Nat := (m.me.unit.map (·.uid)).getD 0

/-- A new command. -/
def newMx (id ctx uid : Nat) (fmt : MxFmt) (buf : Nat) : MxCmd :=
  ⟨id, ctx, uid, true, fmt, false, buf, false, ⟨0, .unset⟩, none, [], [], [], none, none, [], [], none, 0, 0, id, .queued,
    [], [], [], fmt, 0⟩

/-- The context that issues, with its unit, as the owner of a buffer (R205). -/
def Mach.asOwner (m : Mach) : Option (Nat × Nat) := some (m.issue.ctx, m.myUid)

/-- A bload, the implicit one of R205 too (log 14), joins the queue, and the buffer is its context's (R199, R205). -/
def Mach.pushBload (m : Mach) (fmt : MxFmt) (buf addr : Nat) (pages : List (Seg × Word)) (ring : Option (Nat × Nat))
    (id : Nat) : Mach :=
  let c := m.issue.core
  let segs := pages.map (·.1)
  let q : MxCmd := { newMx id m.issue.ctx m.myUid fmt buf with
    segs := segs, ring := ring, readAt := readTime m c addr fmt.bBytes segs }
  let m := m.onCore c fun co =>
    { co with mx := co.mx ++ [q], bufs := modifyAt (fun b => { b with owner := m.asOwner }) buf co.bufs }
  (m.allocPages pages).post m.cycle (.bloadStart c id)

/-- The segments of an operand of the array, with their pages' entries: aligned to 16 bytes, in one window. -/
def mxPages (m : Mach) (base size : Nat) : Except Stop (List (Seg × Word)) :=
  if base % 16 ≠ 0 then alignFault base
  else match enginePages m false base size [(base, size)] with
    | .ok l => .ok l.flatten
    | .error e => .error e

/-- A bload trigger (R199, R201). -/
def mxBload (code : Nat) (fmt : MxFmt) (o : TOp) (s : State) : Out :=
  triggerW o s fun _ m t =>
    with1 code .mxB isMem m fun b m => do
      let size := fmt.bBytes
      let p ← memOperand m b size true
      let pages ← mxPages m p.base size
      let _ ← mxReady m
      let (id, m) := m.newId
      let m ← useRing m id p true
      let buf := bits t 1 1
      let m := m.onMe fun x => { x with brec := modifyAt (fun _ => some ⟨fmt, p.base⟩) buf x.brec }
      .ok (m.pushBload fmt buf p.base pages p.slot id)

/-- What an mma does to the slots of C at issue (R91): C afterwards, whether it is resolved first, and whether the factors
enter the products. -/
structure MmaCase where
  tile : Tile
  resolve : Bool
  scaled : Bool

/-- The three cases of R91. -/
def mmaCase (accum : Bool) (c : Tile) (a b : Option Factor) : MmaCase :=
  if !accum then ⟨c.withSlots none a b none none, false, false⟩
  else if c.rho == a && c.kappa == b && c.sigma.isNone && c.beta.isNone && c.gamma.isNone then ⟨c, false, false⟩
  else ⟨c.bare, c.occupied, true⟩

/-- The values of a factor over the first `n` entries, none where there is no factor. -/
def Ctx.factorCells (x : Ctx) (f : Option Factor) (n : Nat) : List Cell :=
  match f with
  | some f => (upFrom 0 n).map fun i => flCell (x.factorAt f i)
  | none => []

/-- The waits and the forced resolve of the third case of R91. -/
def mmaFactors (m : Mach) (c : TileRef) (k : MmaCase) (a b : Option Factor) : Except Stop Mach :=
  if !k.scaled then .ok m
  else do
    let fs := a.toList ++ b.toList
    let busy := (c.tile.factors ++ fs).any fun f =>
      m.myCore.tf.any fun q => q.ctx == m.issue.ctx && !q.ended && q.fv == f.fv
    let _ ← awaitVectors m (c.vectors ++ fs.map fun f => (f.fv, f.fv * 256 + 128))
    let m ← forcedResolve m (if k.resolve then [c] else [])
    if busy then .error .stall else .ok m

/-- The bytes of the A operand. -/
def aBytes (fmt : MxFmt) (sparse : Bool) (rows : Nat) : Nat :=
  if fmt = .s4 ∧ sparse then 176 * ((rows + 1) / 2) else rows * fmt.rowBytes sparse

/-- The implicit reload of R205: the segments of the recorded B where another context owns the buffer. -/
def reload (m : Mach) (buf : Nat) (r : BRec) : Except Stop (Option (List (Seg × Word))) :=
  if (m.myCore.bufs.getD buf ⟨none, .s4, []⟩).owner = m.asOwner then .ok none
  else match mxPages m r.addr r.fmt.bBytes with
    | .ok pages => .ok (some pages)
    | .error e => .error e

/-- An mma or spa whose latches have been taken. -/
def mxRun (m : Mach) (fmt : MxFmt) (sparse : Bool) (t : Word) (a : Val) (c : TileRef) (md : Val)
    (ars bcs : Option Factor) : Except Stop Mach := do
  let x := m.me
  let buf := bits t 1 1
  let accum := bits t 0 0 == 1
  let tile := c.tile
  let fits := if fmt.isInt then tile.fmt == .i32 && ars.isNone && bcs.isNone else tile.fmt == .f32
  match x.brec.getD buf none with
  | none => illOperand
  | some rec_ =>
    if !fits || !fmt.takes rec_.fmt then illOperand
    else do
      let size := aBytes fmt sparse tile.rows
      let p ← memOperand m a size true
      let pages ← mxPages m p.base size
      let metaPages ← if sparse then mxPages m md.w.toNat (32 * tile.rows) else .ok []
      let segs := pages.map (·.1)
      let metaSegs := metaPages.map (·.1)
      let again ← reload m buf rec_
      let k := mmaCase accum tile ars bcs
      let m' ← mmaFactors m c k ars bcs
      let _ ← mxReady m
      let (bid, m') := m'.newId
      let m' := match again with
        | some bs => m'.pushBload rec_.fmt buf rec_.addr bs none bid
        | none => m'
      let (id, m') := m'.newId
      let m' ← useRing m' id p true
      let core := m.issue.core
      let aEnd := m.cycle + readTime m core p.base size segs
      let mEnd := if sparse then
          m.cycle + readTime m core md.w.toNat (32 * tile.rows) metaSegs
        else 0
      let q : MxCmd := { newMx id m.issue.ctx m.myUid fmt buf with
        bload := false, sparse := sparse, accum := accum, tile := ⟨c.index, k.tile⟩,
        resolve := if k.resolve then some c else none, fvs := if k.resolve then x.fv else [],
        rowF := if k.scaled then x.factorCells ars tile.rows else [],
        colF := if k.scaled then x.factorCells bcs tile.n else [],
        sca := if fmt.isInt then none else x.effectiveScale false,
        scb := if fmt.isInt then none else x.effectiveScale true,
        segs := segs, metaSegs := metaSegs, ring := p.slot, readAt := max aEnd mEnd - 80 }
      let m' := (m'.setTile ⟨c.index, k.tile⟩).onMyCore fun co => { co with mx := co.mx ++ [q] }
      .ok ((m'.allocPages (pages ++ metaPages)).post (max m.cycle q.readAt) (.mmaLaunch core id))

/-- An mma or spa trigger. -/
def mxMma (code : Nat) (fmt : MxFmt) (sparse : Bool) (o : TOp) (s : State) : Out :=
  triggerW o s fun _ m t =>
    let x := m.me
    let fa := badFactorLatch x .mxArs
    let fb := badFactorLatch x .mxBcs
    if fa.1 || fb.1 then illBundle
    else do
      let need := [(Latch.mxA, isMem), (.mxAcc, isTile)] ++ (if sparse then [(.mxMeta, Val.isWord)] else [])
      let _ ← checkKinds m (need ++ [(.mxArs, isFactor), (.mxBcs, isFactor), (.mxSca, Val.isWord), (.mxScb, Val.isWord)])
      if fa.2 || fb.2 then illMove
      else do
        let (vals, m) ← takeAll code need m
        let (ars, m) := takeFactor .mxArs m
        let (bcs, m) := takeFactor .mxBcs m
        mxRun m fmt sparse t (vals.getD 0 (.word 0)) (m.me.tileRef (vals.getD 1 (.word 0))) (vals.getD 2 (.word 0)) ars bcs

/-! ## The triggers (R198) -/

/-- mx.bload.s4 (R199). -/
def execMxBloadS4 (o : TOp) (s : State) : Out := mxBload 0x188 .s4 o s

/-- mx.bload.e4 (R199). -/
def execMxBloadE4 (o : TOp) (s : State) : Out := mxBload 0x189 .e4 o s

/-- mx.bload.e5 (R199). -/
def execMxBloadE5 (o : TOp) (s : State) : Out := mxBload 0x18A .e5 o s

/-- mx.bload.i8 (R199). -/
def execMxBloadI8 (o : TOp) (s : State) : Out := mxBload 0x18B .i8 o s

/-- mx.bload.bf (R199). -/
def execMxBloadBf (o : TOp) (s : State) : Out := mxBload 0x18C .bf o s

/-- mx.bload.h (R199). -/
def execMxBloadH (o : TOp) (s : State) : Out := mxBload 0x18D .h o s

/-- mx.mma.s4 (R198, R202). -/
def execMxMmaS4 (o : TOp) (s : State) : Out := mxMma 0x18E .s4 false o s

/-- mx.mma.e4 (R198, R202). -/
def execMxMmaE4 (o : TOp) (s : State) : Out := mxMma 0x18F .e4 false o s

/-- mx.mma.e5 (R198, R202). -/
def execMxMmaE5 (o : TOp) (s : State) : Out := mxMma 0x190 .e5 false o s

/-- mx.mma.i8 (R198, R202). -/
def execMxMmaI8 (o : TOp) (s : State) : Out := mxMma 0x191 .i8 false o s

/-- mx.mma.bf (R198, R202). -/
def execMxMmaBf (o : TOp) (s : State) : Out := mxMma 0x192 .bf false o s

/-- mx.mma.h (R198, R202). -/
def execMxMmaH (o : TOp) (s : State) : Out := mxMma 0x193 .h false o s

/-- mx.spa.s4 (R198, R200). -/
def execMxSpaS4 (o : TOp) (s : State) : Out := mxMma 0x194 .s4 true o s

/-- mx.spa.e4 (R198, R200). -/
def execMxSpaE4 (o : TOp) (s : State) : Out := mxMma 0x195 .e4 true o s

/-- mx.spa.i8 (R198, R200). -/
def execMxSpaI8 (o : TOp) (s : State) : Out := mxMma 0x196 .i8 true o s

end Sys2Proof.Machine
end

