-- ==== Sys2Proof/Machine/Sysreg.lean ====
section
/-!
DEFINITION. System registers (spec/08_ops_control.md R175; spec/16_fabric.md R282; spec/17_scheduling.md R287-R304;
spec/18_translation_faults.md R309-R320; spec/21_bringup_host.md R336, R340): the privilege each needs, what a read returns
and does, and what a write does, by the access codes of spec/00_scope.md R5.
-/

namespace Sys2Proof.Machine

/-! ## Privilege (R175, R282, R304, R312, R314) -/

/-- The least privilege at which a register is read or written from partition `own`. -/
def regLevel (own n : Nat) (write : Bool) : Priv :=
  if 0x400 ≤ n ∧ n ≤ 0x4FF then .f
  else if 0x010 ≤ n ∧ n ≤ 0x037 ∧ n % 8 ≠ own then .f
  else if write ∧ (n = 0x210 ∨ (0x130 ≤ n ∧ n ≤ 0x137)) then .f
  else .s

/-! ## Reading -/

/-- One of a list of booleans as a word: bit i for element i. -/
def bitsOf (l : List Bool) : Nat := ((upFrom 0 l.length).zip l).foldl (fun n p => n + b2n p.2 * 2 ^ p.1) 0

/-- TR_CAUSE (R314). -/
def TrapRegs.word (r : TrapRegs) : Word :=
  Machine.word (b2n r.active * 2 ^ 63 + b2n r.hw * 2 ^ 62 + r.priv.rank * 2 ^ 60 + r.slots.toNat * 2 ^ 56
    + r.cause % 256 * 2 ^ 16 + r.detail % 65536)

/-- The registers of the issuing context (R314). -/
def TrapRegs.read (r : TrapRegs) (n : Nat) : Word :=
  match n with
  | 0 => r.word
  | 1 => Machine.word r.pc
  | 2 => r.addr
  | 4 | 5 | 6 | 7 => r.scratch.getD (n - 4) 0
  | _ => 0

/-- The word of a queue's control register (R282, R318). -/
def queueWord (dropped head tail size : Nat) : Word :=
  word (dropped * 2 ^ 48 + head * 2 ^ 32 + tail * 2 ^ 16 + size)

/-- A page-table root register (R309). -/
def Part.ptWord (p : Part) (i : Nat) : Word := word (b2n (p.ptEn.getD i false) * 2 ^ 63 + p.ptBase.getD i 0)

/-- The registers of a partition, by block of eight: what a read returns. -/
def Part.readReg (p : Part) (block : Nat) : Word :=
  let w := p.work
  match block with
  | 0x02 => word p.trVec
  | 0x03 => word (b2n p.brkFrz * 2 + b2n p.frTrap)
  | 0x04 => word p.fltqBase
  | 0x05 => queueWord p.fltqDropped p.fltqHead p.fltqTail p.fltqSize
  | 0x06 => p.note
  | 0x20 => word (b2n p.en * 2 ^ 63 + b2n p.run * 2 ^ 62 + b2n p.holdRes * 2 ^ 61 + p.ceil * 2 ^ 58 + w.gquota * 2 ^ 50)
  | 0x21 => word (w.wpMax * 2 ^ 24 + w.quantum)
  | 0x22 => word (w.saves.length * 2 ^ 48 + w.slots * 2 ^ 16 + w.slotKb)
  | 0x23 => w.wptab
  | 0x24 => w.subqBase
  | 0x25 => word (w.subqHead * 2 ^ 32 + w.subqTail * 2 ^ 16 + w.subqSize)
  | 0x26 => word (p.res * 2 ^ 63 + b2n (p.valid.getD 1 false) * 2 ^ 62 + b2n (p.valid.getD 0 false) * 2 ^ 61
      + b2n p.saved * 2 ^ 60 + p.tags.getD 1 0 * 2 ^ 16 + p.tags.getD 0 0)
  | 0x28 => word (p.poolSize * 2 ^ 48 + p.poolBase)
  | 0x29 => word p.poolUsed.length
  | 0x60 => p.ptWord 0
  | 0x61 => p.ptWord 1
  | 0x62 => p.ptWord 2
  | _ => 0

/-- CONC_STAT of a die (R291). -/
def Mach.concStat (m : Mach) (d : Nat) : Word :=
  let q := m.die d
  word ((q.blocked.filter (·.granted.isNone)).length * 2 ^ 32 + bitsOf ((q.entries.drop 56).map (·.isSome)) * 2 ^ 16
    + q.general (2 * d + 1) * 2 ^ 8 + q.general (2 * d))

/-- FB_STAT of a plane (R282). -/
def Plane.stat (p : Plane) : Word :=
  word (b2n p.current.isSome * 2 ^ 63 + b2n p.pending.isSome * 2 ^ 62 + p.slot % 64 * 2 ^ 56 + p.laserOk.toNat * 2 ^ 52
    + p.rxLive.toNat * 2 ^ 32 + p.txLive.toNat * 2 ^ 16 + p.replay.length)

/-- PORTER_STAT (R282). -/
def Mach.porterStat (m : Mach) : Word :=
  word (bitsOf (m.handlers.map (·.assoc)) * 2 ^ 16 + bitsOf (m.handlers.map (·.loaded)) * 2 ^ 8
    + bitsOf (m.handlers.map (·.held)))

/-- STATE of BOOT_STAT. -/
def BootState.code : BootState → Nat
  | .reset => 0 | .verifying => 1 | .running => 2 | .recovery => 3

/-- The boot and identity registers (R340). -/
def Boot.readReg (b : Boot) (n : Nat) : Word :=
  match n with
  | 0x400 => word (b.state.code * 2 ^ 60 + b2n b.attDone * 2 ^ 59 + b.fwVer * 2 ^ 32 + b.cause)
  | 0x401 => b.imgAddr
  | 0x403 => b.attAddr
  | 0x404 => word (b2n b.tHalt * 2 ^ 40 + b.temp % 256 * 2 ^ 32 + b.throt)
  | _ => 0

/-- The retired cores 64 n to 64 n + 63 (R325). -/
def Mach.retiredWord (m : Mach) (n : Nat) : Word := word (bitsOf (((m.cores.drop (64 * n)).take 64).map (·.retired)))

/-- What a read of register n by context k of core c returns. -/
def Mach.readReg (m : Mach) (c k n : Nat) : Word :=
  if n < 8 then (m.ctx c k).trap.read n
  else if 0x040 ≤ n ∧ n ≤ 0x042 then m.retiredWord (n - 0x040)
  else if 0x138 ≤ n ∧ n < 0x13C then m.concStat (n - 0x138)
  else if n < 0x200 ∨ (0x300 ≤ n ∧ n < 0x318) then (m.part (n % 8)).readReg (n / 8)
  else if n < 0x204 then (m.plane (n - 0x200)).stat
  else if n < 0x208 then word (b2n (m.plane (n - 0x204)).enable)
  else if n = 0x208 then word m.fbTime
  else if n = 0x209 then word (m.npkg * 2 ^ 8 + m.pkg)
  else if n = 0x20A then word m.evqBase
  else if n = 0x20B then queueWord m.evqDropped m.evqHead m.evqTail m.evqSize
  else if n = 0x210 then m.porterOwn
  else if n = 0x211 then m.porterStat
  else if 0x320 ≤ n ∧ n < 0x32C then m.xin.getD (n - 0x320) 0
  else m.boot.readReg n

/-- A read of EVQ_CTL clears DROPPED. -/
def Mach.clearEvq (m : Mach) : Mach := { m with evqDropped := 0 }

/-- A read of FLTQ_CTL clears DROPPED. -/
def Mach.clearFltq (m : Mach) (h : Nat) : Mach := m.onPart h fun p => { p with fltqDropped := 0 }

/-- What a read of register n changes. -/
def Mach.afterRead (m : Mach) (n : Nat) : Mach :=
  if n = 0x20B then m.clearEvq else if n / 8 = 0x05 then m.clearFltq (n % 8) else m

/-! ## Writing -/

/-- A SIZE field: 13 to 15 are taken as 12. -/
def sizeField (v : Word) : Nat := min (bits v 3 0) 12

/-- A write of a register of the issuing context (R314). -/
def TrapRegs.write (r : TrapRegs) (n : Nat) (v : Word) : TrapRegs :=
  match n with
  | 0 => { r with slots := BitVec.ofNat 4 (bits v 59 56) }
  | 1 => { r with pc := bits v 47 4 * 16 }
  | 4 | 5 | 6 | 7 => { r with scratch := modifyAt (fun _ => v) (n - 4) r.scratch }
  | _ => r

/-- A write of PART_CTL (R287), FRESH apart: EN is written at privilege F alone. -/
def Part.writeCtl (p : Part) (v : Word) (firmware : Bool) : Part := { p.setCtl v with en := if firmware then bits v 63 63 == 1 else p.en }

/-- A write of PART_Q (R290). -/
def Work.writeQ (w : Work) (v : Word) : Work :=
  let n := bits v 42 24
  let q := bits v 23 0
  { w with wpMax := if 1024 ≤ n ∧ n ≤ 262144 then n else w.wpMax, quantum := if 256 ≤ q then q else w.quantum }

/-- A write of PART_SAVE (R300). -/
def Work.writeSave (w : Work) (v : Word) : Work :=
  let n := bits v 15 0
  if w.saves.isEmpty && 2 ≤ n && n ≤ 6144 then { w with slotKb := n } else w

/-- A write of VIEWPOOL (R292). -/
def Part.writePool (p : Part) (v : Word) : Part :=
  let size := bits v 63 48
  let base := bits v 47 16 * 65536
  let used := !p.poolUsed.isEmpty
  let outside := size != 0 && !(windowOf base == .hbm && windowOf (base + size * 65536 - 1) == .hbm)
  if (used && (base != p.poolBase || size < p.poolSize)) || outside then p else { p with poolSize := size, poolBase := base }

/-- A write of SUBQ_CTL (R293): the entry at HEAD is read again. -/
def Work.writeSubq (w : Work) (v : Word) : Work :=
  { w with subqTail := bits v 31 16, subqSize := sizeField v, subqStuck := false }

/-- A write of a page-table root register (R309). -/
def Part.writePt (p : Part) (i : Nat) (v : Word) : Part :=
  { p with ptEn := modifyAt (fun _ => bits v 63 63 == 1) i p.ptEn, ptBase := modifyAt (fun _ => bits v 47 12 * 4096) i p.ptBase }

/-- A write of a register of a partition, by block of eight. -/
def Part.writeReg (p : Part) (block : Nat) (v : Word) (firmware : Bool) : Part :=
  match block with
  | 0x02 => { p with trVec := bits v 47 0 }
  | 0x03 => { p with brkFrz := bits v 1 1 == 1, frTrap := bits v 0 0 == 1 }
  | 0x04 => { p with fltqBase := bits v 47 6 * 64 }
  | 0x05 => { p with fltqTail := bits v 27 16, fltqSize := sizeField v }
  | 0x06 => { p with note := v &&& 0xFF0F87 }
  | 0x20 => p.writeCtl v firmware
  | 0x21 => { p with work := p.work.writeQ v }
  | 0x22 => { p with work := p.work.writeSave v }
  | 0x23 => { p with work := { p.work with wptab := v &&& 0xFFFFFFFFFFFFFFC0 } }
  | 0x24 => { p with work := { p.work with subqBase := word (bits v 47 9 * 512) } }
  | 0x25 => { p with work := p.work.writeSubq v }
  | 0x26 => { p with tags := [bits v 15 0, bits v 31 16] }
  | 0x28 => p.writePool v
  | 0x60 => p.writePt 0 v
  | 0x61 => p.writePt 1 v
  | 0x62 => p.writePt 2 v
  | _ => p

/-- A write of PART_CTL makes what the concierge may do happen: starts, and entries for packets that waited for quota. -/
def Mach.afterCtl (m : Mach) (h : Nat) (v : Word) : Mach :=
  let m := if bits v 60 60 = 1 then m.emptyBank h else m
  (m.postStart h).post m.cycle (.queueEntryGrant (h / 2))

/-- A write of FB_CTL (R282). -/
def Mach.writeFbCtl (m : Mach) (p : Nat) (v : Word) : Mach :=
  let m := if bits v 1 1 = 1 then m.fbRevert p else m
  if bits v 0 0 = 0 then m.onPlane p fun pl => { pl with enable := false }
  else if (m.plane p).enable then m
  else m.startPlane p

/-- A write of a boot or identity register (R340). -/
def Mach.writeBoot (mem : Memory) (m : Mach) (n : Nat) (v : Word) : Mach :=
  match n with
  | 0x400 => { m with boot := { m.boot with attDone := m.boot.attDone && bits v 59 59 == 0 } }
  | 0x401 => { m with boot := { m.boot with imgAddr := word (bits v 47 0) } }
  | 0x402 =>
    let m := if bits v 0 0 = 1 then m.bootGo mem else m
    if bits v 1 1 = 1 then m.attest mem else m
  | 0x403 => { m with boot := { m.boot with attAddr := word (bits v 47 6 * 64) } }
  | _ => m

/-- TAIL and SIZE of EVQ_CTL. -/
def Mach.writeEvq (m : Mach) (v : Word) : Mach := { m with evqTail := bits v 27 16, evqSize := sizeField v }

/-- RESUME (R320): what the handle names goes on, if it is suspended in partition h. -/
def Mach.resume (m : Mach) (h : Nat) (handle : Word) : Mach :=
  let c := bits handle 55 48
  if !inPart h c then m
  else match bits handle 63 56 with
    | 1 =>
      let n := bits handle 15 0
      if (m.core c).jobs.any fun j => j.num == n && j.state == .suspended then m.resumeJob c n else m
    | 2 =>
      match (m.ctx c (bits handle 10 8)).unit with
      | none => m
      | some u => match m.family h u.uid with
        | some f => if f.suspended && f.entry == bits handle 2 0 then m.resumeMerge h f else m
        | none => m
    | _ => m

/-- A write of register n by context k of core c. -/
def Mach.writeReg (mem : Memory) (m : Mach) (c k n : Nat) (v : Word) : Mach :=
  let firmware := (m.ctx c k).priv == .f
  if n < 8 then m.onCtx c k fun x => { x with trap := x.trap.write n v }
  else if n = 0x038 then m.resume (partOf c) v
  else if n < 0x200 ∨ (0x300 ≤ n ∧ n < 0x318) then
    let m := m.onPart (n % 8) fun p => p.writeReg (n / 8) v firmware
    if n / 8 = 0x20 then m.afterCtl (n % 8) v else m
  else if 0x204 ≤ n ∧ n < 0x208 then m.writeFbCtl (n - 0x204) v
  else if n = 0x20A then { m with evqBase := bits v 47 6 * 64 }
  else if n = 0x20B then m.writeEvq v
  else if n = 0x210 then { m with porterOwn := word (bits v 23 0) }
  else if 0x320 ≤ n ∧ n < 0x32C then
    if firmware then { m with xin := modifyAt (fun _ => v) (n - 0x320) m.xin } else m
  else m.writeBoot mem n v

/-! ## The triggers (R173, R175) -/

/-- cu.sys.rd (R175): the value, readable after 4 cycles. -/
def execCuSysRd (o : TOp) (s : State) : Out :=
  privTrigger .s o s fun _ m t =>
    let n := t.toNat
    if m.me.priv.rank < (regLevel m.myPart n false).rank then prot 1 0
    else
      let v := m.readReg m.issue.core m.issue.ctx n
      .ok (((m.afterRead n).result .cu v 4).onMe fun x => { x with cuUntil := m.cycle + 4 })

/-- cu.sys.wr (R175). -/
def execCuSysWr (o : TOp) (s : State) : Out :=
  privTrigger .s o s fun mem m t =>
    let n := t.toNat
    with1 0x132 .cuA Val.isWord m fun a m =>
      if m.me.priv.rank < (regLevel m.myPart n true).rank then prot 1 0
      else .ok (m.writeReg mem m.issue.core m.issue.ctx n a.w)

/-! ## The steps without an encoding -/

/-- The result of a register read by context k of core c. -/
def Mach.readInto (m : Mach) (c k : Nat) (v : Word) : Mach :=
  m.onCtx c k fun x => { x with ports := { x.ports with cu := ⟨v, m.cycle + 4, none⟩ } }

/-- EVQ_CTL_READ (R282). -/
def execEvqCtlRead (core ctx : Nat) (s : State) : Out :=
  let m := s.mach
  endEvent s (m.clearEvq.readInto core ctx (m.readReg core ctx 0x20B))

/-- FLTQ_CTL_READ (R318). -/
def execFltqCtlRead (core ctx part : Nat) (s : State) : Out :=
  let m := s.mach
  endEvent s ((m.clearFltq part).readInto core ctx (m.readReg core ctx (0x028 + part)))

/-- SYSTEM_REGISTER_WRITE (R5): a write by a context; below the privilege it needs it changes nothing. -/
def execSystemRegisterWrite (core ctx number : Nat) (value : Word) (s : State) : Out :=
  let m := s.mach
  endEvent s (if (m.ctx core ctx).priv.rank < (regLevel (partOf core) number true).rank then m
    else m.writeReg s.mem core ctx number value)

/-- SUBQ_TAIL_WRITE (R293): the next entry that the host writes; the entry at HEAD is read again. -/
def Mach.writeSubqTail (m : Mach) (h tail : Nat) : Mach :=
  m.onWork h fun w => { w with subqTail := tail, subqStuck := false }

/-- SUBQ_TAIL_WRITE (R293): a write of the host, which fails at the host with no module trained or in recovery (R335, R338). -/
def execSubqTailWrite (part tail : Nat) (s : State) : Out :=
  let m := s.mach
  endEvent s (if m.boot.modules = 0 ∨ m.boot.state = .recovery then m else m.writeSubqTail part tail)

/-- RESUME (R320). -/
def execResume (part : Nat) (handle : Word) (s : State) : Out := endEvent s (s.mach.resume part handle)

/-- A write by the host (R336): the boot registers with privilege F, and TAIL of the three kinds of queues. With no module
trained it fails at the host; in recovery only the boot registers answer (R335, R338). -/
def execHostRegisterWrite (number : Nat) (value : Word) (s : State) : Out :=
  let m := s.mach
  let n := number
  endEvent s (if m.boot.modules = 0 then m
    else if 0x400 ≤ n ∧ n ≤ 0x4FF then m.writeBoot s.mem n value
    else if m.boot.state = .recovery then m
    else if n = 0x20B then { m with evqTail := bits value 27 16 }
    else if n / 8 = 0x05 then m.onPart (n % 8) fun p => { p with fltqTail := bits value 27 16 }
    else if n / 8 = 0x25 then m.writeSubqTail (n % 8) (bits value 31 16)
    else m)

end Sys2Proof.Machine
end

