-- ==== Sys2Proof/Machine/Privileged.lean ====
section
/-!
DEFINITION. The privileged triggers (spec/08_ops_control.md R173, R174): return from a trap (spec/18 R316), invalidation of
translations (R311), freezing and thawing (R317), handler reload (spec/16_fabric.md R285), timetables (R275), pre-emption
requests (spec/17_scheduling.md R297) and halts (R303).
-/

namespace Sys2Proof.Machine

/-! ## Return from a trap (R316) -/

/-- cu.tret (R316): with ACTIVE = 0 it has no effect. -/
def execCuTret (o : TOp) (s : State) : Out :=
  privTrigger .s o s fun _ m _ =>
    let x := m.me
    if !x.trap.active then .ok m
    else
      let i := { m.issue with next := some x.trap.pc, bubble := 2, keepLoop := true }
      .ok ({ m with issue := i }.onMe (·.leaveHandler))

/-! ## Invalidation of translations (R311) -/

/-- Whether a cached translation is in the scope of an invalidation issued in partition h. -/
def Tlb.inScope (t : Tlb) (scope h addr : Nat) : Bool :=
  match scope with
  | 0 => t.part == h && t.vbase ≤ addr && addr < t.vbase + t.size
  | 1 => t.part == h
  | _ => true

/-- Whether a walk is in scope: of a page scope, one that may end in a page that covers the address. -/
def Walk.inScope (w : Walk) (scope h addr : Nat) : Bool :=
  match scope with
  | 0 => w.part == h && windowOf w.va == windowOf addr && w.va / levelSize 0 == addr / levelSize 0
  | 1 => w.part == h
  | _ => true

/-- Whether every store of context k of core c numbered below `n` has performed. -/
def Mach.storesDone (m : Mach) (c k n : Nat) : Bool :=
  let x := m.ctx c k
  x.pend.all (n ≤ ·.seq) && x.buffer.all (n ≤ ·.seq) && (m.core c).tf.all (fun q => q.ctx != k || n ≤ q.id || !q.unread)
    && !(m.host.any fun q => q.core == c && q.ctx == k && !q.load && q.seq < n)

/-- The memory that cached translations reach. -/
def reach (l : List Tlb) : List Seg := l.map fun t => (t.key t.vbase, t.size)

/-- The translations in scope are removed: the memory they reached, and what is left. -/
def Mach.invalidate (m : Mach) (scope h addr : Nat) : List Seg × Mach :=
  let hit (t : Tlb) : Bool := t.inScope scope h addr
  let gone := m.cores.flatMap (fun co => reach (co.tlb.filter hit)) ++ m.parts.flatMap fun p => reach (p.ingress.filter hit)
  let core (co : Core) : Core := { co with tlb := co.tlb.filter (!hit ·) }
  let part (p : Part) : Part := { p with ingress := p.ingress.filter (!hit ·) }
  (gone, { m with cores := m.cores.map core, parts := m.parts.map part
                  walks := m.walks.filter fun w => w.fault.isNone || !w.inScope scope h addr })

/-- Whether an access of a core numbered up to `n` to some memory has not performed. -/
def Core.stillUses (co : Core) (n : Nat) (gone : List Seg) : Bool :=
  let hit (g : Seg) : Bool := gone.any fun p => p.1 < g.1 + g.2 && g.1 < p.1 + p.2
  let keys (l : List Nat) : Bool := l.any (inSegs gone)
  co.ctxs.any (fun x => (x.pend ++ x.buffer).any (fun e => e.seq ≤ n && keys e.keys)
      || x.loads.any fun l => l.tag ≤ n && l.val.isNone && keys l.keys)
    || co.mx.any (fun q => q.id ≤ n && q.state != .writing && (q.segs ++ q.metaSegs).any hit)
    || co.tf.any (fun q => q.id ≤ n && (q.rows.any (·.any hit) || keys (q.side.map (·.1))))
    || co.dicts.any (fun d => d.loading && d.mark ≤ n && d.segs.any hit)
    || co.jobs.any fun j => j.flights.any fun f => f.id ≤ n && f.dst.any hit

/-- Whether an access numbered up to `n` to some memory has not performed. -/
def Mach.stillUses (m : Mach) (n : Nat) (gone : List Seg) : Bool :=
  m.cores.any (·.stillUses n gone) || m.host.any (fun q => q.seq ≤ n && q.keys.any (inSegs gone))
    || (m.net ++ m.heldReqs).any (fun r => r.id ≤ n && inSegs gone r.key)
    || m.parts.any (fun p => p.work.families.any fun f => f.target.any fun t => (t.1 ++ t.2).any (inSegs gone))
    || m.ingress.any fun a => a.msg.id ≤ n && a.segs.any fun g => gone.any fun p => p.1 < g.1 + g.2 && g.1 < p.1 + p.2

/-- cu.tlbinv (R311). -/
def execCuTlbinv (o : TOp) (s : State) : Out :=
  privTrigger .s o s fun _ m t =>
    with1 0x134 .cuA Val.isWord m fun a m =>
      let w := windowOf t.toNat
      if a.w = 2 ∧ m.me.priv ≠ .f then prot 1 0
      else if 2 < a.w.toNat ∨ (a.w = 0 ∧ (w = .vault ∨ w = .unassigned)) then .ok (m.status 1)
      else
        let (n, m) := m.newId
        .ok ((m.beginOp (.tlbinv n false a.w.toNat t.toNat [])).post m.cycle (.tlbinvComplete m.issue.core m.issue.ctx))

/-- TLBINV_COMPLETE (R311): once the older stores of the context have performed the translations are removed; once the walks in
scope have ended and the accesses made under those translations have performed, the status is returned. -/
def execTlbinvComplete (core ctx : Nat) (s : State) : Out :=
  let m := s.mach
  let h := partOf core
  let e : Event := .tlbinvComplete core ctx
  endEvent s (match (m.ctx core ctx).privOp with
    | some (.tlbinv n false scope addr _) =>
      if m.storesDone core ctx n then
        let (gone, m) := m.invalidate scope h addr
        (m.onCtx core ctx fun x => { x with privOp := some (.tlbinv m.ids true scope addr gone) }).post m.cycle e
      else m.again e
    | some (.tlbinv n true scope addr gone) =>
      if m.walks.any (fun w => w.fault.isNone && w.inScope scope h addr) || m.stillUses n gone then m.again e else m.privDone core ctx 0
    | _ => m)

/-! ## Masters (R174, R297, R303, R317) -/

/-- A trigger whose T names a master: PROT for a core outside the issuer's partition. -/
def onMaster (m : Mach) (t : Word) (f : Master → Mach) : Except Stop Mach :=
  let w := masterOf t
  if inPart m.myPart w.core then .ok (f w) else prot 2 0

/-- cu.frz (R317). -/
def execCuFrz (o : TOp) (s : State) : Out := privTrigger .s o s fun _ m t => onMaster m t m.freeze

/-- cu.thaw (R317). -/
def execCuThaw (o : TOp) (s : State) : Out := privTrigger .s o s fun _ m t => onMaster m t m.thaw

/-- A pre-emption request on the unit of a context, if it holds one or is being restored with one (R297, R329). -/
def Mach.requestSave (m : Mach) (c k : Nat) : Mach :=
  let comes (v : Save) : Bool := v.core == c && v.reserved == some k && v.due.isSome
  let ask (v : Save) : Save := if comes v then { v with image := { v.image with preempt := true } } else v
  (m.onCtx c k fun x => { x with preempt := x.unit.isSome }).onWork (partOf c) fun w => { w with saves := w.saves.map ask }

/-- Pre-emption requests on what a master word names. -/
def Mach.preempt (m : Mach) (w : Master) : Mach :=
  match w.kind with
  | 0 => m.requestSave w.core w.ctx
  | 3 => (upFrom 0 8).foldl (fun m k => m.requestSave w.core k) m
  | _ => m

/-- cu.preempt (R297). -/
def execCuPreempt (o : TOp) (s : State) : Out := privTrigger .s o s fun _ m t => onMaster m t m.preempt

/-- A halt or release of what a master word names: the operation whose end returns the status. -/
def Mach.haltMaster (m : Mach) (w : Master) (release : Bool) : Mach :=
  let whole := w.kind == 3
  if release then (if whole then m.releaseCore w.core .order else m.releaseCtx w.core w.ctx).status 0
  else
    let m := if whole then m.haltCore w.core .order else m.haltCtx w.core w.ctx
    (m.beginOp (.halt w.core (if whole then none else some w.ctx))).post m.cycle (.haltComplete m.issue.core m.issue.ctx)

/-- cu.halt (R174, R303). -/
def execCuHalt (o : TOp) (s : State) : Out :=
  privTrigger .s o s fun _ m t =>
    with1 0x13C .cuA Val.isWord m fun a m =>
      let w := masterOf t
      if !inPart m.myPart w.core then prot 2 0
      else if 1 < a.w.toNat ∨ (w.kind ≠ 0 ∧ w.kind ≠ 3) then .ok (m.status 1)
      else .ok (m.haltMaster w (a.w == 1))

/-! ## Images in memory -/

/-- Whether an image of n bytes stands aligned and wholly in the vault or HBM window. -/
def imageStands (a n align : Nat) : Bool :=
  a % align == 0 && (windowOf a == .vault || windowOf a == .hbm) && oneRange a n

/-- Reads an image as the context's own loads would, with the cycles it takes. -/
def readImageAt (mem : Memory) (m : Mach) (a : Word) (n : Nat) : Except Stop (List Byte × Nat × Mach) := do
  let (acc, m) ← planAccess m a n 32 false
  let bs ← readNow mem m acc
  .ok (bs, acc.cycles, m)

/-! ## Handler reload (R284, R285) -/

/-- BAD_IMAGE: NSTEP 0 or above 8, or a step that writes nothing. -/
def badHandler (ws : List Word) : Bool :=
  let n := wbits ws 0 3 0
  n == 0 || 8 < n || (upFrom 0 n).any fun i => wbits ws (2 + i / 4) (16 * (i % 4) + 11) (16 * (i % 4) + 10) == 3

/-- Changes handler entry e. -/
def Mach.onHandler (m : Mach) (e : Nat) (f : Handler → Handler) : Mach := { m with handlers := modifyAt f (e - 24) m.handlers }

/-- Whether a request names handler entry e. -/
def NetReq.names (r : NetReq) (e : Nat) : Bool := r.at_.kind == .hnd && r.at_.hnd == e

/-- Requests that name an entry and wait in a router for a partner leave alone. -/
def Mach.flushRouters (m : Mach) (e : Nat) : Mach :=
  (m.net.filter fun r => r.names e && r.due.isNone && r.entered ≤ m.cycle).foldl (fun m r => m.leaveRouter r m.cycle) m

/-- Whether a fabric request names handler entry e. -/
def Msg.names (g : Msg) (e : Nat) : Bool := !g.reply && reqOp (g.words.getD 0 0) == 6 && bits (g.words.getD 0 0) 47 43 == e

/-- Whether a request that names entry e stands in a fabric port of the package: still to be translated on its way in, or still to
be sent on its way out. -/
def Mach.portHolds (m : Mach) (e : Nat) : Bool :=
  m.ingress.any (fun a => a.segs.isEmpty && a.msg.names e) || m.parked.any (·.names e)
    || m.planes.any fun p => p.peers.any fun q => (q.queue ++ (q.fill.map (·.2)).toList).any fun f => f.msgs.any (·.names e)

/-- Whether a merge step or fold that uses entry e is under way. -/
def Mach.foldUses (m : Mach) (e : Nat) : Bool :=
  m.parts.any fun p => p.work.families.any fun f => f.busy && !f.suspended && f.table.any fun v => v.op == 7 && 24 + v.hnd == e

/-- cu.porter.ld (R285): the checks of its statuses, the read of the image, then HELD. -/
def execCuPorterLd (o : TOp) (s : State) : Out :=
  privTrigger .s o s fun mem m t =>
    with1 0x137 .cuA Val.isWord m fun a m =>
      let e := t.toNat
      if e < 24 ∨ 31 < e then .ok (m.status 1)
      else if !imageStands a.w.toNat 32 32 then .ok (m.status 0x11)
      else if (m.handler e).held then .error .stall
      else do
        let (bs, cycles, m) ← readImageAt mem m a.w 32
        let ws := wordsOfBytes bs
        if badHandler ws then .ok (m.status 0x10)
        else if bits m.porterOwn (3 * (e - 24) + 2) (3 * (e - 24)) ≠ m.myPart then .ok (m.status 0x12)
        else
          let m := (m.onHandler e fun q => { q with held := true, heldAt := m.cycle }).flushRouters e
          .ok ((m.beginOp (.porterLd e ws)).post (m.cycle + cycles) (.porterLoadInstall m.issue.core m.issue.ctx))

/-- The new program of an entry is in every porter and router; the requests held for it run it in their order, but for those that
must still wait as R118 and R121 say. -/
def Mach.install (mem : Memory) (m : Mach) (e : Nat) (ws : List Word) : Mach :=
  let m := m.onHandler e fun _ => ⟨true, wbits ws 0 63 63 == 1, false, 0, ws⟩
  let (mine, rest) := m.heldReqs.partition (·.names e)
  mine.foldl (fun m r => if m.mayPerform r then m.performNet mem r else Mach.again { m with net := m.net ++ [r] } r.event)
    { m with heldReqs := rest }

/-- PORTER_LOAD_INSTALL (R285). -/
def execPorterLoadInstall (core ctx : Nat) (s : State) : Out :=
  let m := s.mach
  endEvent s (match (m.ctx core ctx).privOp with
    | some (.porterLd e ws) =>
      if m.net.any (·.names e) || m.portHolds e || m.foldUses e then m.again (.porterLoadInstall core ctx)
      else (m.install s.mem e ws).privDone core ctx 0
    | _ => m)

/-! ## Timetables (R274, R275) -/

/-- A status that a read of memory precedes: until then cu.res and cu triggers wait. -/
def Mach.statusAfter (m : Mach) (n cycles : Nat) : Mach :=
  (m.result .cu (word n) cycles).onMe fun x => { x with cuUntil := m.cycle + cycles }

/-- The status of a timetable image for a plane, with the table where it is accepted. -/
def Mach.tableStatus (m : Mach) (plane : Nat) (bs : List Byte) (n : Nat) : Nat × Timetable :=
  let tt : Timetable := ⟨ttEntries bs n, natLE ((bs.drop 8).take 8)⟩
  (if badTable m.pkg tt.entries then 0x10
    else if (m.plane plane).pending.isSome then 0x12
    else if tt.start < m.fbTime then 0x13
    else 0, tt)

/-- cu.tt.ld (R275). -/
def execCuTtLd (o : TOp) (s : State) : Out :=
  privTrigger .s o s fun mem m t =>
    with1 0x138 .cuA Val.isWord m fun a m =>
      let p := a.w.toNat
      if 3 < p then .ok (m.status 1)
      else if !imageStands t.toNat 64 64 then .ok (m.status 0x11)
      else do
        let (hd, cycles, m) ← readImageAt mem m t 64
        let n := field (natLE (hd.take 8)) 55 48
        if n = 0 ∨ 64 < n then .ok (m.statusAfter 0x10 cycles)
        else if !imageStands t.toNat (64 + 48 * n) 64 then .ok (m.statusAfter 0x11 cycles)
        else
          let (bs, cycles, m) ← readImageAt mem m t (64 + 48 * n)
          let (st, tt) := m.tableStatus p bs n
          let m := if st = 0 then m.onPlane p fun pl => { pl with pending := some tt } else m
          .ok (m.statusAfter st cycles)

end Sys2Proof.Machine
end

