-- ==== Sys2Proof/Machine/Repair.lean ====
section
/-!
DEFINITION. Fault records reaching their queue (spec/18_translation_faults.md R318, R330), data errors, self-tests and what
follows them (R323-R325; spec/01_execution_model.md R36, R37), and the external debugger (R326).
-/

namespace Sys2Proof.Machine

/-! ## Fault queues (R318, R319) -/

/-- A record is dropped. -/
def Part.dropRecord (p : Part) : Part := { p with fltqDropped := min (p.fltqDropped + 1) 0xFFFF }

/-- The flag that FLT_NOTE names is set. -/
def Mach.notify (m : Mach) (h : Nat) : Mach :=
  let w := (m.part h).note
  if bits w 7 7 = 1 then m.onCtx (bits w 23 16) (bits w 2 0) (·.setFlag (bits w 11 8) true) else m

/-- HEAD advances past a record that has performed, and the flag is set in the same cycle. -/
def Mach.advanceFltq (m : Mach) (h : Nat) : Mach :=
  let m : Mach := { m with records := m.records.erase h }
  (m.onPart h fun p => { p with fltqHead := (p.fltqHead + 1) % 2 ^ p.fltqSize }).notify h

/-- A record performs at its place in the queue; with no queue, a full one or one that cannot be reached it is dropped. -/
def Mach.performRecord (mem : Memory) (m : Mach) (h : Nat) (r : List Word) : Mach :=
  let p := m.part h
  let n := 2 ^ p.fltqSize
  let at_ := (p.fltqHead + (m.records.filter (· == h)).length) % n
  let a := p.fltqBase + 64 * at_
  let w := windowOf a
  if p.fltqSize = 0 ∨ (at_ + 1) % n = p.fltqTail % n ∨ (w ≠ .vault ∧ w ≠ .hbm) then m.onPart h Part.dropRecord
  else match deviceKey mem m h a with
    | none => m.onPart h Part.dropRecord
    | some key =>
      let m := m.writeBytes key (bytesOfWords r)
      Mach.post { m with records := m.records ++ [h] } (m.cycle + 1) (.faultRecordPerform h [])

/-- FAULT_RECORD_PERFORM (R318): a record performs in the fault queue of its partition, and in the cycle after HEAD advances
past it. The empty list stands for the advance. -/
def execFaultRecordPerform (part : Nat) (record : List Word) (s : State) : Out :=
  let m := s.mach
  endEvent s (match record with
    | [] => if m.records.contains part then m.advanceFltq part else m
    | r => m.performRecord s.mem part r)

/-! ## Data errors (R323, R324) -/

/-- A unit code whose error halts its core: every one but the HBM stack path and the cloakroom. -/
def haltsCore (code : Nat) : Bool := code != 8 && code != 9

/-- Whether the work must start anew whatever the self-test shows (R37). -/
def mustRestart : ErrAt → Bool
  | .merge _ _ true | .savedMerge _ true => true
  | _ => false

/-- The partition whose work met an error in a unit of core c. -/
def partStruck (c : Nat) : ErrAt → Nat
  | .unit c _ | .job c _ | .merge c _ _ => partOf c
  | .saved _ | .savedMerge _ _ | .entry => partOf c

/-- The unit that a merge is for and must be run again after an error in a block written back, by its number. -/
def Mach.mergeParent (m : Mach) (met : ErrAt) : Option Nat :=
  match met with
  | .merge c k true => ((m.ctx c k).unit).map (·.uid)
  | .savedMerge uid true => some uid
  | _ => none

/-- What an error does at once to the work that met it: a job ends with DATA_ERROR, and a merge in a block already written back
stands still until its parent is run again. -/
def Mach.strike (m : Mach) (c : Nat) (met : ErrAt) : Mach :=
  match met with
  | .job c n => m.failJob c n 0x43
  | _ => match m.mergeParent met with
    | some uid => m.onFamily (partStruck c met) uid fun f => { f with suspended := true }
    | none => m

/-- The concierge's read of a submission entry meets a data error: HEAD stays, and a record says so (R293). -/
def Mach.entryError (m : Mach) (h : Nat) : Mach :=
  if !m.subqReady h then m
  else
    let w := m.work h
    (m.onWork h fun w => { w with subqStuck := true }).report h
      (faultRecord 0x0B 0x0D 0 0 0 (word (w.subqBase.toNat + 512 * w.subqHead)) 0 0 0 m.cycle)

/-- DATA_ERROR (R323, R324): the core that holds the unit halts, be the work that met the error its own or another core's, and the
unit's self-test begins. An error in a submission
entry is of no unit of a core. -/
def execDataError (code core : Nat) (met : ErrAt) (s : State) : Out :=
  if met = .entry then endEvent s (s.mach.entryError (partOf core))
  else
    let m := s.mach.strike core met
    let m := if haltsCore code then m.deviceHalt core .test else m
    let pass := bit (Config.freeWord m.fresh).toNat 0
    let m : Mach := { m with fresh := m.fresh + 1, tests := m.tests ++ [⟨core, code, met, m.cycle + 20000, false⟩] }
    endEvent s (m.post (m.cycle + 20000) (.selfTestComplete core pass))

/-! ## Reruns (R36, R324) -/

/-- The units that an error is of, by their numbers, in contexts or saved: a job's is that which issued it. -/
def Mach.struckUnits (m : Mach) (met : ErrAt) : List Nat :=
  match met with
  | .unit c k => ((m.ctx c k).unit.map (·.uid)).toList
  | .job c n => (((m.core c).jobs.find? (·.num == n)).map (·.uid)).toList
  | .saved l => l
  | _ => (m.mergeParent met).toList

/-- The context of the unit that is to run again, where the work that met an error is a unit in a context. -/
def Mach.struck (m : Mach) (c : Nat) (met : ErrAt) : Option (Nat × Nat) :=
  match met with
  | .saved _ => none
  | _ => (m.struckUnits met).findSome? (m.findUnit (partStruck c met))

/-- A unit whose saved state met an error runs again: a cloakroom image holds that of units that are on no core. -/
def Mach.rerunFor (m : Mach) (h : Nat) (met : ErrAt) (uid : Nat) : Bool × Mach :=
  let (later, m) := match met with
    | .saved _ => m.strikeImages h uid
    | _ => (false, m)
  let (now, m) := m.rerunUnit h uid
  (later || now, m)

/-- The work that met an error is run again: whether any was. -/
def Mach.rerunWork (m : Mach) (c : Nat) (met : ErrAt) : Bool × Mach :=
  (m.struckUnits met).foldl (fun r uid => let q := r.2.rerunFor (partStruck c met) met uid; (r.1 || q.1, q.2)) (false, m)

/-- Word 1 of the view-table entry at which the merge for a unit stands (R168, R319). -/
def Mach.mergeCursor (mem : Memory) (m : Mach) (h uid : Nat) : Word :=
  match (m.family h uid).bind fun f => f.table[f.entry]? with
  | some e => word (peekNat mem m (e.slotAddr + 8) 8)
  | none => 0

/-- The master word, WHERE and CURSOR of a data-error record. -/
def Mach.errorPlace (mem : Memory) (m : Mach) (c : Nat) (met : ErrAt) : Word × Word × Word :=
  match met with
  | .unit c k => (masterWord c 0 k, word (m.ctx c k).pc, 0)
  | .job c n =>
    match (m.core c).jobs.find? (·.num == n) with
    | some j => (masterWord c 1 0, j.word, j.cursor)
    | none => (masterWord c 1 0, 0, 0)
  | .merge c k _ => (masterWord c 0 k, (m.ctx c k).ofUnit (·.handle),
      ((m.ctx c k).unit.map fun u => m.mergeCursor mem (partOf c) u.uid).getD 0)
  | .savedMerge uid _ => (masterWord c 0 0, word (((m.family (partOf c) uid).map (·.handle)).getD 0), m.mergeCursor mem (partOf c) uid)
  | .saved _ | .entry => (masterWord c 3 0, 0, 0)

/-- The core that a self-test halted goes on, but not while another self-test or another cause needs it halted. -/
def Mach.endTestHalt (m : Mach) (t : SelfTest) : Mach :=
  if !haltsCore t.code || m.tests.any fun q => q.core == t.core && haltsCore q.code then m else m.releaseCore t.core .test

/-- Whether a unit is on a core, in a context or saved. -/
def Mach.isOn (m : Mach) (c uid : Nat) : Bool :=
  (m.core c).ctxs.any (fun x => x.unit.any (·.uid == uid))
    || (m.work (partOf c)).saves.any fun v => v.core == c && v.unit.uid == uid

/-- The self-test has ended: on a pass the work is run again and the core goes on; on a fail the core is retired, where the
code names a unit of it, and its units are placed again with it. A merge that must start anew does so either way; other work of
another core goes on after a fail (log 128). -/
def Mach.finishTest (mem : Memory) (m : Mach) (t : SelfTest) (pass : Bool) : Mach :=
  let h := partOf t.core
  let (master, wher, cursor) := m.errorPlace mem t.core t.met
  let units := m.struckUnits t.met
  let place := m.struck t.core t.met
  let retire := !pass && haltsCore t.code
  let (again, m) := if pass || (mustRestart t.met && !(retire && units.any (m.isOn t.core))) then m.rerunWork t.core t.met
    else (false, m.countErrors (partStruck t.core t.met) units)
  let m := match place with
    | some (c, k) => if t.halted then m.releaseCtx c k else m
    | none => m
  let m := if retire then m.retireCore t.core else m.endTestHalt t
  let info := b2n pass + 2 * b2n again + 4 * b2n retire
  (m.report h (faultRecord 0x06 0x0D t.code master wher 0 0 cursor (word info) m.cycle)).postStart h

/-- Whether the engines are still at work for a unit that is to run again, on a core that is not halted: it stops until they are not. -/
def Mach.stopForRerun (m : Mach) (i : Nat) (t : SelfTest) (pass : Bool) : Option Mach :=
  match m.struck t.core t.met with
  | none => none
  | some (c, k) =>
    if (haltsCore t.code && c == t.core) || !(pass || mustRestart t.met) || m.ctxStill c k then none
    else if (m.ctx c k).halted then some m
    else some ({ m with tests := modifyAt (fun q => { q with halted := true }) i m.tests }.haltCtx c k)

/-- SELF_TEST_COMPLETE (R324): a self-test that has run for 20,000 cycles, on a core that has halted, ends. -/
def execSelfTestComplete (core : Nat) (pass : Bool) (s : State) : Out :=
  let m := s.mach
  endEvent s (match findAt (fun t : SelfTest => t.core == core && t.due ≤ m.cycle) 0 m.tests with
    | none => m
    | some (i, t) =>
      if haltsCore t.code && !m.coreStill core then m.again (.selfTestComplete core pass)
      else match m.stopForRerun i t pass with
        | some m => m.again (.selfTestComplete core pass)
        | none => Mach.finishTest s.mem { m with tests := m.tests.take i ++ m.tests.drop (i + 1) } t pass)

/-! ## The external debugger (R326) -/

/-- The trap registers as the debugger writes them, whole. -/
def TrapRegs.poke (r : TrapRegs) (n : Nat) (v : Word) : TrapRegs :=
  match n with
  | 0 =>
    { r with active := bits v 63 63 == 1, hw := bits v 62 62 == 1
             priv := (match bits v 61 60 with | 0 => .task | 1 => .s | _ => .f), slots := BitVec.ofNat 4 (bits v 59 56)
             cause := bits v 23 16, detail := bits v 15 0 }
  | 2 => { r with addr := v }
  | n => r.write n v

/-- Writes one slice of a register. -/
def Gpr.poke (r : Gpr) (slice : BitVec 2) (v : Word) : Gpr := r.write (BitVec.ofNat 4 (2 ^ (3 - slice.toNat))) v

/-- The port of a code, in the order of R141. -/
def portOfCode : Nat → Option PortName
  | 0 => some .cu | 1 => some .lnk | 2 => some .ax | 3 => some .vu | 4 => some .lu | 5 => some .xe | 6 => some .sy
  | 7 => some .tf | _ => none

/-- A scale latch that the debugger writes or clears is what the next mma takes (R203, R326; log 97). -/
def Ctx.pokeScale (x : Ctx) (l : Latch) (v : Option Word) : Ctx :=
  let put (isB : Bool) : Ctx :=
    let others := x.scales.filter (·.isB != isB)
    { x with scales := match v with
      | some w => others ++ [⟨isB, w.setWidth 32, x.bundleNo - 2⟩]
      | none => others }
  match l with
  | .mxSca => put false
  | .mxScb => put true
  | _ => x

/-- What the debugger writes into a context. A pc written takes the place of the bundle that was to go on. -/
def Ctx.poke (x : Ctx) (place : DbgPlace) (v : Word) (hold : Bool) : Ctx :=
  match place with
  | .g i slice => { x with g := modifyAt (·.poke slice v) i.toNat x.g }
  | .latch l => (x.setLatch l ⟨some (.word v), hold⟩).pokeScale l (some v)
  | .flag i => x.setFlag i.toNat (v != 0)
  | .port code => match portOfCode code.toNat with
    | some n => { x with ports := x.ports.set n ⟨v, 0, none⟩ }
    | none => x
  | .trapReg n => { x with trap := x.trap.poke n.toNat v }
  | .pc => { x with pc := bits v 47 4 * 16, waitIssued := 0, waitNext := none, waitOld := none,
                    passForced := x.passForced && x.pc == bits v 47 4 * 16 }

/-- DEBUGGER_ACCESS (R326): on a frozen context alone; a read changes nothing. -/
def execDebuggerAccess (core ctx : Nat) (place : DbgPlace) (act : DbgAct) (s : State) : Out :=
  let m := s.mach
  endEvent s (if !(m.ctx core ctx).frozen || m.boot.modules = 0 || m.boot.state == .recovery then m
    else match act with
      | .read => m
      | .write v hold => m.onCtx core ctx (·.poke place v hold)
      | .refer kind index hold => match place with
        | .latch l => m.onCtx core ctx fun x => (x.setLatch l ⟨some (.ref kind index), hold⟩).pokeScale l none
        | _ => m
      | .setHold hold => match place with
        | .latch l => m.onCtx core ctx fun x => x.setLatch l { x.latchCell l with hold := hold }
        | _ => m
      | .clear => match place with
        | .latch l => m.onCtx core ctx fun x => (x.setLatch l .empty).pokeScale l none
        | _ => m)

end Sys2Proof.Machine
end

