-- ==== Sys2Proof/Machine/Sy.lean ====
section
/-!
DEFINITION. The task triggers (spec/08_ops_control.md R163, R167-R172): enqueue, spawn, view tables, merge, join, cancel,
counters, until and priority.
-/

namespace Sys2Proof.Machine

/-! ## sy.enq and sy.spawn (R167) -/

/-- The rows of NACC that the tile views of a unit's table need (R33). -/
def Ctx.tileNeed (x : Ctx) : Nat :=
  ((x.views.filter (·.tile)).map fun e =>
    let t := x.tl.getD e.base .unset
    t.row0 + t.rows).foldl max 0

/-- The release before a read at home (R167): every earlier access that package scope covers has performed. -/
def released (m : Mach) : Except Stop Unit :=
  if m.coveredDone m.issue.core m.issue.ctx 1 (m.ids + 1) then .ok () else .error .stall

/-- The wait for the context's own earlier stores and atomics before a read at home (R167, R168). -/
def storesDone (m : Mach) : Except Stop Unit :=
  if m.me.pend.isEmpty && m.me.buffer.isEmpty then .ok () else .error .stall

/-- Reads the packet at an address: its words. -/
def readPacket (mem : Memory) (m : Mach) (t : Word) : Except Stop (List Word × Mach) := do
  let (acc, m) ← planAccess m t 32 32 false
  let head ← readNow mem m acc
  let n := packetBytes (word (natLE (head.take 8)))
  let (acc, m) ← planAccess m t n 32 false
  let bs ← readNow mem m acc
  .ok (wordsOf bs, m)

/-- A packet handed to the concierge: refused, accepted, or its context blocks until an entry is granted. -/
def handPacket (mem : Memory) (m : Mach) (spawn : Bool) (t : Word) : Except Stop Mach :=
  let i := m.issue
  let h := partOf i.core
  match m.me.unit with
  | none => sySay m 8 0 0
  | some u =>
    let depth := if spawn then u.depth + 1 else 0
    if bits t 4 0 ≠ 0 then alignFault t.toNat
    else if spawn && 8 ≤ u.depth then .error (.raise (trap5 .nestDepth 1 0))
    else do
      let _ ← released m
      let (ws, m) ← readPacket mem m t
      let st := m.refusal h spawn m.me.tileNeed ws
      if st ≠ 0 then sySay (m.leaveBlocked i.core i.ctx h false).2 8 st 0
      else match m.claimEntry i.core i.ctx h depth with
        | none => .error (.block (.entry depth))
        | some (e, m) =>
          let (v, m) := if spawn then m.acceptSpawn i.core i.ctx u (packetOf ws) e
            else m.acceptLaunch h (packetOf ws) e none
          sySay m 8 0 v

/-- sy.enq (R167). -/
def execSyEnq (o : TOp) (s : State) : Out := triggerW o s fun mem m t => handPacket mem m false t

/-- sy.spawn (R28, R167). -/
def execSySpawn (o : TOp) (s : State) : Out := triggerW o s fun mem m t => handPacket mem m true t

/-! ## sy.views (R168) -/

/-- An entry of a view table from its two words, at a key. -/
def viewOf (w0 w1 : Word) (key : Nat) : ViewEntry :=
  let tile := bits w0 63 62 == 1
  ⟨tile, bits w0 61 58, bits w0 57 55, bits w0 54 52, if tile then bits w0 4 0 else bits w0 47 0, bits w1 31 0, 0, key⟩

/-- Whether a region entry is refused. -/
def badRegion (e : ViewEntry) : Bool :=
  let w := windowOf e.base
  e.length == 0 || e.length % e.esize != 0 || e.base % e.esize != 0 || w != windowOf (e.base + e.length - 1)
    || (w != .vault && w != .hbm)

/-- Whether a tile entry is refused: its descriptor unset, or its format not that of the operator. -/
def badTileView (x : Ctx) (e : ViewEntry) : Bool :=
  let t := x.tl.getD e.base .unset
  !t.isSet || ((e.op == 0 || e.op == 2 || e.op == 3) && t.fmt != .f32)
    || ((e.op == 1 || (4 ≤ e.op && e.op ≤ 6)) && t.fmt != .i32)

/-- Whether an entry gives BAD_VIEW by itself; `kind` is its KIND. -/
def badView1 (m : Mach) (kind : Nat) (e : ViewEntry) : Bool :=
  1 < kind || 8 ≤ e.op
    || (e.op == 7 && (5 ≤ e.etype || !((m.handler (24 + e.hnd)).loaded && (m.handler (24 + e.hnd)).assoc)))
    || (if e.tile then badTileView m.me e else badRegion e)

/-- Whether two descriptors share a cell. -/
def Tile.meets (t u : Tile) : Bool :=
  t.row0 < u.row0 + u.rows && u.row0 < t.row0 + t.rows && 4 * t.col0 < 4 * u.col0 + u.n && 4 * u.col0 < 4 * t.col0 + t.n

/-- Whether two entries of a table exclude each other. -/
def viewsClash (x : Ctx) (a b : ViewEntry) : Bool :=
  if a.tile && b.tile then a.base == b.base || (x.tl.getD a.base .unset).meets (x.tl.getD b.base .unset)
  else !a.tile && !b.tile && a.base < b.base + b.length && b.base < a.base + a.length

/-- Whether some pair of a list satisfies a test. -/
def anyPair (p : ViewEntry → ViewEntry → Bool) : List ViewEntry → Bool
  | [] => false
  | e :: rest => rest.any (p e) || anyPair p rest

/-- sy.views (R168): a count above 8 is refused before unjoined children are, and both before the table is read (DESIGN CHOICE,
log 107). -/
def execSyViews (o : TOp) (s : State) : Out :=
  triggerW o s fun mem m t =>
    with1 0x1F7 .syA Val.isWord m fun a m =>
      let n := a.w.toNat
      if bits t 3 0 ≠ 0 then alignFault t.toNat
      else if 8 < n then sySay m 8 badOperand 0
      else if m.me.unit.any fun u => (m.family m.myPart u.uid).isSome then sySay m 8 viewsBusy 0
      else if n = 0 then sySay (m.onMe fun x => { x with views := [] }) 8 0 0
      else do
        let _ ← storesDone m
        let (acc, m) ← planAccess m t (16 * n) 16 false
        let ws := wordsOf (← readNow mem m acc)
        let entries := (upFrom 0 n).map fun i => viewOf (ws.getD (2 * i) 0) (ws.getD (2 * i + 1) 0) (acc.keys.getD (16 * i) 0)
        let bad := ((upFrom 0 n).zip entries).any fun p => badView1 m (wbits ws (2 * p.1) 63 62) p.2
        if bad || anyPair (viewsClash m.me) entries then sySay m 8 badView 0
        else sySay (m.onMe fun x => { x with views := entries }) 8 0 0

/-! ## sy.join and sy.merge (R169) -/

/-- Whether the unit that issues has children that are not joined yet. -/
def Mach.unjoined (m : Mach) : Bool := m.me.unit.any fun u => (m.family m.myPart u.uid).isSome

/-- sy.join (R169). -/
def execSyJoin (o : TOp) (s : State) : Out :=
  triggerW o s fun _ m _ =>
    if m.unjoined then .error (.block .join)
    else sySay (m.onMe fun x => { x with spawns := 0, children := .zero }) 8 0 0

/-- The descriptors that carry the unit's own tile views and have an occupied slot (R97). -/
def Ctx.heldTiles (x : Ctx) : List TileRef :=
  ((x.ownViews.filter (·.tile)).map fun e => (⟨e.base, x.tl.getD e.base .unset⟩ : TileRef)).filter (·.tile.occupied)

/-- A resolve of a tile joins the tf queue. -/
def Mach.pushResolve (m : Mach) (r : TileRef) : Mach :=
  let (q, m) := startTf m .resolve 0
  m.pushTf { q with a := some r }

/-- sy.merge (R97, R169): the implicit join, then the resolves of the unit's own tile views; its context issues nothing
more, the core is free for another run, and the unit ends once the rest of R169 is done. A cancelled unit that has met no stop
point before its sy.merge ends as one that is not cancelled (DESIGN CHOICE, log 101). -/
def execSyMerge (o : TOp) (s : State) : Out :=
  triggerW o s fun _ m _ =>
    if m.unjoined then .error (.block .join)
    else do
      let tiles := m.me.heldTiles
      let m ← forcedResolve m tiles
      let m := tiles.foldl Mach.pushResolve m
      let m := (m.onMe fun x => { x with status := .merging }).switchOut m.issue.core m.issue.ctx
      .ok { m with issue := { m.issue with ended := true } }

/-! ## sy.cancel and sy.ctr (R170) -/

/-- BAD_HANDLE. -/
def badHandle : Nat := 4

/-- What is wrong with the level that T and a name: a status, 0 where nothing is. Bits 63:32 of a handle are ignored, and of two
that apply NOT_OWN comes first (DESIGN CHOICE, log 106). -/
def levelStatus (m : Mach) (u : UnitId) (t a : Word) : Nat :=
  let w := m.work m.myPart
  match bits t 2 0 with
  | 0 | 1 => match w.launch (bits a 31 0) with
    | none => badHandle
    | some l =>
      if l.packet.job ≠ u.job then notOwn
      else if bits t 2 0 = 0 ∧ l.packet.units ≤ bits t 63 40 then badOperand
      else 0
  | 2 | 5 => 0
  | 3 => if bits a 15 8 ≠ u.job then notOwn else 0
  | 4 => if bits a 7 0 ≠ u.job then notOwn else 0
  | _ => badOperand

/-- The numbers of started units that satisfy a test. -/
def Mach.uidsWhere (m : Mach) (h : Nat) (p : UnitId → Bool) : List Nat := ((m.unitsOf h).filter p).map (·.uid)

/-- Cancels unit i of a launch, started or not, with its descendants. -/
def Mach.cancelUnit (m : Mach) (h hd i : Nat) : Mach :=
  let roots := m.uidsWhere h fun u => u.handle == hd && u.depth == 0 && u.index == i
  let m := ((m.work h).batches.filter fun b => b.handle == hd && b.depth == 0).foldl (fun m b => m.dropUnits b (· == i)) m
  m.cancelFrom h roots

/-- Cancels the unmerged children of a unit. -/
def Mach.cancelChildren (m : Mach) (h : Nat) (u : UnitId) : Mach :=
  let m := m.onUnit h u.uid fun x => { x with children := x.children.request }
  let m := ((m.work h).batches.filter fun b => b.parent == some u.uid).foldl (fun m b => m.dropUnits b fun _ => true) m
  m.cancelFrom h (m.uidsWhere h fun q => q.parent == some u.uid)

/-- The handles of a partition's launches that satisfy a test. -/
def Work.handlesWhere (w : Work) (p : Packet → Bool) : List Nat := (w.launches.filter fun l => p l.packet).map (·.handle)

/-- Cancels a level that the unit names (R14). -/
def Mach.cancelLevel (m : Mach) (u : UnitId) (t a : Word) : Mach :=
  let h := m.myPart
  let w := m.work h
  match bits t 2 0 with
  | 0 => m.cancelUnit h (bits a 31 0) (bits t 63 40)
  | 1 => m.cancelLaunches h [bits a 31 0]
  | 2 => (m.onWork h (·.requestWithin u.job none (some (bits a 15 0)))).cancelLaunches h
      (w.handlesWhere fun p => p.job == u.job && p.graph == bits a 15 0)
  | 3 => (m.onWork h (·.requestWithin u.job (some (bits a 7 0)) none)).cancelLaunches h
      (w.handlesWhere fun p => p.job == u.job && p.phase == bits a 7 0)
  | 4 => (m.onWork h (·.requestWithin u.job none none)).cancelLaunches h (w.handlesWhere fun p => p.job == u.job)
  | _ => m.cancelChildren h u

/-- sy.cancel (R170). -/
def execSyCancel (o : TOp) (s : State) : Out :=
  triggerW o s fun _ m t => do
    let run (a : Word) (m : Mach) : Except Stop Mach :=
      match m.me.unit with
      | none => sySay m 8 0 0
      | some u =>
        let st := levelStatus m u t a
        if st ≠ 0 then sySay m 8 st 0 else sySay (m.cancelLevel u t a) 8 0 0
    if bits t 2 0 = 5 then run 0 m else with1 0x1FA .syA Val.isWord m fun a m => run a.w m

/-- The counter a level has (R11). -/
def Mach.levelCounter (m : Mach) (u : UnitId) (t a : Word) : Counter :=
  let w := m.work m.myPart
  let j := w.jobLevel u.job
  match bits t 2 0 with
  | 1 => ((w.launch (bits a 31 0)).map (·.counter)).getD .zero
  | 2 => counterIn j.counter.cancelReq j.graphs (bits a 15 0)
  | 3 => counterIn j.counter.cancelReq j.phases (bits a 7 0)
  | 4 => j.counter
  | _ =>
    let c := m.me.children
    { c with complete := c.issued == c.done + c.cancelled }

/-- VALUE of ctr. -/
def counterValue (c : Counter) (which : Nat) : Nat :=
  let n := match which with
    | 0 => c.issued
    | 1 => c.done
    | _ => c.cancelled
  b2n c.cancelReq * 2 ^ 33 + b2n c.complete * 2 ^ 32 + n % 2 ^ 32

/-- sy.ctr (R170): WHICH 3 and LEVEL 0 are refused before the level is looked at (DESIGN CHOICE, log 106). -/
def execSyCtr (o : TOp) (s : State) : Out :=
  triggerW o s fun _ m t => do
    let run (a : Word) (m : Mach) : Except Stop Mach :=
      match m.me.unit with
      | none => sySay m 8 0 0
      | some u =>
        let st := if bits t 2 0 = 0 ∨ bits t 4 3 = 3 then badOperand else levelStatus m u t a
        if st ≠ 0 then sySay m 8 st 0 else sySay m 8 0 (counterValue (m.levelCounter u t a) (bits t 4 3))
    if bits t 2 0 = 5 then run 0 m else with1 0x1FB .syA Val.isWord m fun a m => run a.w m

/-! ## sy.until and sy.prio (R171) -/

/-- Whether a promise has been reached. -/
def promisePast (cycle promise : Nat) : Bool := (cycle + 2 ^ 48 - promise) % 2 ^ 48 < 2 ^ 47

/-- sy.until (R171). -/
def execSyUntil (o : TOp) (s : State) : Out :=
  triggerW o s fun _ m t =>
    let promise := bits t 47 0
    if bits t 63 48 = 0 then sySay m 1 badOperand 0
    else if !promisePast (m.cycle % 2 ^ 48) promise then
      .error (.until_ (m.cycle + (promise + 2 ^ 48 - m.cycle % 2 ^ 48) % 2 ^ 48))
    else if m.myCore.jobOver (bits t 63 48) then sySay m 1 0 0
    else .error (.raise (trap5 .promiseMissed 0 0))

/-- PROMISE_REACHED (R171): a bundle that stalled until this cycle issues. -/
def execPromiseReached (core ctx : Nat) (s : State) : Out :=
  let m := s.mach
  let co := m.core core
  let x := m.ctx core ctx
  endEvent s (if m.mayIssue && co.running == some ctx && x.status == .running && x.issueAt == m.cycle && !x.frozen && !x.halted
      && co.nextIssue ≤ m.cycle && !co.retired && !co.halted then
    { m with issue := { m.issue with go := some (core, ctx) } }
  else m)

/-- sy.prio (R171, R289). -/
def execSyPrio (o : TOp) (s : State) : Out :=
  triggerW o s fun _ m t =>
    if 3 < t.toNat then sySay m 1 badOperand 0
    else
      let p := min t.toNat (m.part m.myPart).ceil
      sySay (m.onMe fun x => { x with ownPrio := p, prio := if x.lifted then x.prio else p }) 1 0 0

end Sys2Proof.Machine
end

