-- ==== Sys2Proof/Machine/Dispatch.lean ====
section
/-!
DEFINITION. The meaning of every instruction, one arm per constructor of `Instr`.
-/

namespace Sys2Proof.Machine

def exec (i : Instr) (s : State) : Host.Outcome State Fault Refusal :=
  match i with
  | .move g src dst rot => Sys2Proof.Machine.execMove g src dst rot s
  | .shortImmediate g v dst rot => Sys2Proof.Machine.execShortImmediate g v dst rot s
  | .literal v => Sys2Proof.Machine.execLiteral v s
  | .header y w p e3 e2 e1 => Sys2Proof.Machine.execHeader y w p e3 e2 e1 s
  | .cuAdd o => Sys2Proof.Machine.execCuAdd o s
  | .cuSub o => Sys2Proof.Machine.execCuSub o s
  | .cuMul o => Sys2Proof.Machine.execCuMul o s
  | .cuMulh o => Sys2Proof.Machine.execCuMulh o s
  | .cuMulhn o => Sys2Proof.Machine.execCuMulhn o s
  | .cuDivi o => Sys2Proof.Machine.execCuDivi o s
  | .cuDivn o => Sys2Proof.Machine.execCuDivn o s
  | .cuRemi o => Sys2Proof.Machine.execCuRemi o s
  | .cuRemn o => Sys2Proof.Machine.execCuRemn o s
  | .cuAnd o => Sys2Proof.Machine.execCuAnd o s
  | .cuOr o => Sys2Proof.Machine.execCuOr o s
  | .cuXor o => Sys2Proof.Machine.execCuXor o s
  | .cuAndn o => Sys2Proof.Machine.execCuAndn o s
  | .cuShl o => Sys2Proof.Machine.execCuShl o s
  | .cuShr o => Sys2Proof.Machine.execCuShr o s
  | .cuSar o => Sys2Proof.Machine.execCuSar o s
  | .cuRol o => Sys2Proof.Machine.execCuRol o s
  | .cuClz o => Sys2Proof.Machine.execCuClz o s
  | .cuCtz o => Sys2Proof.Machine.execCuCtz o s
  | .cuPopc o => Sys2Proof.Machine.execCuPopc o s
  | .cuMini o => Sys2Proof.Machine.execCuMini o s
  | .cuMaxi o => Sys2Proof.Machine.execCuMaxi o s
  | .cuMinn o => Sys2Proof.Machine.execCuMinn o s
  | .cuMaxn o => Sys2Proof.Machine.execCuMaxn o s
  | .cuSxb o => Sys2Proof.Machine.execCuSxb o s
  | .cuSxh o => Sys2Proof.Machine.execCuSxh o s
  | .cuSxw o => Sys2Proof.Machine.execCuSxw o s
  | .cuZxb o => Sys2Proof.Machine.execCuZxb o s
  | .cuZxh o => Sys2Proof.Machine.execCuZxh o s
  | .cuZxw o => Sys2Proof.Machine.execCuZxw o s
  | .cuBfx o => Sys2Proof.Machine.execCuBfx o s
  | .cuBfi o => Sys2Proof.Machine.execCuBfi o s
  | .cuSel o => Sys2Proof.Machine.execCuSel o s
  | .cuCeq o => Sys2Proof.Machine.execCuCeq o s
  | .cuCne o => Sys2Proof.Machine.execCuCne o s
  | .cuClti o => Sys2Proof.Machine.execCuClti o s
  | .cuCltn o => Sys2Proof.Machine.execCuCltn o s
  | .cuClei o => Sys2Proof.Machine.execCuClei o s
  | .cuClen o => Sys2Proof.Machine.execCuClen o s
  | .cuBr o => Sys2Proof.Machine.execCuBr o s
  | .cuJmp o => Sys2Proof.Machine.execCuJmp o s
  | .cuCall o => Sys2Proof.Machine.execCuCall o s
  | .cuRet o => Sys2Proof.Machine.execCuRet o s
  | .cuLoop o => Sys2Proof.Machine.execCuLoop o s
  | .cuRings o => Sys2Proof.Machine.execCuRings o s
  | .cuTrap o => Sys2Proof.Machine.execCuTrap o s
  | .cuBrk o => Sys2Proof.Machine.execCuBrk o s
  | .cuSysRd o => Sys2Proof.Machine.execCuSysRd o s
  | .cuSysWr o => Sys2Proof.Machine.execCuSysWr o s
  | .cuTret o => Sys2Proof.Machine.execCuTret o s
  | .cuTlbinv o => Sys2Proof.Machine.execCuTlbinv o s
  | .cuFrz o => Sys2Proof.Machine.execCuFrz o s
  | .cuThaw o => Sys2Proof.Machine.execCuThaw o s
  | .cuPorterLd o => Sys2Proof.Machine.execCuPorterLd o s
  | .cuTtLd o => Sys2Proof.Machine.execCuTtLd o s
  | .cuCloakOut o => Sys2Proof.Machine.execCuCloakOut o s
  | .cuCloakIn o => Sys2Proof.Machine.execCuCloakIn o s
  | .cuPreempt o => Sys2Proof.Machine.execCuPreempt o s
  | .cuHalt o => Sys2Proof.Machine.execCuHalt o s
  | .cuCsw o => Sys2Proof.Machine.execCuCsw o s
  | .axAdd o => Sys2Proof.Machine.execAxAdd o s
  | .axSub o => Sys2Proof.Machine.execAxSub o s
  | .axShl o => Sys2Proof.Machine.execAxShl o s
  | .axLea o => Sys2Proof.Machine.execAxLea o s
  | .axAnd o => Sys2Proof.Machine.execAxAnd o s
  | .vuFadd o => Sys2Proof.Machine.execVuFadd o s
  | .vuFsub o => Sys2Proof.Machine.execVuFsub o s
  | .vuFmul o => Sys2Proof.Machine.execVuFmul o s
  | .vuFfma o => Sys2Proof.Machine.execVuFfma o s
  | .vuFmin o => Sys2Proof.Machine.execVuFmin o s
  | .vuFmax o => Sys2Proof.Machine.execVuFmax o s
  | .vuFabs o => Sys2Proof.Machine.execVuFabs o s
  | .vuFneg o => Sys2Proof.Machine.execVuFneg o s
  | .vuFexp2 o => Sys2Proof.Machine.execVuFexp2 o s
  | .vuFlog2 o => Sys2Proof.Machine.execVuFlog2 o s
  | .vuFrcp o => Sys2Proof.Machine.execVuFrcp o s
  | .vuFrsqrt o => Sys2Proof.Machine.execVuFrsqrt o s
  | .vuFcvt o => Sys2Proof.Machine.execVuFcvt o s
  | .vuIadd o => Sys2Proof.Machine.execVuIadd o s
  | .vuIsub o => Sys2Proof.Machine.execVuIsub o s
  | .vuImul o => Sys2Proof.Machine.execVuImul o s
  | .vuImulh o => Sys2Proof.Machine.execVuImulh o s
  | .vuIand o => Sys2Proof.Machine.execVuIand o s
  | .vuIor o => Sys2Proof.Machine.execVuIor o s
  | .vuIxor o => Sys2Proof.Machine.execVuIxor o s
  | .vuIshl o => Sys2Proof.Machine.execVuIshl o s
  | .vuIshr o => Sys2Proof.Machine.execVuIshr o s
  | .vuIsar o => Sys2Proof.Machine.execVuIsar o s
  | .vuImin o => Sys2Proof.Machine.execVuImin o s
  | .vuImax o => Sys2Proof.Machine.execVuImax o s
  | .vuNmin o => Sys2Proof.Machine.execVuNmin o s
  | .vuNmax o => Sys2Proof.Machine.execVuNmax o s
  | .vuFeq o => Sys2Proof.Machine.execVuFeq o s
  | .vuFlt o => Sys2Proof.Machine.execVuFlt o s
  | .vuFle o => Sys2Proof.Machine.execVuFle o s
  | .vuIeq o => Sys2Proof.Machine.execVuIeq o s
  | .vuIlt o => Sys2Proof.Machine.execVuIlt o s
  | .vuNlt o => Sys2Proof.Machine.execVuNlt o s
  | .vuVsel o => Sys2Proof.Machine.execVuVsel o s
  | .vuVbcast o => Sys2Proof.Machine.execVuVbcast o s
  | .vuVperm o => Sys2Proof.Machine.execVuVperm o s
  | .vuVslide o => Sys2Proof.Machine.execVuVslide o s
  | .vuVrsum o => Sys2Proof.Machine.execVuVrsum o s
  | .vuVrmax o => Sys2Proof.Machine.execVuVrmax o s
  | .vuVrmin o => Sys2Proof.Machine.execVuVrmin o s
  | .vuVscan o => Sys2Proof.Machine.execVuVscan o s
  | .vuVquant o => Sys2Proof.Machine.execVuVquant o s
  | .vuVdq o => Sys2Proof.Machine.execVuVdq o s
  | .vuVldf o => Sys2Proof.Machine.execVuVldf o s
  | .vuVstf o => Sys2Proof.Machine.execVuVstf o s
  | .vuVcnt o => Sys2Proof.Machine.execVuVcnt o s
  | .mxBloadS4 o => Sys2Proof.Machine.execMxBloadS4 o s
  | .mxBloadE4 o => Sys2Proof.Machine.execMxBloadE4 o s
  | .mxBloadE5 o => Sys2Proof.Machine.execMxBloadE5 o s
  | .mxBloadI8 o => Sys2Proof.Machine.execMxBloadI8 o s
  | .mxBloadBf o => Sys2Proof.Machine.execMxBloadBf o s
  | .mxBloadH o => Sys2Proof.Machine.execMxBloadH o s
  | .mxMmaS4 o => Sys2Proof.Machine.execMxMmaS4 o s
  | .mxMmaE4 o => Sys2Proof.Machine.execMxMmaE4 o s
  | .mxMmaE5 o => Sys2Proof.Machine.execMxMmaE5 o s
  | .mxMmaI8 o => Sys2Proof.Machine.execMxMmaI8 o s
  | .mxMmaBf o => Sys2Proof.Machine.execMxMmaBf o s
  | .mxMmaH o => Sys2Proof.Machine.execMxMmaH o s
  | .mxSpaS4 o => Sys2Proof.Machine.execMxSpaS4 o s
  | .mxSpaE4 o => Sys2Proof.Machine.execMxSpaE4 o s
  | .mxSpaI8 o => Sys2Proof.Machine.execMxSpaI8 o s
  | .tfTzero o => Sys2Proof.Machine.execTfTzero o s
  | .tfTcopy o => Sys2Proof.Machine.execTfTcopy o s
  | .tfTadd o => Sys2Proof.Machine.execTfTadd o s
  | .tfTsub o => Sys2Proof.Machine.execTfTsub o s
  | .tfTmul o => Sys2Proof.Machine.execTfTmul o s
  | .tfTmax o => Sys2Proof.Machine.execTfTmax o s
  | .tfTmin o => Sys2Proof.Machine.execTfTmin o s
  | .tfTsmul o => Sys2Proof.Machine.execTfTsmul o s
  | .tfTscr o => Sys2Proof.Machine.execTfTscr o s
  | .tfTscc o => Sys2Proof.Machine.execTfTscc o s
  | .tfTshr o => Sys2Proof.Machine.execTfTshr o s
  | .tfTshc o => Sys2Proof.Machine.execTfTshc o s
  | .tfTexp o => Sys2Proof.Machine.execTfTexp o s
  | .tfTexpw o => Sys2Proof.Machine.execTfTexpw o s
  | .tfTcvt o => Sys2Proof.Machine.execTfTcvt o s
  | .tfTrmax o => Sys2Proof.Machine.execTfTrmax o s
  | .tfTrsum o => Sys2Proof.Machine.execTfTrsum o s
  | .tfTcmax o => Sys2Proof.Machine.execTfTcmax o s
  | .tfTcsum o => Sys2Proof.Machine.execTfTcsum o s
  | .tfTrmaxr o => Sys2Proof.Machine.execTfTrmaxr o s
  | .tfTrsumr o => Sys2Proof.Machine.execTfTrsumr o s
  | .tfResolve o => Sys2Proof.Machine.execTfResolve o s
  | .tfTdrop o => Sys2Proof.Machine.execTfTdrop o s
  | .tfTld o => Sys2Proof.Machine.execTfTld o s
  | .tfTst o => Sys2Proof.Machine.execTfTst o s
  | .tfTstr o => Sys2Proof.Machine.execTfTstr o s
  | .tfTquant o => Sys2Proof.Machine.execTfTquant o s
  | .tfTdq o => Sys2Proof.Machine.execTfTdq o s
  | .tfFvexp o => Sys2Proof.Machine.execTfFvexp o s
  | .tfFvset o => Sys2Proof.Machine.execTfFvset o s
  | .tfFvst o => Sys2Proof.Machine.execTfFvst o s
  | .tfTtrans o => Sys2Proof.Machine.execTfTtrans o s
  | .luLdb o => Sys2Proof.Machine.execLuLdb o s
  | .luLdh o => Sys2Proof.Machine.execLuLdh o s
  | .luLdw o => Sys2Proof.Machine.execLuLdw o s
  | .luLdd o => Sys2Proof.Machine.execLuLdd o s
  | .luLdsb o => Sys2Proof.Machine.execLuLdsb o s
  | .luLdsh o => Sys2Proof.Machine.execLuLdsh o s
  | .luLdsw o => Sys2Proof.Machine.execLuLdsw o s
  | .luStb o => Sys2Proof.Machine.execLuStb o s
  | .luSth o => Sys2Proof.Machine.execLuSth o s
  | .luStw o => Sys2Proof.Machine.execLuStw o s
  | .luStd o => Sys2Proof.Machine.execLuStd o s
  | .luLdq o => Sys2Proof.Machine.execLuLdq o s
  | .luStq o => Sys2Proof.Machine.execLuStq o s
  | .luLdv o => Sys2Proof.Machine.execLuLdv o s
  | .luStv o => Sys2Proof.Machine.execLuStv o s
  | .luAmo o => Sys2Proof.Machine.execLuAmo o s
  | .luCas o => Sys2Proof.Machine.execLuCas o s
  | .luFamo o => Sys2Proof.Machine.execLuFamo o s
  | .luRed o => Sys2Proof.Machine.execLuRed o s
  | .luHnd o => Sys2Proof.Machine.execLuHnd o s
  | .luFown o => Sys2Proof.Machine.execLuFown o s
  | .luFfar o => Sys2Proof.Machine.execLuFfar o s
  | .luDrain o => Sys2Proof.Machine.execLuDrain o s
  | .luPf o => Sys2Proof.Machine.execLuPf o s
  | .xeGo o => Sys2Proof.Machine.execXeGo o s
  | .xeStat o => Sys2Proof.Machine.execXeStat o s
  | .xeCancel o => Sys2Proof.Machine.execXeCancel o s
  | .xeDict o => Sys2Proof.Machine.execXeDict o s
  | .fqTx o => Sys2Proof.Machine.execFqTx o s
  | .fqTxe o => Sys2Proof.Machine.execFqTxe o s
  | .syBinit o => Sys2Proof.Machine.execSyBinit o s
  | .syBarr o => Sys2Proof.Machine.execSyBarr o s
  | .syBexp o => Sys2Proof.Machine.execSyBexp o s
  | .syBtest o => Sys2Proof.Machine.execSyBtest o s
  | .syBarm o => Sys2Proof.Machine.execSyBarm o s
  | .syRinit o => Sys2Proof.Machine.execSyRinit o s
  | .syRclaim o => Sys2Proof.Machine.execSyRclaim o s
  | .syRtake o => Sys2Proof.Machine.execSyRtake o s
  | .syRgive o => Sys2Proof.Machine.execSyRgive o s
  | .syRfill o => Sys2Proof.Machine.execSyRfill o s
  | .syRstat o => Sys2Proof.Machine.execSyRstat o s
  | .syEnq o => Sys2Proof.Machine.execSyEnq o s
  | .sySpawn o => Sys2Proof.Machine.execSySpawn o s
  | .syViews o => Sys2Proof.Machine.execSyViews o s
  | .syMerge o => Sys2Proof.Machine.execSyMerge o s
  | .syJoin o => Sys2Proof.Machine.execSyJoin o s
  | .syCancel o => Sys2Proof.Machine.execSyCancel o s
  | .syCtr o => Sys2Proof.Machine.execSyCtr o s
  | .syFarm o => Sys2Proof.Machine.execSyFarm o s
  | .syUntil o => Sys2Proof.Machine.execSyUntil o s
  | .syPrio o => Sys2Proof.Machine.execSyPrio o s
  | .waitSlotIssue core ctx => Sys2Proof.Machine.execWaitSlotIssue core ctx s
  | .divisionComplete core ctx tag => Sys2Proof.Machine.execDivisionComplete core ctx tag s
  | .tlbinvComplete core ctx => Sys2Proof.Machine.execTlbinvComplete core ctx s
  | .porterLoadInstall core ctx => Sys2Proof.Machine.execPorterLoadInstall core ctx s
  | .cloakOutComplete core ctx => Sys2Proof.Machine.execCloakOutComplete core ctx s
  | .cloakInComplete core ctx => Sys2Proof.Machine.execCloakInComplete core ctx s
  | .haltComplete core ctx => Sys2Proof.Machine.execHaltComplete core ctx s
  | .vuResultLand core ctx tag => Sys2Proof.Machine.execVuResultLand core ctx tag s
  | .bloadStart core id => Sys2Proof.Machine.execBloadStart core id s
  | .bloadComplete core id => Sys2Proof.Machine.execBloadComplete core id s
  | .mmaLaunch core id => Sys2Proof.Machine.execMmaLaunch core id s
  | .aReadRetirement core id => Sys2Proof.Machine.execAReadRetirement core id s
  | .mmaRowWrite core id => Sys2Proof.Machine.execMmaRowWrite core id s
  | .tfCommandStart core id => Sys2Proof.Machine.execTfCommandStart core id s
  | .tfRowStep core id => Sys2Proof.Machine.execTfRowStep core id s
  | .tfCommandEnd core id => Sys2Proof.Machine.execTfCommandEnd core id s
  | .ffarSerialise core ctx => Sys2Proof.Machine.execFfarSerialise core ctx s
  | .ffarComplete core ctx => Sys2Proof.Machine.execFfarComplete core ctx s
  | .drainComplete core ctx => Sys2Proof.Machine.execDrainComplete core ctx s
  | .storeEnter core ctx => Sys2Proof.Machine.execStoreEnter core ctx s
  | .storePerform core ctx piece => Sys2Proof.Machine.execStorePerform core ctx piece s
  | .channelDeliver id => Sys2Proof.Machine.execChannelDeliver id s
  | .loadResultArrive core ctx tag value => Sys2Proof.Machine.execLoadResultArrive core ctx tag value s
  | .pageWalkComplete core part addr => Sys2Proof.Machine.execPageWalkComplete core part addr s
  | .routerCombine router => Sys2Proof.Machine.execRouterCombine router s
  | .routerWaitTimeout router id => Sys2Proof.Machine.execRouterWaitTimeout router id s
  | .dictLoadComplete core gen => Sys2Proof.Machine.execDictLoadComplete core gen s
  | .xeResWrite core ctx tag value => Sys2Proof.Machine.execXeResWrite core ctx tag value s
  | .jobBegin core => Sys2Proof.Machine.execJobBegin core s
  | .jobTransfer core job idx => Sys2Proof.Machine.execJobTransfer core job idx s
  | .jobComplete core job => Sys2Proof.Machine.execJobComplete core job s
  | .fqReplyArrive id => Sys2Proof.Machine.execFqReplyArrive id s
  | .fvContribution id => Sys2Proof.Machine.execFvContribution id s
  | .ringSlotFull core base slot => Sys2Proof.Machine.execRingSlotFull core base slot s
  | .ringSlotFree core base slot => Sys2Proof.Machine.execRingSlotFree core base slot s
  | .joinComplete part parent => Sys2Proof.Machine.execJoinComplete part parent s
  | .mergeStep part parent => Sys2Proof.Machine.execMergeStep part parent s
  | .unitStopOnCancel core ctx => Sys2Proof.Machine.execUnitStopOnCancel core ctx s
  | .deadlineReached core ctx flag => Sys2Proof.Machine.execDeadlineReached core ctx flag s
  | .promiseReached core ctx => Sys2Proof.Machine.execPromiseReached core ctx s
  | .contextReady core ctx => Sys2Proof.Machine.execContextReady core ctx s
  | .priorityLift core ctx => Sys2Proof.Machine.execPriorityLift core ctx s
  | .runQuantumExpiry core ctx => Sys2Proof.Machine.execRunQuantumExpiry core ctx s
  | .waypointDistance core ctx => Sys2Proof.Machine.execWaypointDistance core ctx s
  | .queueEntryGrant die => Sys2Proof.Machine.execQueueEntryGrant die s
  | .unitStart part batch => Sys2Proof.Machine.execUnitStart part batch s
  | .launchCounterDiscard part handle => Sys2Proof.Machine.execLaunchCounterDiscard part handle s
  | .subqEntryTake part => Sys2Proof.Machine.execSubqEntryTake part s
  | .unitSave core ctx => Sys2Proof.Machine.execUnitSave core ctx s
  | .unitResume part uid => Sys2Proof.Machine.execUnitResume part uid s
  | .dataError code core met => Sys2Proof.Machine.execDataError code core met s
  | .selfTestComplete core pass => Sys2Proof.Machine.execSelfTestComplete core pass s
  | .faultRecordPerform part record => Sys2Proof.Machine.execFaultRecordPerform part record s
  | .resume part handle => Sys2Proof.Machine.execResume part handle s
  | .partCtlFresh part => Sys2Proof.Machine.execPartCtlFresh part s
  | .fbCtlRevert plane => Sys2Proof.Machine.execFbCtlRevert plane s
  | .subqTailWrite part tail => Sys2Proof.Machine.execSubqTailWrite part tail s
  | .evqCtlRead core ctx => Sys2Proof.Machine.execEvqCtlRead core ctx s
  | .fltqCtlRead core ctx part => Sys2Proof.Machine.execFltqCtlRead core ctx part s
  | .systemRegisterWrite core ctx number value => Sys2Proof.Machine.execSystemRegisterWrite core ctx number value s
  | .timetableSlotBoundary plane heard => Sys2Proof.Machine.execTimetableSlotBoundary plane heard s
  | .flitSend plane peer => Sys2Proof.Machine.execFlitSend plane peer s
  | .flitFillTimeout plane peer => Sys2Proof.Machine.execFlitFillTimeout plane peer s
  | .flitReceive plane src dst seq ack kind plen payload crc msgs => Sys2Proof.Machine.execFlitReceive plane src dst seq ack kind plen payload crc msgs s
  | .txLaneDark plane lanes laser => Sys2Proof.Machine.execTxLaneDark plane lanes laser s
  | .rxLaneDark plane lanes => Sys2Proof.Machine.execRxLaneDark plane lanes s
  | .restripeHoldEnd plane => Sys2Proof.Machine.execRestripeHoldEnd plane s
  | .laneRestored plane tx rx => Sys2Proof.Machine.execLaneRestored plane tx rx s
  | .eventRecordPerform record => Sys2Proof.Machine.execEventRecordPerform record s
  | .packageReset modules npkg pkg controls => Sys2Proof.Machine.execPackageReset modules npkg pkg controls s
  | .ucieModuleFailure modules => Sys2Proof.Machine.execUcieModuleFailure modules s
  | .bootGo => Sys2Proof.Machine.execBootGo s
  | .firmwareCheckComplete controls => Sys2Proof.Machine.execFirmwareCheckComplete controls s
  | .powerFail => Sys2Proof.Machine.execPowerFail s
  | .attest => Sys2Proof.Machine.execAttest s
  | .attestReportComplete => Sys2Proof.Machine.execAttestReportComplete s
  | .hostMemoryAccess key what bytes => Sys2Proof.Machine.execHostMemoryAccess key what bytes s
  | .hostRegisterWrite number value => Sys2Proof.Machine.execHostRegisterWrite number value s
  | .debuggerAccess core ctx place act => Sys2Proof.Machine.execDebuggerAccess core ctx place act s
  | .throttleStep temp => Sys2Proof.Machine.execThrottleStep temp s
  | .thermalHalt temp => Sys2Proof.Machine.execThermalHalt temp s
  | .thermalRelease temp => Sys2Proof.Machine.execThermalRelease temp s

end Sys2Proof.Machine
end

