-- ==== Sys2Proof/Machine/Sweep.lean ====
section
/-!
DEFINITION. The clock edge: the cycle counter and the domain time advance, conditions that hold in a cycle set armed
flags (spec/08_ops_control.md R161), and the events whose condition has come are posted for the cycle.
-/

namespace Sys2Proof.Machine

/-- Whether nothing of a core can change by itself: no unit, no command, no job, no ring, no dictionary on its way. -/
def Core.quiet (co : Core) : Bool :=
  co.ctxs.all (·.status == .free) && co.mx.isEmpty && co.tf.isEmpty && co.jobs.isEmpty && co.rings.isEmpty
    && co.resv.isEmpty && co.dicts.all (!·.loading)

/-- Posts an event for this cycle if its condition has come. -/
def Mach.postIf (m : Mach) (b : Bool) (e : Event) : Mach := if b then m.post m.cycle e else m

/-! ## Contexts -/

/-- The event in which a blocked context goes on. -/
def Ctx.wakeEvent (x : Ctx) (c k : Nat) : Event :=
  match x.status with
  | .blocked (.drain _) => if x.waitOn.isEmpty then .drainComplete c k else .contextReady c k
  | _ => if x.waitChanged && (x.status == .blocked .waitFlags || x.waitOn.contains .waitFlags) then .waitSlotIssue c k else .contextReady c k

/-- Whether UNIT_STOP_ON_CANCEL is due: a cancelled unit can stop, or what a stopped one had out has ended (R14). -/
def Mach.stopDue (m : Mach) (c k : Nat) : Bool :=
  let x := m.ctx c k
  (x.canStop && x.status != .stopping)
    || (x.status == .stopping && !((m.core c).mx.any (·.ctx == k)) && !((m.core c).tf.any (·.ctx == k))
      && x.pend.isEmpty && x.buffer.isEmpty && x.privOp.isNone)

/-- Posts the deadlines of a context that have come (R161). -/
def Mach.postDeadlines (m : Mach) (c k : Nat) : Mach :=
  ((upFrom 0 16).filter ((m.ctx c k).deadlineDue m.cycle)).foldl (fun m i => m.post m.cycle (.deadlineReached c k i)) m

/-- Posts the events of a context whose condition has come. -/
def sweepCtx (mem : Memory) (c : Nat) (m : Mach) (k : Nat) : Mach :=
  if (m.ctx c k).status == .free then m
  else
    let m := (setArmedAll mem c m k).postDeadlines c k
    let x := m.ctx c k
    let stop := m.stopDue c k
    let m := m.postIf stop (.unitStopOnCancel c k)
    let m := m.postIf (!stop && m.canWake c k) (x.wakeEvent c k)
    let m := m.postIf (m.liftDue c k) (.priorityLift c k)
    let m := m.postIf (m.quantumDue c k) (.runQuantumExpiry c k)
    let m := m.postIf (m.mergeReady c k) (.mergeEnd c k)
    let m := m.postIf (x.status == .saving && !x.saveSet && !stop && x.settled) (.unitSave c k)
    let m := m.postIf (m.ffarReady c k) (.ffarSerialise c k)
    m.postIf (m.ffarDone c k) (.ffarComplete c k)

/-! ## Cores -/

/-- Posts the slots of a ring that become full or free (R53). -/
def sweepRing (c : Nat) (m : Mach) (r : Ring) : Mach :=
  (upFrom 0 r.slots.length).foldl (fun m i =>
    (m.postIf (m.fullDue c r i) (.ringSlotFull c r.base i)).postIf (r.freeDue i) (.ringSlotFree c r.base i)) m

/-- Posts what the traverse engine of a core does in this cycle, and starts the walks that its transfers wait for. -/
def sweepJobs (mem : Memory) (m : Mach) (c : Nat) : Mach :=
  let (turn, walks) := m.engineTurn mem c
  let m := walks.foldl (fun m p => m.startWalk c (8 + p.1) (partOf c) p.2) m
  let m := match turn with
    | some j => m.post m.cycle (.jobTransfer c j.num j.next)
    | none => m
  (m.postIf (m.nextJob c).isSome (.jobBegin c)).startDicts c

/-- Posts the events of a core whose condition has come. -/
def sweepCore (mem : Memory) (m : Mach) (c : Nat) : Mach :=
  if (m.core c).quiet then m
  else
    let m := m.onCore c (·.dropReleased m.cycle)
    let m := (m.core c).rings.foldl (sweepRing c) m
    let m := (upFrom 0 8).foldl (sweepCtx mem c) m
    sweepJobs mem m c

/-! ## Walks -/

/-- Posts the ends of the walks that have started (R310), and forgets those that ended in a fault which no access has taken
(log 93). -/
def sweepWalks (mem : Memory) (m : Mach) : Mach :=
  if m.walks.isEmpty then m
  else
    let kept := m.walks.filter fun w => w.fault.isNone || m.cycle ≤ w.since + 64
    kept.foldl (fun m w => if w.posted then m else m.post (w.since + walkTime mem m w.part w.va) (.pageWalkComplete w.core w.part w.va))
      { m with walks := kept.map fun w => { w with posted := true } }

/-! ## Partitions -/

/-- Posts the joins whose fold into the parent's objects can begin (R34). -/
def sweepFamilies (m : Mach) (h : Nat) : Mach :=
  (m.work h).families.foldl (fun m f =>
    match m.findUnit h f.parent with
    | some (c, k) => m.postIf (m.foldReady c k f) (.joinComplete h f.parent)
    | none => m) m

/-- Posts the events of a partition whose condition has come, and writes COMPLETE into results of host submissions. -/
def sweepPart (m : Mach) (h : Nat) : Mach :=
  let m := sweepFamilies m h
  let m := if m.boot.modules = 0 then m else (m.writeResults h).postIf (m.subqReady h) (.subqEntryTake h)
  m.postStart h

/-- The clock edge. -/
def tick (s : State) : State :=
  let m := { s.mach with cycle := s.mach.cycle + 1, fbTime := s.mach.fbTime + 1, turn := 0 }
  let m := sweepWalks s.mem ((upFrom 0 160).foldl (sweepCore s.mem) m)
  commit s ((upFrom 0 8).foldl sweepPart m)

end Sys2Proof.Machine
end

