-- ==== Sys2Proof/Machine/Events.lean ====
section
/-!
DEFINITION. What a scheduled event does: the meaning of the step of the same name (spec/95_what_each_step_holds.md),
the one `exec` gives it.
-/

namespace Sys2Proof.Machine

/-- Runs a scheduled event. -/
def runEvent (e : Event) (s : State) : Out :=
  match e with
  | .waitSlotIssue core ctx => execWaitSlotIssue core ctx s
  | .divisionComplete core ctx tag => execDivisionComplete core ctx tag s
  | .tlbinvComplete core ctx => execTlbinvComplete core ctx s
  | .porterLoadInstall core ctx => execPorterLoadInstall core ctx s
  | .cloakOutComplete core ctx => execCloakOutComplete core ctx s
  | .cloakInComplete core ctx => execCloakInComplete core ctx s
  | .haltComplete core ctx => execHaltComplete core ctx s
  | .vuResultLand core ctx tag => execVuResultLand core ctx tag s
  | .bloadStart core id => execBloadStart core id s
  | .bloadComplete core id => execBloadComplete core id s
  | .mmaLaunch core id => execMmaLaunch core id s
  | .aReadRetirement core id => execAReadRetirement core id s
  | .mmaRowWrite core id => execMmaRowWrite core id s
  | .tfCommandStart core id => execTfCommandStart core id s
  | .tfRowStep core id => execTfRowStep core id s
  | .tfCommandEnd core id => execTfCommandEnd core id s
  | .ffarSerialise core ctx => execFfarSerialise core ctx s
  | .ffarComplete core ctx => execFfarComplete core ctx s
  | .drainComplete core ctx => execDrainComplete core ctx s
  | .storeEnter core ctx => execStoreEnter core ctx s
  | .storePerform core ctx piece => execStorePerform core ctx piece s
  | .channelDeliver id => execChannelDeliver id s
  | .loadResultArrive core ctx tag value => execLoadResultArrive core ctx tag value s
  | .pageWalkComplete core part addr => execPageWalkComplete core part addr s
  | .routerCombine router => execRouterCombine router s
  | .routerWaitTimeout router id => execRouterWaitTimeout router id s
  | .dictLoadComplete core gen => execDictLoadComplete core gen s
  | .xeResWrite core ctx tag value => execXeResWrite core ctx tag value s
  | .jobBegin core => execJobBegin core s
  | .jobTransfer core job idx => execJobTransfer core job idx s
  | .jobComplete core job => execJobComplete core job s
  | .fqReplyArrive id => execFqReplyArrive id s
  | .fvContribution id => execFvContribution id s
  | .ringSlotFull core base slot => execRingSlotFull core base slot s
  | .ringSlotFree core base slot => execRingSlotFree core base slot s
  | .joinComplete part parent => execJoinComplete part parent s
  | .mergeStep part parent => execMergeStep part parent s
  | .unitStopOnCancel core ctx => execUnitStopOnCancel core ctx s
  | .deadlineReached core ctx flag => execDeadlineReached core ctx flag s
  | .promiseReached core ctx => execPromiseReached core ctx s
  | .contextReady core ctx => execContextReady core ctx s
  | .priorityLift core ctx => execPriorityLift core ctx s
  | .runQuantumExpiry core ctx => execRunQuantumExpiry core ctx s
  | .queueEntryGrant die => execQueueEntryGrant die s
  | .unitStart part batch => execUnitStart part batch s
  | .launchCounterDiscard part handle => execLaunchCounterDiscard part handle s
  | .subqEntryTake part => execSubqEntryTake part s
  | .unitSave core ctx => execUnitSave core ctx s
  | .unitResume part uid => execUnitResume part uid s
  | .selfTestComplete core pass => execSelfTestComplete core pass s
  | .faultRecordPerform part record => execFaultRecordPerform part record s
  | .timetableSlotBoundary plane heard => execTimetableSlotBoundary plane heard s
  | .flitSend plane peer => execFlitSend plane peer s
  | .flitFillTimeout plane peer => execFlitFillTimeout plane peer s
  | .restripeHoldEnd plane => execRestripeHoldEnd plane s
  | .eventRecordPerform record => execEventRecordPerform record s
  | .firmwareCheckComplete controls => execFirmwareCheckComplete controls s
  | .attestReportComplete => execAttestReportComplete s
  | .bootGo => execBootGo s
  | .barrierUnits => barrierUnits s
  | .mergeEnd core ctx => mergeEnd core ctx s

end Sys2Proof.Machine
end

