-- ==== Sys2Proof/Machine/Place.lean ====
section
/-!
DEFINITION. A machine that runs one given word next: a unit in context 0 of core 0 whose next bundle holds the word in
the slot its bus allows (spec/07_encoding.md R133). It stands for a program loaded and started from outside (log 5).
-/

namespace Sys2Proof.Machine

/-- The empty slot (R147). -/
def emptySlot : Cell := 0x00FFFFC0
/-- The slot that consumes a literal and keeps nothing: `(literal) -> none`. -/
def literalSink : Cell := 0x00FF7FC0
/-- A header that gives slot 1 the extension byte 1. -/
def loopHeader : Cell := 0xC0000001

/-- The slot a word's bus allows (R133): slot 0 for a move. -/
def slotFor (w : Cell) : Nat :=
  if (trigOfCode (destOf w)).isSome then
    match unitOfCode (destOf w) with
    | .vu => 1
    | .mx | .tf => 2
    | .lu | .ax => 3
    | _ => 0
  else 0

/-- The bundle in which a word is placed: its own slot by form and bus, a header for `cu.loop`, a consumer for a
literal, a literal for a consumer. -/
def bundleOf (w : Cell) : List Cell :=
  match formOf w with
  | 3 => [w, emptySlot, emptySlot, emptySlot]
  | 2 => [literalSink, w, emptySlot, emptySlot]
  | _ =>
    if destOf w = 0x12D then [loopHeader, w, emptySlot, emptySlot]
    else (upFrom 0 4).map fun k =>
      if k = slotFor w then w else if k = slotFor w + 1 ∧ takesLiteral w then 0x80000000 else emptySlot

/-- The packet of the placed unit: one unit, every window of one entry at least. -/
def placedPacket : Packet :=
  ⟨1, some 0, false, 0, false, 0x1000, 8, 16, 512, 64, 64, 0, 0, 0, 0, [], List.replicate 7 none, [], []⟩

/-- The placed unit. -/
def placedUnit : UnitId := ⟨1, 0, 0, 1, 0, 0, 0, 0, 0, placedPacket, none, 0, [], [], 0, 0, [], [], 0⟩

/-- The page of code that holds the bundle: virtual page 0, the HBM frame of 64 KiB at 0, executable. -/
def placedPage : Tlb := ⟨0, 0, 0, 65536, word (2 ^ 63 + 2 ^ 61 + 2 ^ 57)⟩

/-- The context that runs the placed unit, its state as a unit start sets it (R39). -/
def placedCtx : Ctx :=
  { Ctx.reset with
    v := List.replicate 64 (List.replicate 256 0)
    vm := List.replicate 8 0
    fv := List.replicate 64 .zero
    acc := List.replicate 512 (List.replicate 256 0)
    pc := 0x1000
    status := .running
    unit := some placedUnit }

end Sys2Proof.Machine
end

