-- ==== Sys2Proof/Machine/Step.lean ====
section
/-!
DEFINITION. One step of the machine: the next event that is due, else the next bundle of this cycle, else the clock
edge (log 3).
-/

namespace Sys2Proof.Machine

/-- The bundle of the next core that issues in this cycle, else the clock edge. -/
def issueNext (s : State) : Out :=
  let m := s.mach
  if m.mayIssue then
    match m.nextIssuer m.turn (m.cores.drop m.turn) with
    | some (c, k, level) => issueRun exec s c k level
    | none => .next (tick s)
  else .next (tick s)

/-- What the step adds to an event: what flags are armed to and holds now is noted (R43), and a waiting bundle that the event
releases issues at once (R160). -/
def afterEvent (r : Out) : Out :=
  match r with
  | .next s =>
    let s := { s with mach := noteArmed s.mem s.mach }
    match s.mach.issue.go with
    | some (c, k) => issueBundle exec { s with mach := { s.mach with issue := .idle } } c k
    | none => .next s
  | r => r

/-- One step. -/
def step (s : State) : Host.Outcome State Fault Refusal :=
  match s.mach.agenda with
  | (t, e) :: rest =>
    if t ≤ s.mach.cycle then afterEvent (runEvent e { s with mach := { s.mach with agenda := rest } }) else issueNext s
  | [] => issueNext s

/-- The state in which the instruction whose bits are `w` (numbered as spec/opcode_table.json numbers them; the bits
above `nbits` are 0) is the next to issue: in the bundle at the pc of context 0 of core 0, which runs (log 5). -/
def State.withFetchWord (s : State) (nbits w : Nat) : State :=
  let bytes := (bundleOf (BitVec.ofNat 32 (w % 2 ^ nbits))).flatMap fun c => bytesLE 4 c.toNat
  { mem := s.mem.writeAll ((upFrom (hbmStart + 0x1000) 16).zip bytes)
    mach :=
      { s.mach with
        cores := modifyAt (fun co =>
            { co.onCtx 0 (fun _ => placedCtx) with
              running := some 0, nextIssue := 0, retired := false, halted := false, tlb := placedPage :: co.tlb }) 0 s.mach.cores
        parts := modifyAt (fun p => { p with ptEn := modifyAt (fun _ => true) 0 p.ptEn }) 0 s.mach.parts
        boot := { s.mach.boot with state := .running, throt := 0 }
        agenda := []
        turn := 0 } }

end Sys2Proof.Machine
end

