-- ==== Sys2Proof/Safety.lean ====
section
/-!
DEFINITION. What counts as a safe state, and the words statements are made of: what a trigger's slot reads, what its latches
hold, and how a slot or an event ends.
-/

namespace Sys2Proof.Machine

/-! ## The invariant -/

/-- The invariant every step keeps: memory is in canonical form, and no byte that a step wrote is left uncommitted. -/
abbrev State.Inv (s : State) : Prop := s.mem.wf = true ∧ s.mach.out = []

/-! ## Operands -/

/-- The guard of a trigger slot holds and its T reads as v, be it already read by the bundle (R42) or read now; m is the
machine with what the read itself changes (a word taken from fq.rx, a sticky bit). -/
def State.Moves (s : State) (o : TOp) (v : Val) (m : Mach) : Prop :=
  operand s.mach o.guard (readT s.mem · o) = .ok (some (v, m))

/-- Latch l of the context at issue is valid and holds v (R57). -/
abbrev Mach.Holds (m : Mach) (l : Latch) (v : Val) : Prop := (m.me.latchCell l).val = some v

/-- The machine after latches have been taken: each becomes empty unless it is held (R57). -/
def Mach.taken (m : Mach) (ls : List Latch) : Mach := ls.foldl (fun m l => (takeIf l m).2) m

/-- A vu trigger with control word t finds the latches ls, and vu.m where its MASK bit asks for it, and nothing that its references name
has a write on its way (R176, R178); mask is the lanes it writes, and m1 the machine with the latches taken. -/
def Mach.VuReady (m : Mach) (t : Word) (ls : List (Latch × Val)) (mask : BitVec 256) (m1 : Mach) : Prop :=
  m.myCore.vuNext ≤ m.cycle ∧ (∀ p ∈ ls, m.Holds p.1 p.2 ∧ m.me.outstanding p.2 = false)
    ∧ ((t.getLsbD 3 = false ∧ mask = BitVec.allOnes 256 ∧ m1 = m.taken (ls.map (·.1)))
      ∨ (t.getLsbD 3 = true ∧ ∃ j, m.Holds .vuM (.ref .vm j) ∧ m.me.outstanding (.ref .vm j) = false
        ∧ mask = m.me.vm.getD j 0 ∧ m1 = m.taken (ls.map (·.1) ++ [.vuM])))

/-- No operation of the context keeps cu triggers waiting for a status (R173). -/
abbrev Mach.CuReady (m : Mach) : Prop := m.me.privOp = none ∧ m.me.cuUntil ≤ m.cycle

/-- The slot at issue is one of a context that the machine has. -/
abbrev Mach.Placed (m : Mach) : Prop := m.issue.core < m.cores.length ∧ m.issue.ctx < (m.core m.issue.core).ctxs.length

/-- The machine has context k of core c. -/
abbrev Mach.Has (m : Mach) (c k : Nat) : Prop := c < m.cores.length ∧ k < (m.core c).ctxs.length

/-- From m to m' every core but c, and every context of c but k, is as it was, and no byte is written. -/
def Mach.Kept (m m' : Mach) (c k : Nat) : Prop :=
  m'.out = m.out ∧ (∀ d, d ≠ c → m'.core d = m.core d) ∧ ∀ j, j ≠ k → m'.ctx c j = m.ctx c j

/-- A tf trigger with control word t finds room in its queue, and where MXW is set every mx command of its context is over (R206, R210). -/
def Mach.TfReady (m : Mach) (t : Word) : Prop :=
  m.myCore.tfQueued m.issue.ctx < 4
    ∧ (t.getLsbD 2 = true → m.me.mxwFrom ≤ m.cycle ∧ ∀ q ∈ m.myCore.mx, q.ctx ≠ m.issue.ctx)

/-! ## How a slot or an event ends -/

/-- The state after a slot that has had its effect m. -/
def State.did (s : State) (m : Mach) : State := commit s { m with issue := { m.issue with out := .done } }

/-- The state after a slot that raised trap t (R313, R317). -/
def State.raised (s : State) (t : Trap) : State :=
  commit s
    (let m := s.mach.takeTrap s.mach.issue.core s.mach.issue.ctx t
     { m with issue := { m.issue with out := .stopped (.raise t) } })

/-- The state after a slot that had to block or to stall on e. -/
def State.held (s : State) (e : Stop) : State :=
  commit s
    (let m := s.mach.meetStop s.mach.issue.core s.mach.issue.ctx e
     { m with issue := { m.issue with out := .stopped e } })

end Sys2Proof.Machine
end

