-- ==== Sys2Proof/Certificates/Slice0/Obligations.lean ====
section
/-!
DEFINITION. The statements about the model, as propositions. Each docstring names the rules of spec/ it formalises.
-/

open Sys2Proof Sys2Proof.Machine


/-! ## Scalar operations (spec/08_ops_control.md) -/

/-- R152: the codes of the integer triggers of cu, in the order of the table from 0x102 on. -/
def Clauses.IntegerTriggerCodes : Prop :=
  ∀ (i : Nat) (f : TOp → Instr), ([Instr.cuAdd, .cuSub, .cuMul, .cuMulh, .cuMulhn, .cuDivi, .cuDivn, .cuRemi, .cuRemn, .cuAnd, .cuOr, .cuXor, .cuAndn,
      .cuShl, .cuShr, .cuSar, .cuRol, .cuClz, .cuCtz, .cuPopc] ++ [Instr.cuMini, .cuMaxi, .cuMinn, .cuMaxn, .cuSxb, .cuSxh, .cuSxw, .cuZxb, .cuZxh,
      .cuZxw, .cuBfx, .cuBfi, .cuSel, .cuCeq, .cuCne, .cuClti, .cuCltn, .cuClei, .cuClen] : List (TOp → Instr))[i]? = some f →
    trigOfCode (0x102 + i) = some f ∧ ∀ o, (f o).trigger = some (0x102 + i, o)

/-- R152, R154, R151: each integer trigger of cu that uses latch a takes a and T and leaves in cu.res the result of its row, readable
after 1 cycle, or after 3 for the multiplications; nothing else of the machine changes but latch a, which is taken. -/
def Clauses.CuTriggersOnLatchAGiveTheirResult : Prop :=
  ∀ e ∈ ([(Instr.cuAdd, fun a t => a + t, 1), (Instr.cuSub, fun a t => a - t, 1), (Instr.cuMul, fun a t => a * t, 3),
      (Instr.cuMulh, fun a t => BitVec.ofInt 64 (a.toInt * t.toInt / 2 ^ 64), 3),
      (Instr.cuMulhn, fun a t => BitVec.ofNat 64 (a.toNat * t.toNat / 2 ^ 64), 3),
      (Instr.cuAnd, fun a t => a &&& t, 1), (Instr.cuOr, fun a t => a ||| t, 1), (Instr.cuXor, fun a t => a ^^^ t, 1),
      (Instr.cuAndn, fun a t => a &&& ~~~t, 1),
      (Instr.cuShl, fun a t => a <<< (t.toNat % 64), 1), (Instr.cuShr, fun a t => a >>> (t.toNat % 64), 1),
      (Instr.cuSar, fun a t => a.sshiftRight (t.toNat % 64), 1), (Instr.cuRol, fun a t => a.rotateLeft (t.toNat % 64), 1),
      (Instr.cuMini, fun a t => if a.toInt ≤ t.toInt then a else t, 1),
      (Instr.cuMaxi, fun a t => if a.toInt ≤ t.toInt then t else a, 1),
      (Instr.cuMinn, fun a t => if a.toNat ≤ t.toNat then a else t, 1),
      (Instr.cuMaxn, fun a t => if a.toNat ≤ t.toNat then t else a, 1),
      (Instr.cuBfx, fun a t =>
        let pos := t.toNat % 64
        let len := t.toNat / 64 % 128
        BitVec.ofNat 64 (a.toNat / 2 ^ pos % 2 ^ min len (64 - pos)), 1),
      (Instr.cuCeq, fun a t => if a = t then 1 else 0, 1), (Instr.cuCne, fun a t => if a = t then 0 else 1, 1),
      (Instr.cuClti, fun a t => if a.toInt < t.toInt then 1 else 0, 1),
      (Instr.cuCltn, fun a t => if a.toNat < t.toNat then 1 else 0, 1),
      (Instr.cuClei, fun a t => if a.toInt ≤ t.toInt then 1 else 0, 1),
      (Instr.cuClen, fun a t => if a.toNat ≤ t.toNat then 1 else 0, 1)]
      : List ((TOp → Instr) × (Word → Word → Word) × Nat)),
    ∀ (o : TOp) (s : State) (a t : Word) (m : Mach), s.Moves o (.word t) m → m.CuReady → m.Holds .cuA (.word a) →
      exec (e.1 o) s = .next (s.did ((m.taken [.cuA]).result .cu (e.2.1 a t) e.2.2))

/-- R152, R151: each integer trigger of cu that uses no latch leaves in cu.res the result of its row, readable after 1 cycle. -/
def Clauses.CuTriggersOnTAloneGiveTheirResult : Prop :=
  ∀ e ∈ ([(Instr.cuPopc, fun t => BitVec.ofNat 64 (((List.range 64).filter t.getLsbD).length)),
      (Instr.cuSxb, fun t => (t.setWidth 8).signExtend 64), (Instr.cuSxh, fun t => (t.setWidth 16).signExtend 64),
      (Instr.cuSxw, fun t => (t.setWidth 32).signExtend 64), (Instr.cuZxb, fun t => (t.setWidth 8).setWidth 64),
      (Instr.cuZxh, fun t => (t.setWidth 16).setWidth 64), (Instr.cuZxw, fun t => (t.setWidth 32).setWidth 64)]
      : List ((TOp → Instr) × (Word → Word))),
    ∀ (o : TOp) (s : State) (t : Word) (m : Mach), s.Moves o (.word t) m → m.CuReady →
      exec (e.1 o) s = .next (s.did (m.result .cu (e.2 t) 1))

/-- R152: cu.clz and cu.ctz count the leading and the trailing zero bits of T, which is 64 for T = 0: the count is the number n for
which the n outer bits of T are zero and, where n is not 64, the next one is not. -/
def Clauses.CuZeroCountsAreExact : Prop :=
  ∀ (o : TOp) (s : State) (t : Word) (m : Mach), s.Moves o (.word t) m → m.CuReady →
    (∃ n, n ≤ 64 ∧ (∀ j, j < n → t.getLsbD (63 - j) = false) ∧ (n < 64 → t.getLsbD (63 - n) = true)
      ∧ exec (.cuClz o) s = .next (s.did (m.result .cu (BitVec.ofNat 64 n) 1)))
    ∧ (∃ n, n ≤ 64 ∧ (∀ j, j < n → t.getLsbD j = false) ∧ (n < 64 → t.getLsbD n = true)
      ∧ exec (.cuCtz o) s = .next (s.did (m.result .cu (BitVec.ofNat 64 n) 1)))

/-- R152, R154: cu.sel gives a where T is not 0 and else b; cu.bfi gives a with the field that T names replaced by the low bits of
b, every other bit as it was. -/
def Clauses.CuSelectAndInsertGiveTheirResult : Prop :=
  ∀ (o : TOp) (s : State) (a b t : Word) (m : Mach), s.Moves o (.word t) m → m.CuReady → m.Holds .cuA (.word a) →
    m.Holds .cuB (.word b) →
    exec (.cuSel o) s = .next (s.did ((m.taken [.cuA, .cuB]).result .cu (if t = 0 then b else a) 1))
    ∧ ∃ r : Word, exec (.cuBfi o) s = .next (s.did ((m.taken [.cuA, .cuB]).result .cu r 1))
      ∧ ∀ i, i < 64 → r.getLsbD i =
        if t.toNat % 64 ≤ i ∧ i < t.toNat % 64 + t.toNat / 64 % 128 then b.getLsbD (i - t.toNat % 64) else a.getLsbD i

/-- R153, R151, R152: division never traps. It waits while an earlier division of the context is in progress; otherwise it issues,
cu.res awaits its result for 24 cycles, and the result is that of its row: a divisor of 0 gives all ones as a quotient and a as a
remainder. -/
def Clauses.CuDivisionsNeverTrapAndLandAfter24Cycles : Prop :=
  ∀ e ∈ ([(Instr.cuDivi, fun a t => if t = 0 then BitVec.allOnes 64 else BitVec.ofInt 64 (a.toInt.tdiv t.toInt)),
      (Instr.cuDivn, fun a t => if t = 0 then BitVec.allOnes 64 else BitVec.ofNat 64 (a.toNat / t.toNat)),
      (Instr.cuRemi, fun a t => if t = 0 then a else BitVec.ofInt 64 (a.toInt.tmod t.toInt)),
      (Instr.cuRemn, fun a t => if t = 0 then a else BitVec.ofNat 64 (a.toNat % t.toNat))]
      : List ((TOp → Instr) × (Word → Word → Word))),
    ∀ (o : TOp) (s : State) (a t : Word) (m : Mach), s.Moves o (.word t) m → m.CuReady → m.Holds .cuA (.word a) →
      (m.cycle < m.me.divUntil → exec (e.1 o) s = .next (s.held .stall))
      ∧ (m.me.divUntil ≤ m.cycle →
        let m1 := (m.taken [.cuA]).newId.2
        let tag := (m.taken [.cuA]).newId.1
        exec (e.1 o) s = .next (s.did ((m1.onMe fun x =>
            { x with divUntil := m1.cycle + 24, ports := { x.ports with cu := ⟨e.2 a t, 0, some tag⟩ } }).post
          (m1.cycle + 24) (.divisionComplete m1.issue.core m1.issue.ctx tag))))

/-- R151: at DIVISION_COMPLETE the quotient or remainder that cu.res awaits becomes readable; cu.res that awaits another trigger's
result keeps what it has. -/
def Clauses.DivisionCompleteMakesItsResultReadable : Prop :=
  ∀ (s : State) (c k tag : Nat), s.mach.out = [] → c < s.mach.cores.length → k < (s.mach.core c).ctxs.length →
    ∃ t, exec (.divisionComplete c k tag) s = .next t ∧ t.mem = s.mem
      ∧ (t.mach.ctx c k).ports.cu = (if (s.mach.ctx c k).ports.cu.tag = some tag then ⟨(s.mach.ctx c k).ports.cu.val, 0, none⟩
          else (s.mach.ctx c k).ports.cu)
      ∧ (t.mach.ctx c k).g = (s.mach.ctx c k).g ∧ (t.mach.ctx c k).p = (s.mach.ctx c k).p
      ∧ (t.mach.ctx c k).csw = (s.mach.ctx c k).csw ∧ (t.mach.ctx c k).pc = (s.mach.ctx c k).pc
      ∧ ∀ d j, (d ≠ c ∨ j ≠ k) → t.mach.ctx d j = s.mach.ctx d j

/-- R151 to R154: every integer trigger of cu leaves the result of its row in cu.res. -/
def Obligations.IntegerTriggersGiveTheirResults : Prop :=
  Clauses.IntegerTriggerCodes
  ∧ Clauses.CuTriggersOnLatchAGiveTheirResult
  ∧ Clauses.CuTriggersOnTAloneGiveTheirResult
  ∧ Clauses.CuZeroCountsAreExact
  ∧ Clauses.CuSelectAndInsertGiveTheirResult
  ∧ Clauses.CuDivisionsNeverTrapAndLandAfter24Cycles
  ∧ Clauses.DivisionCompleteMakesItsResultReadable

/-- R155: the triggers of ax have the codes 0x141 to 0x145 and ride bus 3, which also carries lu's. -/
def Clauses.AddressTriggersRideBus3 : Prop :=
  (∀ (i : Nat) (f : TOp → Instr), ([Instr.axAdd, .axSub, .axShl, .axLea, .axAnd] : List (TOp → Instr))[i]? = some f →
    trigOfCode (0x141 + i) = some f ∧ ∀ o, (f o).trigger = some (0x141 + i, o))
  ∧ (∀ d, 0x141 ≤ d → d ≤ 0x145 → ∀ slot, busCarries slot (unitOfCode d) = true ↔ slot = 3)
  ∧ (∀ d, 0x1C3 ≤ d → d ≤ 0x1DA → ∀ slot, busCarries slot (unitOfCode d) = true ↔ slot = 3)

/-- R155: each ax trigger takes latch a and T and leaves in ax.res the result of its row after 1 cycle. -/
def Clauses.AxTriggersGiveTheirResult : Prop :=
  ∀ e ∈ ([(Instr.axAdd, fun a t => a + t), (Instr.axSub, fun a t => a - t), (Instr.axShl, fun a t => a <<< (t.toNat % 64)),
      (Instr.axLea, fun a t =>
        ((a + ((t.setWidth 56).signExtend 64) <<< ((t.toNat / 2 ^ 56) % 8)).setWidth 48).setWidth 64),
      (Instr.axAnd, fun a t => a &&& t)] : List ((TOp → Instr) × (Word → Word → Word))),
    ∀ (o : TOp) (s : State) (a t : Word) (m : Mach), s.Moves o (.word t) m → m.Holds .axA (.word a) →
      exec (e.1 o) s = .next (s.did ((m.taken [.axA]).result .ax (e.2 a t) 1))

/-- R155: every trigger of ax leaves the result of its row in ax.res after 1 cycle. -/
def Obligations.AddressTriggersGiveTheirResults : Prop :=
  Clauses.AddressTriggersRideBus3
  ∧ Clauses.AxTriggersGiveTheirResult

/-- R156: cu.br goes to (bundle address + 16 × T) mod 2^48; cu.jmp, cu.call and cu.ret go to T, each after a bubble of two cycles,
and cu.call leaves the address of the next bundle in cu.lnk; a target of the last three whose bits 3:0 are not zero raises ALIGN at
the bundle. -/
def Clauses.BranchesGoToTheirTarget : Prop :=
  ∀ (o : TOp) (s : State) (t : Word) (m : Mach), s.Moves o (.word t) m → m.CuReady →
    exec (.cuBr o) s = .next (s.did { m with issue := { m.issue with next := some ((m.me.pc + 16 * t.toNat) % 2 ^ 48), bubble := 2 } })
    ∧ (t.toNat % 16 = 0 →
      exec (.cuJmp o) s = .next (s.did { m with issue := { m.issue with next := some t.toNat, bubble := 2 } })
      ∧ exec (.cuRet o) s = .next (s.did { m with issue := { m.issue with next := some t.toNat, bubble := 2 } })
      ∧ (let m' := m.result .lnk (BitVec.ofNat 64 ((m.me.pc + 16) % 2 ^ 48)) 1
         exec (.cuCall o) s = .next (s.did { m' with issue := { m'.issue with next := some t.toNat, bubble := 2 } })))
    ∧ (t.toNat % 16 ≠ 0 → ∀ f ∈ [Instr.cuJmp, Instr.cuCall, Instr.cuRet],
        ∃ tr : Trap, tr.cause = .align ∧ tr.addr = t ∧ exec (f o) s = .next (s.raised tr))

/-- R157: cu.loop with T = 0 (as n32) skips the L bundles of the body; otherwise it captures them as they stand in memory, keeps the
address of its own bundle, T as the number of runs and rc = 0, and the bundles run from the context's loop buffer; while a loop of the
context is active it raises NEST_DEPTH with detail code 2. That a loop that is skipped costs no fetch bubble is the model's choice (log 119). -/
def Clauses.CuLoopCapturesOrSkipsItsBody : Prop :=
  ∀ (o : TOp) (s : State) (t : Word) (m : Mach), s.Moves o (.word t) m → m.CuReady →
    let len := m.issue.ext.getD 0
    (m.me.loop.active = true → ∃ tr : Trap, tr.cause = .nestDepth ∧ tr.detail = 2 ∧ exec (.cuLoop o) s = .next (s.raised tr))
    ∧ (m.me.loop.active = false → t.toNat % 2 ^ 32 = 0 → exec (.cuLoop o) s =
        .next (s.did { m with issue := { m.issue with next := some ((m.me.pc + 16 * (len + 1)) % 2 ^ 48) } }))
    ∧ (m.me.loop.active = false → t.toNat % 2 ^ 32 ≠ 0 → ∀ body, fetchBody s.mem m m.issue.core m.me.priv (m.me.pc + 16) len = .ok body →
        exec (.cuLoop o) s = .next (s.did (m.onMe fun x => { x with loop := ⟨true, x.pc, len, t.toNat % 2 ^ 32, 0, body⟩ })))

/-- R157: replay of a loop: behind the last bundle of the body rc rises by one, and the context goes back to the first bundle of the
body while runs are left, or else on past the body with the loop no longer active; behind every other bundle it goes to the next. -/
def Clauses.LoopReplayCountsItsRuns : Prop :=
  ∀ x : Ctx, x.loop.active = true →
    (x.pc = (x.loop.addr + 16 * x.loop.len) % 2 ^ 48 → 1 < x.loop.left →
      x.advance = { x with pc := (x.loop.addr + 16) % 2 ^ 48, loop := { x.loop with left := x.loop.left - 1, rc := x.loop.rc + 1 } })
    ∧ (x.pc = (x.loop.addr + 16 * x.loop.len) % 2 ^ 48 → x.loop.left ≤ 1 →
      x.advance = { x with pc := (x.pc + 16) % 2 ^ 48, loop := { x.loop with active := false, left := 0, rc := x.loop.rc + 1 } })
    ∧ (x.pc ≠ (x.loop.addr + 16 * x.loop.len) % 2 ^ 48 → x.advance = { x with pc := (x.pc + 16) % 2 ^ 48 })

/-- R158: cu.rings with EN = 1 and a descriptor that is invalid (LEN = 0, BASE + LEN above 64, or a register shared with another
enabled range) disables range IDX and gives 0; any other write sets or disables the range and gives 1. -/
def Clauses.CuRingsSetsOrDisablesARange : Prop :=
  ∀ (o : TOp) (s : State) (t : Word) (m : Mach), s.Moves o (.word t) m → m.CuReady → m.me.ranges.length = 8 →
    let idx := t.toNat % 8
    let base := t.toNat / 2 ^ 8 % 64
    let len := t.toNat / 2 ^ 16 % 128
    let en := t.getLsbD 23
    let bad : Prop := en = true ∧ (len = 0 ∨ 64 < base + len
      ∨ ∃ j r, m.me.ranges[j]? = some r ∧ j ≠ idx ∧ r.en = true ∧ r.base < base + len ∧ base < r.base + r.len)
    (bad → exec (.cuRings o) s = .next (s.did
        ((m.onMe fun x => { x with ranges := modifyAt (fun _ => ⟨false, 0, 0⟩) idx x.ranges }).result .cu 0 1)))
    ∧ (¬ bad → exec (.cuRings o) s = .next (s.did
        ((m.onMe fun x => { x with ranges := modifyAt (fun _ => if en then ⟨true, base, len⟩ else ⟨false, 0, 0⟩) idx x.ranges }).result
          .cu 1 1)))

/-- R156 to R158: branches, calls, loops and rotating ranges change the flow of control as their rules give it. The model's own choices in it: logs 13, 119. -/
def Obligations.BranchesLoopsAndRingRanges : Prop :=
  Clauses.BranchesGoToTheirTarget
  ∧ Clauses.CuLoopCapturesOrSkipsItsBody
  ∧ Clauses.LoopReplayCountsItsRuns
  ∧ Clauses.CuRingsSetsOrDisablesARange

/-- R162, R313, R315: outside a handler cu.trap raises SYS: no move of the bundle takes effect, and the context enters its handler: TR_CAUSE
holds ACTIVE, the privilege before, the code 0x0E and T bits 15:0, TR_PC the address of the next bundle with no slot of it issued, every latch is empty,
with no scale in effect, every result port 0, the privilege is S and the pc TR_VEC of the partition; registers, flags and vector state are shared. -/
def Clauses.SystemCallEntersTheHandler : Prop :=
  ∀ (o : TOp) (s : State) (t : Word) (m : Mach), s.Moves o (.word t) m → m.CuReady →
    s.mach.issue.core < s.mach.cores.length → s.mach.issue.ctx < (s.mach.core s.mach.issue.core).ctxs.length →
    s.mach.me.trap.active = false → s.mach.me.loop.active = false → s.mach.out = [] →
    ∃ u, exec (.cuTrap o) s = .next u ∧ u.mem = s.mem
      ∧ u.mach.me.trap.active = true ∧ u.mach.me.trap.cause = 0x0E ∧ u.mach.me.trap.detail = t.toNat % 2 ^ 16
      ∧ u.mach.me.trap.priv = s.mach.me.priv ∧ u.mach.me.trap.hw = false ∧ u.mach.me.trap.slots = 0
      ∧ u.mach.me.trap.pc = (s.mach.me.pc + 16) % 2 ^ 48
      ∧ u.mach.me.bank.map (·.latch) = some s.mach.me.latch ∧ u.mach.me.bank.map (·.ports) = some s.mach.me.ports
      ∧ u.mach.me.bank.map (·.scales) = some s.mach.me.scales ∧ u.mach.me.scales = []
      ∧ u.mach.me.latch = List.replicate 24 ⟨none, false⟩ ∧ u.mach.me.ports = Ports.zero
      ∧ u.mach.me.priv = .s ∧ u.mach.me.pc = (s.mach.part (partOf s.mach.issue.core)).trVec / 16 * 16
      ∧ u.mach.me.g = s.mach.me.g ∧ u.mach.me.p = s.mach.me.p ∧ u.mach.me.v = s.mach.me.v ∧ u.mach.me.tl = s.mach.me.tl
      ∧ u.mach.me.csw = s.mach.me.csw
      ∧ ∀ d j, (d ≠ s.mach.issue.core ∨ j ≠ s.mach.issue.ctx) → u.mach.ctx d j = s.mach.ctx d j

/-- R162, R313, R315, R317: outside a handler cu.brk raises BREAK: with BRKFRZ = 0 the context enters its handler with the code 0x0F, T bits
15:0 as detail and TR_PC at the next bundle; with BRKFRZ = 1 it is frozen at the next bundle instead, and enters no handler. -/
def Clauses.BreakpointEntersTheHandlerOrFreezes : Prop :=
  ∀ (o : TOp) (s : State) (t : Word) (m : Mach), s.Moves o (.word t) m → m.CuReady →
    s.mach.issue.core < s.mach.cores.length → s.mach.issue.ctx < (s.mach.core s.mach.issue.core).ctxs.length →
    s.mach.me.trap.active = false → s.mach.me.loop.active = false →
    let p := s.mach.part (partOf s.mach.issue.core)
    ∃ u, exec (.cuBrk o) s = .next u ∧ u.mach.me.g = s.mach.me.g ∧ u.mach.me.p = s.mach.me.p
      ∧ (p.brkFrz = false → u.mach.me.trap.active = true ∧ u.mach.me.trap.cause = 0x0F ∧ u.mach.me.trap.detail = t.toNat % 2 ^ 16
          ∧ u.mach.me.trap.pc = (s.mach.me.pc + 16) % 2 ^ 48 ∧ u.mach.me.priv = .s ∧ u.mach.me.pc = p.trVec / 16 * 16)
      ∧ (p.brkFrz = true → u.mach.me.frozen = true ∧ u.mach.me.trap = s.mach.me.trap ∧ u.mach.me.priv = s.mach.me.priv
          ∧ u.mach.me.pc = (s.mach.me.pc + 16) % 2 ^ 48)

/-- R316: in a handler cu.tret restores the latches, with the scales in effect, and the result ports from the trap bank, gives back the privilege PRIV, ends the handling
and sends the context to TR_PC; with ACTIVE = 0 it has no effect. -/
def Clauses.ReturnFromTrapRestoresTheContext : Prop :=
  ∀ (o : TOp) (s : State) (t : Word) (m : Mach), s.Moves o (.word t) m → m.CuReady → m.me.priv ≠ .task →
    m.issue.core < m.cores.length → m.issue.ctx < (m.core m.issue.core).ctxs.length →
    (m.me.trap.active = false → exec (.cuTret o) s = .next (s.did m))
    ∧ (m.me.trap.active = true → ∀ b, m.me.bank = some b →
        ∃ u, exec (.cuTret o) s = .next u ∧ u.mach.me.latch = b.latch ∧ u.mach.me.ports = b.ports ∧ u.mach.me.loop = b.loop ∧ u.mach.me.scales = b.scales
          ∧ u.mach.me.priv = m.me.trap.priv ∧ u.mach.me.trap.active = false ∧ u.mach.me.bank = none
          ∧ u.mach.issue.next = some m.me.trap.pc ∧ u.mach.issue.bubble = 2
          ∧ u.mach.me.g = m.me.g ∧ u.mach.me.p = m.me.p ∧ u.mach.me.v = m.me.v ∧ u.mach.me.csw = m.me.csw)

/-- R162, R313, R315 to R317: a system call and a breakpoint enter the handler, and cu.tret restores what it saved. The model's own choices in it: log 71. -/
def Obligations.TrapsAreEnteredAndReturnedFrom : Prop :=
  Clauses.SystemCallEntersTheHandler
  ∧ Clauses.BreakpointEntersTheHandlerOrFreezes
  ∧ Clauses.ReturnFromTrapRestoresTheContext

/-! ## Privileged operations (spec/08_ops_control.md, spec/18_translation_faults.md) -/

/-- R173: each privileged port used below the privilege it names raises PROT with detail 1, and none of its effect happens. -/
def Clauses.PrivilegedTriggersRaiseProtBelowTheirPrivilege : Prop :=
  ∀ e ∈ ([(Instr.cuSysRd, .s), (Instr.cuSysWr, .s), (Instr.cuTret, .s), (Instr.cuTlbinv, .s), (Instr.cuFrz, .s), (Instr.cuThaw, .s),
      (Instr.cuPorterLd, .s), (Instr.cuTtLd, .s), (Instr.cuCloakOut, .f), (Instr.cuCloakIn, .f), (Instr.cuPreempt, .s),
      (Instr.cuHalt, .s)] : List ((TOp → Instr) × Priv)),
    ∀ (o : TOp) (s : State) (t : Word) (m : Mach), s.Moves o (.word t) m → m.me.priv.rank < e.2.rank →
      ∃ tr : Trap, tr.cause = .prot ∧ tr.detail = 1 ∧ exec (e.1 o) s = .next (s.raised tr)

/-- R316, R317: a PROT, and any trap raised while a handler runs, freezes the context: it enters no handler, its trap registers and its
privilege stay, and a fault record is sent to its partition. -/
def Clauses.ProtAndDoubleFaultsFreezeTheContext : Prop :=
  ∀ (m : Mach) (c k : Nat) (t : Trap), c < m.cores.length → k < (m.core c).ctxs.length →
    (t.cause = .prot ∨ (m.ctx c k).trap.active = true) →
    ((m.takeTrap c k t).ctx c k).frozen = true ∧ ((m.takeTrap c k t).ctx c k).trap = (m.ctx c k).trap
      ∧ ((m.takeTrap c k t).ctx c k).priv = (m.ctx c k).priv ∧ ((m.takeTrap c k t).ctx c k).pc = (m.ctx c k).pc
      ∧ ((m.takeTrap c k t).ctx c k).g = (m.ctx c k).g
      ∧ ∃ at_ rec, (at_, Event.faultRecordPerform (partOf c) rec) ∈ (m.takeTrap c k t).agenda
          ∧ rec.getD 0 0 = BitVec.ofNat 64 ((if (m.ctx c k).trap.active then 0x08 else 0x01) * 2 ^ 56 + t.cause.code * 2 ^ 48
              + t.detail % 2 ^ 16 * 2 ^ 32)

/-- R173, R316, R317: a privileged port used below its privilege raises PROT, and a PROT or a double fault freezes the context. The model's own choices in it: log 71. -/
def Obligations.PrivilegeIsCheckedAndProtFreezes : Prop :=
  Clauses.PrivilegedTriggersRaiseProtBelowTheirPrivilege
  ∧ Clauses.ProtAndDoubleFaultsFreezeTheContext

/-- R173, R175: sys.rd gives the register after 4 cycles, until which later cu triggers stall, and sys.wr writes it; a register whose access level is above the issuer's
privilege raises PROT, and one of the unassigned numbers reads as 0 and ignores a write. -/
def Clauses.PortsReachTheSystemRegisters : Prop :=
  ∀ (o : TOp) (s : State) (t : Word) (m : Mach), s.Moves o (.word t) m → m.CuReady → m.me.priv ≠ .task →
    (¬ m.me.priv.rank < (regLevel m.myPart t.toNat false).rank →
      exec (.cuSysRd o) s = .next (s.did (((m.afterRead t.toNat).result .cu (m.readReg m.issue.core m.issue.ctx t.toNat) 4).onMe
        fun x => { x with cuUntil := m.cycle + 4 })))
    ∧ (m.me.priv.rank < (regLevel m.myPart t.toNat false).rank →
      ∃ tr : Trap, tr.cause = .prot ∧ exec (.cuSysRd o) s = .next (s.raised tr))
    ∧ (∀ a, m.Holds .cuA (.word a) → m.issue.core < m.cores.length → m.issue.ctx < (m.core m.issue.core).ctxs.length →
      (¬ m.me.priv.rank < (regLevel m.myPart t.toNat true).rank →
        exec (.cuSysWr o) s = .next (s.did ((m.taken [.cuA]).writeReg s.mem m.issue.core m.issue.ctx t.toNat a)))
      ∧ (m.me.priv.rank < (regLevel m.myPart t.toNat true).rank →
        ∃ tr : Trap, tr.cause = .prot ∧ exec (.cuSysWr o) s = .next (s.raised tr)))
    ∧ (0x500 ≤ t.toNat → m.readReg m.issue.core m.issue.ctx t.toNat = 0
      ∧ ∀ m' : Mach, ∀ v, m'.writeReg s.mem m.issue.core m.issue.ctx t.toNat v = m')

/-- R314: the scratch registers TR_S0 to TR_S3 read as what was last written to them, and a write to one leaves the others. -/
def Clauses.ScratchRegistersHoldWhatIsWritten : Prop :=
  ∀ (mem : Memory) (m : Mach) (c k i j : Nat) (v : Word), c < m.cores.length → k < (m.core c).ctxs.length → i < 4 → j < 4 →
    (m.ctx c k).trap.scratch.length = 4 →
    (m.writeReg mem c k (4 + i) v).readReg c k (4 + j) = if j = i then v else m.readReg c k (4 + j)

/-- R58: a write of CSW by cu.csw sets FORCED and SCALE_OVF, clears each of bits 7:2 where it writes 1 and keeps it where it writes 0, and
leaves the reserved bits 0. -/
def Clauses.CswIsWrittenByItsAccessCodes : Prop :=
  ∀ (o : TOp) (s : State) (t : Word) (m : Mach), s.Moves o (.word t) m → m.CuReady →
    ∃ f : Word → Word, exec (.cuCsw o) s = .next (s.did (m.onMe fun x => { x with csw := f x.csw }))
      ∧ ∀ old : Word, ∀ i, i < 64 → (f old).getLsbD i =
        if 32 ≤ i then t.getLsbD i else if 2 ≤ i ∧ i < 8 then old.getLsbD i && !t.getLsbD i else false

/-- R5, R175, R309, R313, R318: SYSTEM_REGISTER_WRITE by a context with the privilege that the register needs writes the fields that its access
codes let it write, which it then reads back, reserved bits reading 0; below that privilege it changes nothing; the last clause, what such a
write does as an event, is the model's choice (log 76). -/
def Clauses.WrittenRegistersReadBack : Prop :=
  ∀ (s : State) (c k h : Nat) (v : Word), s.mach.Has c k → s.mach.out = [] → h < 8 → s.mach.parts.length = 8 →
    (s.mach.part h).ptEn.length = 3 →
    (∀ e ∈ ([(0x010, 0xFFFFFFFFFFFF), (0x018, 3), (0x020, 0xFFFFFFFFFFC0), (0x030, 0xFF0F87), (0x118, 0xFFFFFFFFFFFFFFC0),
        (0x120, 0xFFFFFFFFFE00), (0x300, 0x8000FFFFFFFFF000)] : List (Nat × Word)),
      ¬ (s.mach.ctx c k).priv.rank < (regLevel (partOf c) (e.1 + h) true).rank → (e.1 = 0x300 → 0 < (s.mach.part h).ptBase.length) →
      ∃ u, exec (.systemRegisterWrite c k (e.1 + h) v) s = .next u ∧ u.mem = s.mem ∧ u.mach.readReg c k (e.1 + h) = v &&& e.2
        ∧ u.mach.cores = s.mach.cores ∧ ∀ j, j ≠ h → u.mach.part j = s.mach.part j)
    ∧ (∀ n, (s.mach.ctx c k).priv.rank < (regLevel (partOf c) n true).rank → exec (.systemRegisterWrite c k n v) s = .next s)

/-- R5, R58, R173, R175, R309, R313, R314, R318: system registers, scratch registers and CSW read and write by their access codes. The model's own choices in it: logs 69, 70, 76. -/
def Obligations.SystemRegistersAreReadAndWritten : Prop :=
  Clauses.PortsReachTheSystemRegisters
  ∧ Clauses.ScratchRegistersHoldWhatIsWritten
  ∧ Clauses.CswIsWrittenByItsAccessCodes
  ∧ Clauses.WrittenRegistersReadBack

/-- R173, R174, R297, R317: cu.frz, cu.thaw and cu.preempt act on the master that T names, if its core lies in the issuer's partition, and
raise PROT with detail 2 if it does not; a context that holds a unit freezes and goes on again, a traverse queue and an fq port likewise,
and a pre-emption request stands on a context exactly if it holds a unit. -/
def Clauses.MastersAreFrozenThawedAndPreempted : Prop :=
  ∀ (o : TOp) (s : State) (t : Word) (m : Mach), s.Moves o (.word t) m → m.CuReady → m.me.priv ≠ .task →
    let c := t.toNat / 2 ^ 16 % 256
    let kind := t.toNat / 2 ^ 12 % 16
    let k := t.toNat % 8
    (¬ (c < 160 ∧ partOf c = partOf m.issue.core) → ∀ f ∈ [Instr.cuFrz, Instr.cuThaw, Instr.cuPreempt],
      ∃ tr : Trap, tr.cause = .prot ∧ tr.detail = 2 ∧ exec (f o) s = .next (s.raised tr))
    ∧ (c < 160 → partOf c = partOf m.issue.core → c < m.cores.length → k < (m.core c).ctxs.length →
      exec (.cuFrz o) s = .next (s.did (m.freeze ⟨c, kind, k⟩)) ∧ exec (.cuThaw o) s = .next (s.did (m.thaw ⟨c, kind, k⟩))
      ∧ exec (.cuPreempt o) s = .next (s.did (m.preempt ⟨c, kind, k⟩))
      ∧ ((m.ctx c k).unit.isSome = true → ((m.freeze ⟨c, 0, k⟩).ctx c k).frozen = true)
      ∧ ((m.thaw ⟨c, 0, k⟩).ctx c k).frozen = false
      ∧ ((m.freeze ⟨c, 1, k⟩).core c).jobsFrozen = true ∧ ((m.thaw ⟨c, 1, k⟩).core c).jobsFrozen = false
      ∧ ((m.freeze ⟨c, 2, k⟩).ctx c k).fqFrozen = true ∧ ((m.thaw ⟨c, 2, k⟩).ctx c k).fqFrozen = false
      ∧ ((m.preempt ⟨c, 0, k⟩).ctx c k).preempt = (m.ctx c k).unit.isSome)

/-- R173, R174, R303: cu.halt raises PROT for a core outside the issuer's partition, whatever the privilege, gives status 1 for an operand or
a KIND outside its limits, releases at once with status 0 for a = 1, and for a = 0 halts the core or the context, while the status waits
for HALT_COMPLETE. -/
def Clauses.HaltStopsAndReleases : Prop :=
  ∀ (o : TOp) (s : State) (t a : Word) (m : Mach), s.Moves o (.word t) m → m.CuReady → m.me.priv ≠ .task → m.Holds .cuA (.word a) →
    m.issue.core < m.cores.length → m.issue.ctx < (m.core m.issue.core).ctxs.length →
    let c := t.toNat / 2 ^ 16 % 256
    let kind := t.toNat / 2 ^ 12 % 16
    let k := t.toNat % 8
    let m1 := m.taken [.cuA]
    let mine : Prop := c < 160 ∧ partOf c = partOf m.issue.core
    (¬ mine → ∃ tr : Trap, tr.cause = .prot ∧ tr.detail = 2 ∧ exec (.cuHalt o) s = .next (s.raised tr))
    ∧ (mine → (1 < a.toNat ∨ (kind ≠ 0 ∧ kind ≠ 3)) → exec (.cuHalt o) s = .next (s.did (m1.result .cu 1 1)))
    ∧ (mine → a = 1 → kind = 0 → exec (.cuHalt o) s = .next (s.did ((m1.releaseCtx c k).result .cu 0 1)))
    ∧ (mine → a = 1 → kind = 3 → exec (.cuHalt o) s = .next (s.did ((m1.releaseCore c .order).result .cu 0 1)))
    ∧ (mine → a = 0 → (kind = 0 ∨ kind = 3) → c < m.cores.length → k < (m.core c).ctxs.length →
      ∃ u, exec (.cuHalt o) s = .next u ∧ u.mach.issue.out = .done
        ∧ u.mach.me.privOp = some (.halt c (if kind = 3 then none else some k)) ∧ u.mach.me.ports.cu.tag.isSome = true
        ∧ (kind = 3 → (u.mach.core c).halted = true ∧ (HaltCause.order ∈ (u.mach.core c).haltCauses)) ∧ (kind = 0 → (u.mach.ctx c k).halted = true))

/-- R303, R173: HALT_COMPLETE returns status 0 in cu.res once mx and tf of what was halted are quiescent, and not before. -/
def Clauses.HaltCompleteReturnsItsStatus : Prop :=
  ∀ (s : State) (core ctx c k : Nat), core < s.mach.cores.length → ctx < (s.mach.core core).ctxs.length → ctx ≠ 8 →
    (s.mach.ctx core ctx).privOp = some (.halt c (some k)) →
    (s.mach.ctxStill c k = true →
      exec (.haltComplete core ctx) s = .next (commit s (s.mach.privDone core ctx 0)))
    ∧ ((s.mach.ctx c k).halted = true → s.mach.ctxStill c k = false →
      ∃ u, exec (.haltComplete core ctx) s = .next u ∧ (u.mach.ctx core ctx).privOp = some (.halt c (some k)))
    ∧ ((s.mach.privDone core ctx 0).ctx core ctx).privOp = none

/-- R173, R174, R297, R303, R317: cu.frz, cu.thaw, cu.preempt and cu.halt act on the master that they name (log 108 for cu.halt at privilege F). The model's own choices in it: logs 58, 64, 75, 108. -/
def Obligations.MastersAreFrozenThawedPreemptedAndHalted : Prop :=
  Clauses.MastersAreFrozenThawedAndPreempted
  ∧ Clauses.HaltStopsAndReleases
  ∧ Clauses.HaltCompleteReturnsItsStatus

/-- R311, R173: cu.tlbinv of package scope below privilege F raises PROT; a scope above 2, or a page scope with an address of no translated
window, gives status 1; otherwise the invalidation begins, and TLBINV_COMPLETE, once the older stores of the context have performed,
removes every cached translation in scope and no other. -/
def Clauses.TlbInvalidationRemovesWhatIsInScope : Prop :=
  ∀ (o : TOp) (s : State) (t a : Word) (m : Mach), s.Moves o (.word t) m → m.CuReady → m.me.priv ≠ .task → m.Holds .cuA (.word a) →
    m.issue.core < m.cores.length → m.issue.ctx < (m.core m.issue.core).ctxs.length →
    (a = 2 → m.me.priv ≠ .f → ∃ tr : Trap, tr.cause = .prot ∧ exec (.cuTlbinv o) s = .next (s.raised tr))
    ∧ ((2 < a.toNat ∨ (a = 0 ∧ (windowOf t.toNat = .vault ∨ windowOf t.toNat = .unassigned))) →
      exec (.cuTlbinv o) s = .next (s.did ((m.taken [.cuA]).result .cu 1 1)))
    ∧ ((a = 2 → m.me.priv = .f) → a.toNat ≤ 2 → (a = 0 → windowOf t.toNat ≠ .vault ∧ windowOf t.toNat ≠ .unassigned) →
      ∃ u n, exec (.cuTlbinv o) s = .next u ∧ u.mach.issue.out = .done
        ∧ u.mach.me.privOp = some (.tlbinv n false a.toNat t.toNat []))
    ∧ (∀ n core ctx h scope addr, core < s.mach.cores.length → ctx < (s.mach.core core).ctxs.length → h = partOf core →
      (s.mach.ctx core ctx).privOp = some (.tlbinv n false scope addr []) → s.mach.storesDone core ctx n = true →
      ∃ u, exec (.tlbinvComplete core ctx) s = .next u
        ∧ ∀ c, c < s.mach.cores.length → ∀ e, e ∈ (u.mach.core c).tlb ↔ e ∈ (s.mach.core c).tlb ∧ e.inScope scope h addr = false)

/-- R285, R173: cu.porter.ld gives status 1 for an entry outside 24 to 31 and 0x11 for an image that does not stand aligned and wholly in
the vault or HBM window; an image that it can read gives 0x10 if it is bad and 0x12 if the entry is another partition's; otherwise the
entry is HELD until PORTER_LOAD_INSTALL, which installs the image once no request for the entry is under way. -/
def Clauses.HandlerReloadIsCheckedHeldAndInstalled : Prop :=
  ∀ (o : TOp) (s : State) (t a : Word) (m : Mach), s.Moves o (.word t) m → m.CuReady → m.me.priv ≠ .task → m.Holds .cuA (.word a) →
    let m1 := m.taken [.cuA]
    ((t.toNat < 24 ∨ 31 < t.toNat) → exec (.cuPorterLd o) s = .next (s.did (m1.result .cu 1 1)))
    ∧ (24 ≤ t.toNat → t.toNat ≤ 31 → imageStands a.toNat 32 32 = false →
      exec (.cuPorterLd o) s = .next (s.did (m1.result .cu 0x11 1)))
    ∧ (∀ bs cycles m2, 24 ≤ t.toNat → t.toNat ≤ 31 → imageStands a.toNat 32 32 = true → (m1.handler t.toNat).held = false →
      readImageAt s.mem m1 a 32 = .ok (bs, cycles, m2) →
      (badHandler (wordsOfBytes bs) = true → exec (.cuPorterLd o) s = .next (s.did (m2.result .cu 0x10 1)))
      ∧ (badHandler (wordsOfBytes bs) = false →
        m2.porterOwn.toNat / 2 ^ (3 * (t.toNat - 24)) % 8 ≠ m2.myPart → exec (.cuPorterLd o) s = .next (s.did (m2.result .cu 0x12 1)))
      ∧ (badHandler (wordsOfBytes bs) = false → m2.porterOwn.toNat / 2 ^ (3 * (t.toNat - 24)) % 8 = m2.myPart →
        m2.handlers.length = 8 →
        ∃ u, exec (.cuPorterLd o) s = .next u ∧ u.mach.issue.out = .done ∧ (u.mach.handler t.toNat).held = true))
    ∧ (∀ core ctx e ws, (s.mach.ctx core ctx).privOp = some (.porterLd e ws) →
      s.mach.net.any (·.names e) = false → s.mach.portHolds e = false → s.mach.foldUses e = false →
      exec (.porterLoadInstall core ctx) s = .next (commit s ((s.mach.install s.mem e ws).privDone core ctx 0)))

/-- R275, R173: cu.tt.ld gives status 1 for a plane above 3, 0x11 for an image that does not stand in the vault or HBM window, and for one
it can read the status of its table: 0 makes the table the pending one of the plane, and no other status changes a plane. -/
def Clauses.TimetableLoadSetsThePendingTable : Prop :=
  ∀ (o : TOp) (s : State) (t a : Word) (m : Mach), s.Moves o (.word t) m → m.CuReady → m.me.priv ≠ .task → m.Holds .cuA (.word a) →
    let m1 := m.taken [.cuA]
    (3 < a.toNat → exec (.cuTtLd o) s = .next (s.did (m1.result .cu 1 1)))
    ∧ (a.toNat ≤ 3 → imageStands t.toNat 64 64 = false → exec (.cuTtLd o) s = .next (s.did (m1.result .cu 0x11 1)))
    ∧ (∀ hd c1 m2 bs c2 m3 n, a.toNat ≤ 3 → imageStands t.toNat 64 64 = true → readImageAt s.mem m1 t 64 = .ok (hd, c1, m2) →
      n = natLE (hd.take 8) / 2 ^ 48 % 256 → 1 ≤ n → n ≤ 64 → imageStands t.toNat (64 + 48 * n) 64 = true →
      readImageAt s.mem m2 t (64 + 48 * n) = .ok (bs, c2, m3) →
      let r := m3.tableStatus a.toNat bs n
      (r.1 = 0 → exec (.cuTtLd o) s =
        .next (s.did ((m3.onPlane a.toNat fun pl => { pl with pending := some r.2 }).statusAfter 0 c2)))
      ∧ (r.1 ≠ 0 → exec (.cuTtLd o) s = .next (s.did (m3.statusAfter r.1 c2))))

/-- R173, R275, R285, R311: cu.tlbinv, cu.porter.ld and cu.tt.ld answer their statuses and have their effects. The model's own choices in it: logs 72, 73, 74. -/
def Obligations.TranslationsHandlersAndTablesAreLoaded : Prop :=
  Clauses.TlbInvalidationRemovesWhatIsInScope
  ∧ Clauses.HandlerReloadIsCheckedHeldAndInstalled
  ∧ Clauses.TimetableLoadSetsThePendingTable

/-- R305, R173, R304: cu.cloak.out and cu.cloak.in at privilege F answer status 1 for a T above 7, 2 for the issuer's own partition, 3 while
RUN is 1 or some core of the partition is not halted by KIND 3 or not still, then cloak.in 4 where bank 1 - RES holds no image and 5 where
SAVED is 0, and cloak.out 6 while a factor vector of the partition, in a context or a save, is pending; otherwise the operation begins and
ends 1,800 cycles later. CLOAK_OUT_COMPLETE writes into bank RES the whole state of the partition's cores and of its concierge, sets VALID
for that bank and SAVED, and returns 0 in cu.res. CLOAK_IN_COMPLETE gives the partition's cores back what bank 1 - RES holds, makes that
bank resident, clears SAVED, drops the cached translations and returns 0 in cu.res. The model's own choices in it: log 65. -/
def Obligations.CloakroomSavesAndRestoresAPartition : Prop :=
  (∀ (o : TOp) (s : State) (t : Word) (m : Mach), s.Moves o (.word t) m → m.CuReady → m.me.priv = .f →
    m.issue.core < m.cores.length → m.issue.ctx < (m.core m.issue.core).ctxs.length →
    ∀ load : Bool,
      let h := t.toNat
      let p := m.part h
      let e := if load then Instr.cuCloakIn o else Instr.cuCloakOut o
      let reports (n : Nat) : Prop := exec e s = .next (s.did (m.result .cu (BitVec.ofNat 64 n) 1))
      let busy : Prop := p.run = true ∨ ∃ c, c < 160 ∧ partOf c = h ∧ (HaltCause.order ∉ (m.core c).haltCauses ∨ m.coreStill c = false)
      let awaits (x : Ctx) : Prop := ∃ q ∈ x.fv, q.state = .pending
      let pending : Prop := (∃ c, c < 160 ∧ partOf c = h ∧ ∃ x ∈ (m.core c).ctxs, awaits x) ∨ ∃ v ∈ p.work.saves, awaits v.image
      let turned : Prop := if load then p.valid.getD (1 - p.res) false = false ∨ p.saved = false else pending
      (7 < h → reports 1)
      ∧ (h ≤ 7 → h = partOf m.issue.core → reports 2)
      ∧ (h ≤ 7 → h ≠ partOf m.issue.core → busy → reports 3)
      ∧ (h ≤ 7 → h ≠ partOf m.issue.core → ¬ busy →
        (load = true → p.valid.getD (1 - p.res) false = false → reports 4)
        ∧ (load = true → p.valid.getD (1 - p.res) false = true → p.saved = false → reports 5)
        ∧ (load = false → pending → reports 6)
        ∧ (¬ turned → ∃ u, exec e s = .next u ∧ u.mach.issue.out = .done
          ∧ u.mach.me.privOp = some (if load then .cloakIn h else .cloakOut h) ∧ u.mach.me.ports.cu.tag.isSome = true
          ∧ (m.cycle + 1800, if load then Event.cloakInComplete m.issue.core m.issue.ctx
              else Event.cloakOutComplete m.issue.core m.issue.ctx) ∈ u.mach.agenda)))
  ∧ (∀ (s : State) (core ctx h : Nat), s.mach.out = [] → s.mach.Has core ctx → partOf core ≠ h → h < 8 → h < s.mach.parts.length →
    (s.mach.ctx core ctx).privOp = some (.cloakOut h) → (s.mach.ctx core ctx).ports.cu.tag.isSome = true →
    s.mach.partSettled h = true → (s.mach.part h).images.length = 2 → (s.mach.part h).valid.length = 2 → (s.mach.part h).res < 2 →
    ∃ (u : State) (im : Image), exec (.cloakOutComplete core ctx) s = .next u ∧ u.mem = s.mem
      ∧ (u.mach.part h).images.getD (s.mach.part h).res none = some im
      ∧ im.cores.length = 20 ∧ (∀ (i c : Nat), (partCores h)[i]? = some c → im.cores[i]? = some (s.mach.core c))
      ∧ im.work = (s.mach.part h).work
      ∧ (u.mach.part h).valid.getD (s.mach.part h).res false = true ∧ (u.mach.part h).saved = true
      ∧ (u.mach.part h).res = (s.mach.part h).res
      ∧ (u.mach.ctx core ctx).privOp = none ∧ (u.mach.ctx core ctx).ports.cu = ⟨0, 0, none⟩
      ∧ ∀ c, partOf c = h → u.mach.core c = s.mach.core c)
  ∧ (∀ (s : State) (core ctx h : Nat) (im : Image), s.mach.out = [] → s.mach.Has core ctx → partOf core ≠ h → h < 8 →
    h < s.mach.parts.length → s.mach.cores.length = 160 →
    (s.mach.ctx core ctx).privOp = some (.cloakIn h) → (s.mach.ctx core ctx).ports.cu.tag.isSome = true →
    (s.mach.part h).images.getD (1 - (s.mach.part h).res) none = some im →
    (∀ c, partOf c = h → (s.mach.core c).retired = false) → im.cores.length = 20 →
    ∃ u, exec (.cloakInComplete core ctx) s = .next u
      ∧ (u.mach.part h).res = 1 - (s.mach.part h).res ∧ (u.mach.part h).saved = false
      ∧ (u.mach.ctx core ctx).privOp = none ∧ (u.mach.ctx core ctx).ports.cu = ⟨0, 0, none⟩
      ∧ (im.struck = [] → u.mem = s.mem ∧ (u.mach.part h).work.launches = im.work.launches ∧ (u.mach.part h).work.saves = im.work.saves
      ∧ (u.mach.part h).work.families = im.work.families
      ∧ ∀ (i c : Nat) (co : Core), (partCores h)[i]? = some c → im.cores[i]? = some co →
        (u.mach.core c).rings = co.rings ∧ (u.mach.core c).jobs = co.jobs ∧ (u.mach.core c).tlb = []
        ∧ (u.mach.core c).halted = (s.mach.core c).halted
        ∧ ∀ (k : Nat) (x : Ctx), co.ctxs[k]? = some x → k < (s.mach.core c).ctxs.length →
          let y := u.mach.ctx c k
          y.g = x.g ∧ y.p = x.p ∧ y.v = x.v ∧ y.vm = x.vm ∧ y.acc = x.acc ∧ y.fv = x.fv ∧ y.tl = x.tl ∧ y.latch = x.latch
            ∧ y.scales = x.scales ∧ y.ports = x.ports ∧ y.arms = x.arms ∧ y.loop = x.loop ∧ y.ranges = x.ranges ∧ y.csw = x.csw
            ∧ y.trap = x.trap ∧ y.brec = x.brec ∧ y.unit = x.unit ∧ y.pc = x.pc ∧ y.rx = x.rx ∧ y.tx = x.tx ∧ y.preempt = x.preempt))

/-! ## Vector operations (spec/09_ops_vector.md) -/

/-- R187, R176, R178: each integer trigger of the vu with TYPE 3 or 4 (SAT on the sums alone) computes lane k of its result from lane k of a
and b; 4 cycles later the lanes land in the register that d names, under the mask. -/
def Clauses.VuIntegerTriggersGiveTheirLanes : Prop :=
  ∀ e ∈ ([(Instr.vuIadd, fun ty sat a b => if sat then BitVec.ofInt 32 (if ty = 3 then max (-2147483648) (min 2147483647 (a.toInt + b.toInt))
          else max 0 (min 4294967295 ((a.toNat : Int) + b.toNat))) else a + b),
      (Instr.vuIsub, fun ty sat a b => if sat then BitVec.ofInt 32 (if ty = 3 then max (-2147483648) (min 2147483647 (a.toInt - b.toInt))
          else max 0 (min 4294967295 ((a.toNat : Int) - b.toNat))) else a - b),
      (Instr.vuImul, fun _ _ a b => a * b),
      (Instr.vuImulh, fun ty _ a b => if ty = 3 then BitVec.ofInt 32 (a.toInt * b.toInt / 2 ^ 32)
          else BitVec.ofNat 32 (a.toNat * b.toNat / 2 ^ 32)),
      (Instr.vuIand, fun _ _ a b => a &&& b), (Instr.vuIor, fun _ _ a b => a ||| b), (Instr.vuIxor, fun _ _ a b => a ^^^ b),
      (Instr.vuIshl, fun _ _ a b => a <<< (b.toNat % 32)), (Instr.vuIshr, fun _ _ a b => a >>> (b.toNat % 32)),
      (Instr.vuIsar, fun _ _ a b => a.sshiftRight (b.toNat % 32)),
      (Instr.vuImin, fun _ _ a b => if a.toInt ≤ b.toInt then a else b), (Instr.vuImax, fun _ _ a b => if a.toInt ≤ b.toInt then b else a),
      (Instr.vuNmin, fun _ _ a b => if a.toNat ≤ b.toNat then a else b), (Instr.vuNmax, fun _ _ a b => if a.toNat ≤ b.toNat then b else a)]
      : List ((TOp → Instr) × (Nat → Bool → Cell → Cell → Cell))),
    ∀ (o : TOp) (s : State) (t : Word) (m m1 : Mach) (a b : Val) (d : Nat) (mask : BitVec 256), s.Moves o (.word t) m →
      (t.toNat % 8 = 3 ∨ t.toNat % 8 = 4) →
      (t.getLsbD 5 = true → e.1 o = .vuIadd o ∨ e.1 o = .vuIsub o) → laneSource a = true → laneSource b = true →
      m.VuReady t [(.vuA, a), (.vuB, b), (.vuD, .ref .v d)] mask m1 →
      exec (e.1 o) s = .next (s.did (land m1 4 [.v d (maskLanes mask (t.getLsbD 4)
        (((m1.me.lanes a).zip (m1.me.lanes b)).map fun p => e.2 (t.toNat % 8) (t.getLsbD 5) p.1 p.2))]))

/-- R179, R181 to R184, R178: each floating trigger of the vu with TYPE 0, 1 or 2 computes each element of its result from the elements of
its sources, packed halves apart, rounded once to the element format; the lanes land 4 cycles later, or 8 for the special functions. -/
def Clauses.VuFloatingTriggersGiveTheirLanes : Prop :=
  (∀ e ∈ ([(Instr.vuFadd, Fl.add), (Instr.vuFsub, fun a b => a.add b.neg), (Instr.vuFmul, Fl.mul), (Instr.vuFmin, Fl.min),
      (Instr.vuFmax, Fl.max)] : List ((TOp → Instr) × (Fl → Fl → Fl))),
    ∀ (o : TOp) (s : State) (t : Word) (m m1 : Mach) (a b : Val) (d : Nat) (mask : BitVec 256), s.Moves o (.word t) m →
      t.toNat % 8 < 3 → laneSource a = true → laneSource b = true →
      m.VuReady t [(.vuA, a), (.vuB, b), (.vuD, .ref .v d)] mask m1 →
      let w := if t.toNat % 8 = 0 then 32 else 16
      let f := if t.toNat % 8 = 0 then f32 else if t.toNat % 8 = 1 then bf16 else f16
      exec (e.1 o) s = .next (s.did (land m1 4 [.v d (maskLanes mask (t.getLsbD 4) (((m1.me.lanes a).zip (m1.me.lanes b)).map fun p =>
        zipElems w (fun x y => f.encode (t.getLsbD 5) (e.2 (f.decode x) (f.decode y))) p.1 p.2))])))
  ∧ (∀ e ∈ ([(Instr.vuFabs, Fl.abs, true, 4), (Instr.vuFneg, Fl.neg, true, 4), (Instr.vuFexp2, fexp2, false, 8),
      (Instr.vuFlog2, flog2, false, 8), (Instr.vuFrcp, frcp, false, 8), (Instr.vuFrsqrt, frsqrt, false, 8)]
      : List ((TOp → Instr) × (Fl → Fl) × Bool × Nat)),
    ∀ (o : TOp) (s : State) (t : Word) (m m1 : Mach) (a : Val) (d : Nat) (mask : BitVec 256), s.Moves o (.word t) m →
      t.toNat % 8 < 3 → laneSource a = true → m.VuReady t [(.vuA, a), (.vuD, .ref .v d)] mask m1 →
      let w := if t.toNat % 8 = 0 then 32 else 16
      let f := if t.toNat % 8 = 0 then f32 else if t.toNat % 8 = 1 then bf16 else f16
      exec (e.1 o) s = .next (s.did (land m1 e.2.2.2 [.v d (maskLanes mask (t.getLsbD 4) ((m1.me.lanes a).map
        (mapElems w fun x => f.encode (e.2.2.1 && t.getLsbD 5) (e.2.1 (f.decode x)))))])))
  ∧ (∀ (o : TOp) (s : State) (t : Word) (m m1 : Mach) (a b : Val) (d : Nat) (mask : BitVec 256), s.Moves o (.word t) m →
      t.toNat % 8 < 3 → laneSource a = true → laneSource b = true →
      m.VuReady t [(.vuA, a), (.vuB, b), (.vuD, .ref .v d)] mask m1 →
      let w := if t.toNat % 8 = 0 then 32 else 16
      let f := if t.toNat % 8 = 0 then f32 else if t.toNat % 8 = 1 then bf16 else f16
      exec (.vuFfma o) s = .next (s.did (land m1 4 [.v d (maskLanes mask (t.getLsbD 4)
        (((m1.me.lanes a).zip ((m1.me.lanes b).zip (m1.me.vreg d))).map fun p => BitVec.ofNat 32 (packCell w
          (((cellElems w p.1).zip ((cellElems w p.2.1).zip (cellElems w p.2.2))).map fun q =>
            f.encode (t.getLsbD 5) (((f.decode q.1).mul (f.decode q.2.1)).add (f.decode q.2.2))))))])))

/-- R176, R178, R179, R181 to R184, R187: the arithmetic triggers of the vu compute their result lane by lane. -/
def Obligations.VuArithmeticGivesItsLanes : Prop :=
  Clauses.VuIntegerTriggersGiveTheirLanes
  ∧ Clauses.VuFloatingTriggersGiveTheirLanes

/-- R188, R176, R178: a compare sets bit k of the mask that d names where its test holds of the element POS of lane k, under MASK and ZERO;
the mask lands 4 cycles later. -/
def Clauses.VuComparesWriteTheirMask : Prop :=
  ∀ e ∈ ([(Instr.vuFeq, true, fun ty a b => ((floatOf ty).decode a).eq ((floatOf ty).decode b)),
      (Instr.vuFlt, true, fun ty a b => ((floatOf ty).decode a).lt ((floatOf ty).decode b)),
      (Instr.vuFle, true, fun ty a b => ((floatOf ty).decode a).le ((floatOf ty).decode b)),
      (Instr.vuIeq, false, fun _ a b => a == b),
      (Instr.vuIlt, false, fun _ a b => decide ((BitVec.ofNat 32 a).toInt < (BitVec.ofNat 32 b).toInt)),
      (Instr.vuNlt, false, fun _ a b => decide (a < b))] : List ((TOp → Instr) × Bool × (Nat → Nat → Nat → Bool))),
    ∀ (o : TOp) (s : State) (t : Word) (m m1 : Mach) (a b : Val) (d : Nat) (mask : BitVec 256), s.Moves o (.word t) m →
      (if e.2.1 then t.toNat % 8 < 3 else t.toNat % 8 = 3 ∨ t.toNat % 8 = 4) →
      t.toNat / 2 ^ 12 % 16 < (if t.toNat % 8 = 1 ∨ t.toNat % 8 = 2 then 2 else 1) → laneSource a = true → laneSource b = true →
      m.VuReady t [(.vuA, a), (.vuB, b), (.vuD, .ref .vm d)] mask m1 →
      let w := if t.toNat % 8 = 1 ∨ t.toNat % 8 = 2 then 16 else 32
      let elem (c : Cell) : Nat := (cellElems w c).getD (t.toNat / 2 ^ 12 % 16) 0
      let res := maskOf (((m1.me.lanes a).zip (m1.me.lanes b)).map fun p => e.2.2 (t.toNat % 8) (elem p.1) (elem p.2))
      let old : BitVec 256 := if t.getLsbD 4 then 0 else m1.me.vm.getD d 0
      exec (e.1 o) s = .next (s.did (land m1 4 [.vm d ((res &&& mask) ||| (old &&& ~~~mask))]))

/-- R189, R176, R178: vsel takes lane k of a or of b by bit k of the mask in vu.m; vbcast puts lane ARG mod 256 of a in every lane and in
vu.res; vperm takes lane b[k] mod 256 of a; vslide reads lane k + s of b, a and b in a row, s being ARG clamped to -256..256. -/
def Clauses.VuRearrangesLanes : Prop :=
  (∀ (o : TOp) (s : State) (t : Word) (m : Mach) (a b : Val) (j d : Nat), s.Moves o (.word t) m → t.getLsbD 3 = false →
    laneSource a = true → laneSource b = true → m.myCore.vuNext ≤ m.cycle →
    (∀ p ∈ [(Latch.vuA, a), (.vuB, b), (.vuM, .ref .vm j), (.vuD, .ref .v d)], m.Holds p.1 p.2 ∧ m.me.outstanding p.2 = false) →
    let m1 := m.taken [.vuA, .vuB, .vuM, .vuD]
    exec (.vuVsel o) s = .next (s.did (land m1 4 [.v d (maskLanes (BitVec.allOnes 256) (t.getLsbD 4)
      (((upFrom 0 256).zip ((m1.me.lanes a).zip (m1.me.lanes b))).map fun p =>
        if (m1.me.vm.getD j 0).getLsbD p.1 then p.2.1 else p.2.2))])))
  ∧ (∀ (o : TOp) (s : State) (t : Word) (m m1 : Mach) (a : Val) (d : Nat) (mask : BitVec 256), s.Moves o (.word t) m →
    laneSource a = true → m.VuReady t [(.vuA, a), (.vuD, .ref .v d)] mask m1 →
    let c := (m1.me.lanes a).getD (t.toNat / 2 ^ 32 % 256) 0
    exec (.vuVbcast o) s = .next (s.did (land m1 4 [.v d (maskLanes mask (t.getLsbD 4) (List.replicate 256 c)),
      .res (if t.toNat % 8 = 3 then c.signExtend 64 else c.setWidth 64)])))
  ∧ (∀ (o : TOp) (s : State) (t : Word) (m m1 : Mach) (a b : Val) (d : Nat) (mask : BitVec 256), s.Moves o (.word t) m →
    laneSource a = true → laneSource b = true → m.VuReady t [(.vuA, a), (.vuB, b), (.vuD, .ref .v d)] mask m1 →
    exec (.vuVperm o) s = .next (s.did (land m1 8 [.v d (maskLanes mask (t.getLsbD 4)
      ((m1.me.lanes b).map fun c => (m1.me.lanes a).getD (c.toNat % 256) 0))]))
    ∧ exec (.vuVslide o) s = .next (s.did (land m1 4 [.v d (maskLanes mask (t.getLsbD 4)
      (((m1.me.lanes b ++ m1.me.lanes a ++ m1.me.lanes b).drop
        (256 + max (-256) (min 256 (BitVec.ofNat 32 (t.toNat / 2 ^ 32)).toInt)).toNat).take 256))])))

/-- R176, R178, R188, R189: the compares of the vu write a mask, and vsel, vbcast, vperm and vslide rearrange lanes. -/
def Obligations.VuComparesAndRearrangesLanes : Prop :=
  Clauses.VuComparesWriteTheirMask
  ∧ Clauses.VuRearrangesLanes

/-- R190, R192, R176, R178: a reduction leaves in vu.res, 8 cycles later, the sum, maximum or minimum of every element of the lanes
selected, exact for the integer types and rounded once to f32 for the others; vcnt leaves the number of 1 bits. -/
def Clauses.VuReductionsGiveTheirScalar : Prop :=
  (∀ e ∈ ([(Instr.vuVrsum, sumAll, fun _ l => l.foldl (· + ·) 0),
      (Instr.vuVrmax, fun l => l.foldl Fl.max (.inf true), fun ty l => l.foldl max (if ty = 3 then -2147483648 else 0)),
      (Instr.vuVrmin, fun l => l.foldl Fl.min (.inf false), fun ty l => l.foldl min (if ty = 3 then 2147483647 else 4294967295))]
      : List ((TOp → Instr) × (List Fl → Fl) × (Nat → List Int → Int))),
    ∀ (o : TOp) (s : State) (t : Word) (m m1 : Mach) (a : Val) (mask : BitVec 256), s.Moves o (.word t) m → t.toNat % 8 < 5 →
      laneSource a = true → m.VuReady t [(.vuA, a)] mask m1 →
      let es := selected t mask (m1.me.lanes a)
      exec (e.1 o) s = .next (s.did (land m1 8 [.res (
        if t.toNat % 8 = 3 then BitVec.ofInt 64 (e.2.2 3 (es.map fun x => (BitVec.ofNat 32 x).toInt))
        else if t.toNat % 8 = 4 then BitVec.ofInt 64 (e.2.2 4 (es.map fun (x : Nat) => (x : Int)))
        else BitVec.ofNat 64 (f32.encode false (e.2.1 (es.map (floatOf (t.toNat % 8)).decode))))])))
  ∧ (∀ (o : TOp) (s : State) (t : Word) (m m1 : Mach) (j : Nat) (mask : BitVec 256), s.Moves o (.word t) m →
      m.VuReady t [(.vuA, .ref .vm j)] mask m1 →
      exec (.vuVcnt o) s = .next (s.did (land m1 4
        [.res (BitVec.ofNat 64 (popCount (m1.me.vm.getD j 0 &&& mask).toNat 256))])))

/-- R191, R193 to R195, R185, R186, R178: the other triggers of the vu complete: vscan runs its operator from lane 0 upward; fcvt converts
the elements of its group one by one, or under AUX the blocks of 32 against the scales in b, which GUARD writes back; vdq decodes the
superblock in lanes 0 to 43 of a and rounds each value to the element format; vquant quantises 256 elements into a superblock, against
the carried scales of b under AUX, with the counts in vu.res and in CSW; vldf and vstf copy 256 entries of a factor vector that is ready
and that no earlier tf command of the context has still to use. That vquant with TYPE 0 and vdq with SUB 0 ignore POS (logs 124, 125), and that
under GUARD the scales stand where d and b are one register (log 126), are the model's choices. -/
def Clauses.VuScanConvertAndFactorCopies : Prop :=
  (∀ (o : TOp) (s : State) (t : Word) (m m1 : Mach) (a : Val) (d : Nat) (mask : BitVec 256), s.Moves o (.word t) m →
    laneSource a = true → m.VuReady t [(.vuA, a), (.vuD, .ref .v d)] mask m1 →
    ((t.toNat % 8 = 0 ∨ t.toNat % 8 = 3 ∨ t.toNat % 8 = 4) → t.toNat / 2 ^ 8 % 16 < 3 →
      let out := scanLanes (scanOp t).1 mask 0 (scanOp t).2 (m1.me.lanes a)
      exec (.vuVscan o) s = .next (s.did (land m1 8 [.v d (maskLanes mask (t.getLsbD 4) out),
        .res (if t.toNat % 8 = 3 then (out.getLastD 0).signExtend 64 else (out.getLastD 0).setWidth 64)])))
    ∧ (cvtOk t = true → delayedCvt t = false →
      exec (.vuFcvt o) s = .next (s.did (land m1 4 [.v d (maskLanes mask (t.getLsbD 4)
        (cvtInto t (m1.me.vreg d) ((cvtSource t (m1.me.lanes a)).map (convertElem t))))])))
    ∧ (t.getLsbD 3 = false → t.toNat / 2 ^ 8 % 16 < 3 → (t.toNat / 2 ^ 8 % 16 = 0 ∨ t.toNat / 2 ^ 12 % 16 < 2) →
      let sub := t.toNat / 2 ^ 8 % 16
      let values := (superblockOf (((m1.me.lanes a).take 44).flatMap fun c => bytesLE 4 c.toNat)).decode
      let codes := values.1.map ((floatOf sub).encode false)
      let m2 := if values.2 then m1.onMe (·.raiseCsw cswEscOvr) else m1
      exec (.vuVdq o) s = .next (s.did (land m2 8 [.v d (maskLanes mask (t.getLsbD 4) (if sub = 0 then packLanes 32 codes
        else packLanes 16 (overwrite (unpack 16 (m1.me.vreg d)) codes (256 * (t.toNat / 2 ^ 12 % 16)))))])))
    ∧ (quantOk t = true → t.getLsbD 6 = false →
      let auto : Bool := t.toNat / 2 ^ 8 % 16 = 4
      let slow : Bool := auto || t.getLsbD 7
      let q := quantise (t.toNat / 2 ^ 32) (if auto then none else some (t.toNat / 2 ^ 8 % 16)) (quantSource t (m1.me.lanes a))
      let m2 := (m1.onMe fun x => if q.invalid then (x.countScales q.ovf q.unf).raiseCsw cswInvalid else x.countScales q.ovf q.unf).onMyCore
        fun co => { co with vuNext := m.cycle + if slow then 8 else 4 }
      exec (.vuVquant o) s = .next (s.did (land m2 (if slow then 28 else 20) [.v d (maskLanes mask (t.getLsbD 4)
          (((chunks 4 44 q.block.bytes).map fun b => BitVec.ofNat 32 (natLE b)) ++ List.replicate 212 0)),
        .res (BitVec.ofNat 64 (q.clipped * 256 + q.block.escn))]))))
  ∧ (∀ (o : TOp) (s : State) (t : Word) (m m1 : Mach) (a : Val) (b d : Nat) (mask : BitVec 256), s.Moves o (.word t) m →
    laneSource a = true → m.VuReady t [(.vuA, a), (.vuD, .ref .v d), (.vuB, .ref .v b)] mask m1 →
    (cvtOk t = true → delayedCvt t = true →
      let rs := delayedElems t (cvtSource t (m1.me.lanes a)) (m1.me.vreg b)
      let m2 := m1.onMe (·.countScales ((rs.map (·.2.2.1)).sum) (rs.any (·.2.2.2)))
      let scales : List (Option Cell) := rs.map fun r => some (BitVec.ofNat 32 r.2.1)
      exec (.vuFcvt o) s = .next (s.did (land m2 4
        (.v d (maskLanes mask (t.getLsbD 4) (cvtInto t (m1.me.vreg d) (rs.flatMap (·.1))))
          :: if t.getLsbD 7 then [.v b (scales ++ List.replicate (256 - scales.length) none)] else []))))
    ∧ (quantOk t = true → t.getLsbD 6 = true →
      let carried := superblockOf (((m1.me.vreg b).take 44).flatMap fun c => bytesLE 4 c.toNat)
      let q := quantiseDelayed (t.toNat / 2 ^ 32) (t.getLsbD 7) carried.s carried.bsc (quantSource t (m1.me.lanes a))
      let m2 := (m1.onMe fun x => if q.invalid then (x.countScales q.ovf q.unf).raiseCsw cswInvalid else x.countScales q.ovf q.unf).onMyCore
        fun co => { co with vuNext := m.cycle + if t.getLsbD 7 then 8 else 4 }
      exec (.vuVquant o) s = .next (s.did (land m2 (if t.getLsbD 7 then 28 else 20) [.v d (maskLanes mask (t.getLsbD 4)
          (((chunks 4 44 q.block.bytes).map fun b => BitVec.ofNat 32 (natLE b)) ++ List.replicate 212 0)),
        .res (BitVec.ofNat 64 (q.clipped * 256 + q.block.escn))]))))
  ∧ (∀ (o : TOp) (s : State) (t : Word) (m m1 : Mach) (a : Val) (i d : Nat) (mask : BitVec 256), s.Moves o (.word t) m →
    t.toNat / 2 ^ 12 % 16 < 2 → (m1.me.fv.getD i .zero).state = .ready →
    (∀ q ∈ m1.myCore.tf, q.ctx = m1.issue.ctx → q.ended = false → q.usesFv i = false) →
    (m.VuReady t [(.vuA, .ref .fv i), (.vuD, .ref .v d)] mask m1 →
      exec (.vuVldf o) s = .next (s.did (land m1 4 [.v d (maskLanes mask (t.getLsbD 4)
        (((m1.me.fv.getD i .zero).entries.map (·.setWidth 32)).drop (256 * (t.toNat / 2 ^ 12 % 16)) |>.take 256))])))
    ∧ (laneSource a = true → m.VuReady t [(.vuA, a), (.vuD, .ref .fv i)] mask m1 →
      let es := storeEntries (m1.me.fv.getD i .zero).entries (t.toNat / 2 ^ 12 % 16) (maskLanes mask (t.getLsbD 4) (m1.me.lanes a))
      let put (q : FactorVec) : FactorVec := { q with entries := es }
      let onto (x : Ctx) : Ctx := { x with fv := modifyAt put i x.fv }
      exec (.vuVstf o) s = .next (s.did (m1.onMe onto))))

/-- R176, R178, R185, R186, R190 to R195: reductions, scans, conversions and factor copies of the vu complete with their results. The model's own choices in it: logs 103, 124, 125, 126. -/
def Obligations.VuReductionsScansAndConversions : Prop :=
  Clauses.VuReductionsGiveTheirScalar
  ∧ Clauses.VuScanConvertAndFactorCopies

/-- R178, R176: VU_RESULT_LAND lands every result of its trigger together, in their order: each v register that a result names takes the lanes that
it writes, a masked-off lane keeping its value unless ZERO made it 0; each mask and factor vector takes what names it; and vu.res, be it set
aside in the trap bank, takes the scalar where it awaits this trigger. They leave the scoreboard, the other results of the context stay on their
way, and nothing else changes: of the context no latch, other port, register or special register, and no other context, core or byte. -/
def Obligations.VuResultsLandTogether : Prop :=
  ∀ (s : State) (c k tag : Nat), c < s.mach.cores.length → k < (s.mach.core c).ctxs.length → s.mach.out = [] →
    let x := s.mach.ctx c k
    let lands := x.landing.filter (·.tag == tag)
    let ports (p : Ports) : Ports :=
      match lands.filterMap (fun l => match l.dst with
        | .res w => some w
        | _ => none) with
      | w :: _ => if p.vu.tag = some tag then { p with vu := ⟨w, 0, none⟩ } else p
      | [] => p
    ∃ u, exec (.vuResultLand c k tag) s = .next u ∧ u.mem = s.mem
      ∧ (let y := u.mach.ctx c k
        y.v.length = x.v.length ∧ y.vm.length = x.vm.length ∧ y.fv.length = x.fv.length
        ∧ (∀ j, j < x.v.length → y.vreg j = lands.foldl (fun old l => match l.dst with
            | .v i lanes => if i = j then (old.zip lanes).map fun p => p.2.getD p.1 else old
            | _ => old) (x.vreg j))
        ∧ (∀ j, j < x.vm.length → y.vm.getD j 0 = lands.foldl (fun old l => match l.dst with
            | .vm i b => if i = j then b else old
            | _ => old) (x.vm.getD j 0))
        ∧ (∀ j, j < x.fv.length → (y.fv.getD j .zero).entries = lands.foldl (fun old l => match l.dst with
            | .fv i es => if i = j then es else old
            | _ => old) (x.fv.getD j .zero).entries)
        ∧ (∀ j, { (y.fv.getD j .zero) with entries := (x.fv.getD j .zero).entries } = x.fv.getD j .zero)
        ∧ y.ports = ports x.ports ∧ y.bank = x.bank.map (fun b => { b with ports := ports b.ports })
        ∧ y.landing = x.landing.filter (·.tag != tag) ∧ y.loads = x.loads.filter (·.tag != tag)
        ∧ { y with v := x.v, vm := x.vm, fv := x.fv, ports := x.ports, bank := x.bank, landing := x.landing, loads := x.loads } = x)
      ∧ (∀ d j, (d ≠ c ∨ j ≠ k) → u.mach.ctx d j = s.mach.ctx d j) ∧ (∀ d, d ≠ c → u.mach.core d = s.mach.core d)
      ∧ { (u.mach.core c) with ctxs := (s.mach.core c).ctxs } = s.mach.core c ∧ { u.mach with cores := s.mach.cores } = s.mach

/-! ## The matrix array (spec/10_ops_tile_matrix.md) -/

/-- R199, R201, R204, R205: a bload with room in the queue joins it with the segments of B, which are the 45056, 65536 or 131072 bytes at
its operand; the B record of buffer BUF becomes its format and address, and the buffer is the issuing context's; nothing else of the context
changes and no byte of memory is written. -/
def Clauses.MatrixLoadsJoinTheQueue : Prop :=
  ∀ e ∈ ([(Instr.mxBloadS4, .s4, 45056), (Instr.mxBloadE4, .e4, 65536), (Instr.mxBloadE5, .e5, 65536), (Instr.mxBloadI8, .i8, 65536),
      (Instr.mxBloadBf, .bf, 131072), (Instr.mxBloadH, .h, 131072)] : List ((TOp → Instr) × MxFmt × Nat)),
    ∀ (o : TOp) (s : State) (t : Word) (b : Val) (m m1 mr : Mach) (p : MemRef) (pages : List (List (Seg × Word))), s.Moves o (.word t) m → m.Placed →
      m.Holds .mxB b → isMem b = true → m1 = m.taken [.mxB] → memOperand m1 b e.2.2 true = .ok p → p.base % 16 = 0 →
      enginePages m1 false p.base e.2.2 [(p.base, e.2.2)] = .ok pages → m1.myCore.mxQueued m1.issue.ctx < 4 →
      useRing m1.newId.2 m1.newId.1 p true = .ok mr →
      let buf := t.toNat / 2 % 2
      ∃ m2 q, exec (e.1 o) s = .next (s.did m2) ∧ m1.Kept m2 m.issue.core m.issue.ctx
        ∧ m2.me = { m1.me with brec := modifyAt (fun _ => some ⟨e.2.1, p.base⟩) buf m1.me.brec }
        ∧ m2.myCore.mx = m1.myCore.mx ++ [q] ∧ q.bload = true ∧ q.ctx = m.issue.ctx ∧ q.fmt = e.2.1 ∧ q.buf = buf
        ∧ q.segs = pages.flatten.map (·.1) ∧ q.state = .queued
        ∧ m2.myCore.bufs = modifyAt (fun b => { b with owner := m1.asOwner }) buf m1.myCore.bufs

/-- R197, R198, R200, R202, R205, R91: an mma or spa whose operands are there and whose B record suits its row of R198 joins the queue with
the segments of A and of the metadata, the tile C with the slots R91 gives it, and the scales in effect; where another context owns the
buffer a reload of the recorded B goes first. -/
def Clauses.MatrixProductsJoinTheQueue : Prop :=
  ∀ e ∈ ([(Instr.mxMmaS4, .s4, false, 0x18E, fun M => 176 * M), (Instr.mxMmaE4, .e4, false, 0x18F, fun M => 256 * M),
      (Instr.mxMmaE5, .e5, false, 0x190, fun M => 256 * M), (Instr.mxMmaI8, .i8, false, 0x191, fun M => 256 * M),
      (Instr.mxMmaBf, .bf, false, 0x192, fun M => 512 * M), (Instr.mxMmaH, .h, false, 0x193, fun M => 512 * M),
      (Instr.mxSpaS4, .s4, true, 0x194, fun M => 176 * ((M + 1) / 2)), (Instr.mxSpaE4, .e4, true, 0x195, fun M => 128 * M),
      (Instr.mxSpaI8, .i8, true, 0x196, fun M => 128 * M)] : List ((TOp → Instr) × MxFmt × Bool × Nat × (Nat → Nat))),
    ∀ (o : TOp) (s : State) (t md : Word) (a : Val) (i : Nat) (m m1 mf : Mach) (fa fb : Option Val) (rec_ : BRec) (p : MemRef)
      (pages metaPages : List (Seg × Word)) (again : Option (List (Seg × Word))), s.Moves o (.word t) m → m.Placed →
      m.Holds .mxA a → isMem a = true → m.Holds .mxAcc (.ref .tl i) → (e.2.2.1 = true → m.Holds .mxMeta (.word md)) →
      (m.me.latchCell .mxArs).val = fa → (m.me.latchCell .mxBcs).val = fb →
      (∀ v, fa = some v ∨ fb = some v → isFactor v = true ∧ badFactor false v = false ∧ (factorWord v).toNat % 64 < m.me.fv.length) →
      (∀ l ∈ [Latch.mxSca, .mxScb], ∀ v, (m.me.latchCell l).val = some v → v.isWord = true) →
      m1 = m.taken ([.mxA, .mxAcc] ++ (if e.2.2.1 then [.mxMeta] else []) ++ [.mxArs, .mxBcs]) →
      let ars := fa.map fun v => factorOf (factorWord v)
      let bcs := fb.map fun v => factorOf (factorWord v)
      let tile := m.me.tl.getD i .unset
      let buf := t.toNat / 2 % 2
      let size := e.2.2.2.2 tile.rows
      let k := mmaCase (t.getLsbD 0) tile ars bcs
      (if e.2.1 = .i8 then tile.fmt = .i32 ∧ ars = none ∧ bcs = none else tile.fmt = .f32) →
      m1.me.brec.getD buf none = some rec_ → (rec_.fmt = e.2.1 ∨ (e.2.1 = .e4 ∧ rec_.fmt = .e5) ∨ (e.2.1 = .e5 ∧ rec_.fmt = .e4)) →
      memOperand m1 a size true = .ok p → mxPages m1 p.base size = .ok pages →
      (if e.2.2.1 then mxPages m1 md.toNat (32 * tile.rows) = .ok metaPages else metaPages = []) →
      reload m1 buf rec_ = .ok again → mmaFactors m1 ⟨i, tile⟩ k ars bcs = .ok mf → mf.myCore.mxQueued mf.issue.ctx < 4 →
      (∀ r, p.ring = some r → mf.myCore.banksFree mf.cycle mf.issue.ctx r.1.banks = true) →
      ∃ m2 q l, exec (e.1 o) s = .next (s.did m2) ∧ m2.out = m.out ∧ m2.myCore.mx = m1.myCore.mx ++ l ++ [q]
        ∧ (again = none → l = []) ∧ (∀ bs, again = some bs → ∃ b, l = [b] ∧ b.bload = true ∧ b.segs = bs.map (·.1) ∧ b.fmt = rec_.fmt ∧ b.buf = buf)
        ∧ q.bload = false ∧ q.fmt = e.2.1 ∧ q.sparse = e.2.2.1 ∧ q.buf = buf ∧ q.accum = t.getLsbD 0 ∧ q.tile = ⟨i, k.tile⟩
        ∧ q.segs = pages.map (·.1) ∧ q.metaSegs = metaPages.map (·.1) ∧ q.state = .queued
        ∧ (e.2.1 ≠ .i8 → q.sca = m1.me.effectiveScale false ∧ q.scb = m1.me.effectiveScale true)
        ∧ m2.me.acc = m.me.acc ∧ m2.me.fv = m.me.fv ∧ m2.me.g = m.me.g ∧ m2.me.v = m.me.v ∧ m2.me.p = m.me.p ∧ m2.me.pc = m.me.pc
        ∧ m2.me.tl = modifyAt (fun _ => k.tile) i mf.me.tl

/-- R91, R197 to R202, R204, R205: every bload, mma and spa trigger joins the mx queue with its operands. The model's own choices in it: logs 14, 40. -/
def Obligations.MatrixTriggersJoinTheQueue : Prop :=
  Clauses.MatrixLoadsJoinTheQueue
  ∧ Clauses.MatrixProductsJoinTheQueue

/-- R204, R262, R107, R201: BLOAD_START begins a queued bload once every earlier bload is complete and every earlier stream on its buffer
is over; when the last byte of B has been read, once the older stores to B have performed, a taken ring slot and the reservation are
released and the completion follows 256 cycles after the start at the earliest, 4 after the read; BLOAD_COMPLETE then puts the bytes of B
into the buffer and the command is gone. -/
def Clauses.MatrixLoadsFillTheirBuffer : Prop :=
  ∀ (s : State) (c id : Nat) (q : MxCmd), s.mach.out = [] → c < s.mach.cores.length → (s.mach.core c).mxCmd id = some q →
    (q.state = .queued → (∀ r ∈ (s.mach.core c).mx, r.id < q.id →
        (r.bload = false ∧ (r.buf = q.buf → r.launched = true ∧ r.start + r.occupancy ≤ s.mach.cycle))) →
      ∃ u, exec (.bloadStart c id) s = .next u ∧ u.mem = s.mem
        ∧ (u.mach.core c).mxCmd id = some { q with start := s.mach.cycle, state := .reading } ∧ (u.mach.core c).ctxs = (s.mach.core c).ctxs
        ∧ (s.mach.cycle + q.readAt, Event.bloadComplete c id) ∈ u.mach.agenda)
    ∧ (q.state = .reading → s.mach.operandsFree c q = true →
      ∃ u, exec (.bloadComplete c id) s = .next u ∧ u.mem = s.mem.writeAll (s.mach.settleBarriers s.mem (barrierKeys q.segs)).out
        ∧ (u.mach.core c).bufs = (s.mach.core c).bufs
        ∧ (u.mach.core c).mxCmd id = some { q with bData := (segKeys q.segs).map s.mem.read, state := .writing }
        ∧ (q.ring.isSome = true → ∀ r ∈ (u.mach.core c).resv, r.holder = q.id → r.released ≠ none)
        ∧ (max (q.start + 256) (s.mach.cycle + 4), Event.bloadComplete c id) ∈ u.mach.agenda
        ∧ (u.mach.core c).ctxs = (s.mach.core c).ctxs)
    ∧ (q.state = .writing → q.buf < (s.mach.core c).bufs.length →
      ∃ u, exec (.bloadComplete c id) s = .next u ∧ u.mem = s.mem ∧ (u.mach.core c).mxCmd id = none
        ∧ (u.mach.core c).bufs.getD q.buf ⟨none, .s4, []⟩ = ⟨((s.mach.core c).bufs.getD q.buf ⟨none, .s4, []⟩).owner, q.fmt, q.bData⟩
        ∧ (u.mach.core c).ctxs = (s.mach.core c).ctxs)

/-- R204: MMA_LAUNCH starts a stream once the one before it is over, its buffer loaded and its operands read, taking A, the metadata and B
as they then stand, after the rows of a forced resolve of C; A_READ_RETIREMENT ends the stream after its occupancy. -/
def Clauses.MatrixStreamsLaunchInOrder : Prop :=
  ∀ (s : State) (c id : Nat) (q : MxCmd), s.mach.out = [] → s.mach.Has c q.ctx → (s.mach.core c).mxCmd id = some q → q.bload = false →
    (q.state = .queued → (∀ r ∈ (s.mach.core c).mx, r.id < q.id →
        (if r.bload then r.buf ≠ q.buf else r.launched = true ∧ r.start + r.occupancy ≤ s.mach.cycle)) →
      q.readAt ≤ s.mach.cycle → s.mach.operandsFree c q = true →
      ∃ u, exec (.mmaLaunch c id) s = .next u ∧ u.mem = s.mem ∧ (u.mach.core c).mxCmd id = some { q with state := .reading }
        ∧ (s.mach.cycle + (match q.resolve with
          | some r => 8 + r.tile.rows
          | none => 0), Event.mmaLaunch c id) ∈ u.mach.agenda)
    ∧ (q.state = .reading → ∃ u, exec (.mmaLaunch c id) s = .next u
        ∧ u.mem = s.mem.writeAll (s.mach.settleBarriers s.mem (barrierKeys (q.segs ++ q.metaSegs))).out
        ∧ (u.mach.core c).mxCmd id = some { q with
            start := s.mach.cycle, state := .streaming, aData := (segKeys q.segs).map s.mem.read,
            metaData := (segKeys q.metaSegs).map s.mem.read, bData := ((s.mach.core c).bufs.getD q.buf ⟨none, .s4, []⟩).data,
            bFmt := ((s.mach.core c).bufs.getD q.buf ⟨none, .s4, []⟩).fmt }
        ∧ (u.mach.ctx c q.ctx) = (match q.resolve with
          | some r => (s.mach.ctx c q.ctx).resolveNoted r q.fvs
          | none => s.mach.ctx c q.ctx))
    ∧ (q.state = .streaming → q.start + q.occupancy ≤ s.mach.cycle → q.ring = none →
      ∃ u, exec (.aReadRetirement c id) s = .next u ∧ u.mem = s.mem ∧ (u.mach.core c).mxCmd id = some { q with state := .writing }
        ∧ u.mach.ctx c q.ctx = s.mach.ctx c q.ctx)

/-- R202, R204, R66, R67: MMA_ROW_WRITE writes the next row of C when its cycle has come: an i8 cell is C or 0 plus the exact sum of the
256 products of the bytes of A and B, modulo 2^32, and a floating cell the exact sum of C or 0 and its scaled products, rounded once; no
other row and no other column changes, and with the last row the command is over. -/
def Clauses.MatrixRowsHoldTheProducts : Prop :=
  ∀ (s : State) (c id : Nat) (q : MxCmd), s.mach.out = [] → s.mach.Has c q.ctx → (s.mach.core c).mxCmd id = some q → q.launched = true →
    q.row < q.tile.tile.rows → q.rowAt q.row ≤ s.mach.cycle →
    (q.row + 1 = q.tile.tile.rows ∨ s.mach.cycle < q.rowAt (q.row + 1)) →
    let x := s.mach.ctx c q.ctx
    let T := q.tile.tile
    let old := x.tileRow T q.row
    let col (j : Nat) : Nat := 4 * T.col0 + j
    ∃ (u : State) (cells : List Cell), exec (.mmaRowWrite c id) s = .next u ∧ u.mem = s.mem
      ∧ (u.mach.ctx c q.ctx).acc = modifyAt (fun row => overwrite row cells (4 * T.col0)) (T.row0 + q.row) x.acc
      ∧ (u.mach.ctx c q.ctx).g = x.g ∧ (u.mach.ctx c q.ctx).p = x.p ∧ (u.mach.ctx c q.ctx).v = x.v ∧ (u.mach.ctx c q.ctx).fv = x.fv
      ∧ (if q.row + 1 = T.rows then (u.mach.core c).mxCmd id = none
          else (u.mach.core c).mxCmd id = some { q with row := q.row + 1 })
      ∧ (T.rows + T.row0 ≤ x.acc.length → (∀ r ∈ x.acc, r.length = 256) → 4 * T.col0 + T.n ≤ 256 → cells.length = T.n)
      ∧ (q.fmt = .i8 → q.sparse = false → q.bFmt = .i8 → ∀ j, j < cells.length → cells.getD j 0 = (if q.accum then old.getD j 0 else 0)
          + BitVec.ofInt 32 (((upFrom 0 256).map fun k => (((q.aData.drop (256 * q.row)).take 256).getD k 0).toInt
              * (((q.bData.drop (256 * col j)).take 256).getD k 0).toInt).foldl (· + ·) 0))
      ∧ (q.fmt ≠ .i8 → ∀ j, j < cells.length → cells.getD j 0 = flCell ((if q.accum then cellFl (old.getD j 0) else .zero).add
          (sumAll (((q.aRow q.row).1.zip (q.bColumn (col j)).1).map fun p => ((q.scaleAt q.row j).mul p.1).mul p.2))))

/-- R66, R67, R107, R201, R202, R204, R262: mx commands load their buffer, launch in order and write rows that hold the products. The model's own choices in it: logs 4, 40, 42. -/
def Obligations.MatrixCommandsRun : Prop :=
  Clauses.MatrixLoadsFillTheirBuffer
  ∧ Clauses.MatrixStreamsLaunchInOrder
  ∧ Clauses.MatrixRowsHoldTheProducts

/-! ## The tile-and-factor unit (spec/10_ops_tile_matrix.md, spec/04_pending_factors.md) -/

/-- R88, R89, R209 to R211: an elementwise tile trigger whose tiles agree in shape and format joins the tf queue; where it commutes with the
slots of its operands the tile of d takes the slots R88 gives it, which are none for tzero and those of a for tcopy and tcvt; where it does
not, the occupied operands are resolved first, their slots are emptied and FORCED counts them. Nothing else of the context changes and no
byte of memory is written. -/
def Clauses.TileTriggersJoinTheQueue : Prop :=
  ∀ e ∈ ([(Instr.tfTzero, .tzero, [.tfD]), (Instr.tfTcopy, .tcopy, [.tfA, .tfD]), (Instr.tfTcvt, .tcvt, [.tfA, .tfD]),
      (Instr.tfTexp, .texp, [.tfA, .tfD]), (Instr.tfTexpw, .texpw, [.tfA, .tfD]), (Instr.tfTtrans, .ttrans, [.tfA, .tfD]),
      (Instr.tfTadd, .tadd, [.tfA, .tfB, .tfD]), (Instr.tfTsub, .tsub, [.tfA, .tfB, .tfD]), (Instr.tfTmul, .tmul, [.tfA, .tfB, .tfD]),
      (Instr.tfTmax, .tmax, [.tfA, .tfB, .tfD]), (Instr.tfTmin, .tmin, [.tfA, .tfB, .tfD])] : List ((TOp → Instr) × TfOp × List Latch)),
    ∀ (o : TOp) (s : State) (t : Word) (m m1 : Mach) (ia ib id_ : Nat), s.Moves o (.word t) m → m.Placed →
      (∀ p ∈ [(Latch.tfA, ia), (.tfB, ib), (.tfD, id_)], if p.1 ∈ e.2.2 then m.Holds p.1 (.ref .tl p.2) else p.2 = 0) →
      m1 = m.taken e.2.2 → m1.TfReady t →
      let tile (i : Nat) : Tile := m.me.tl.getD i .unset
      let a := tile ia
      let b := tile ib
      let d := tile id_
      e.2.1.suits t a b d = true → orderUnknown m1 e.2.1 ⟨ia, a⟩ = false →
      (∀ d', m1.me.commute e.2.1 a b d = some d' →
        (e.2.1 = .tzero → d' = d.bare) ∧ (e.2.1 = .tcopy ∨ e.2.1 = .tcvt → d' = d.slotsOf a)
        ∧ ∃ m2 q, exec (e.1 o) s = .next (s.did m2) ∧ m1.Kept m2 m.issue.core m.issue.ctx
          ∧ m2.me = { m1.me with tl := modifyAt (fun _ => d') id_ m1.me.tl } ∧ m2.myCore.tf = m1.myCore.tf ++ [q] ∧ q.op = e.2.1
          ∧ q.a = (if Latch.tfA ∈ e.2.2 then some ⟨ia, a⟩ else none) ∧ q.b = (if Latch.tfB ∈ e.2.2 then some ⟨ib, b⟩ else none)
          ∧ q.d = some ⟨id_, d'⟩ ∧ q.ctl = t ∧ q.resolves = [])
      ∧ ((a.occupied = false) → (Latch.tfB ∈ e.2.2 → b.occupied = false) → m1.me.commute e.2.1 a b d = some d.bare)
      ∧ (m1.me.commute e.2.1 a b d = none → e.2.1 ≠ .texpw →
        let res := toResolve ⟨ia, a⟩ (if Latch.tfB ∈ e.2.2 then some ⟨ib, b⟩ else none)
        awaitVectors m1 (res.flatMap (·.vectors)) = .ok () → ((m1.part m1.myPart).frTrap = false ∨ m1.me.passForced = true) →
        ∃ m2 q, exec (e.1 o) s = .next (s.did m2) ∧ m2.out = m.out ∧ m2.myCore.tf = m1.myCore.tf ++ [q] ∧ q.op = e.2.1 ∧ q.resolves = res
          ∧ m2.me.csw = addCsw m1.me.csw 48 res.length ∧ m2.me.acc = m.me.acc
          ∧ ∀ r ∈ res, r.index ≠ id_ → m2.me.tl.getD r.index .unset = r.tile.bare)

/-- R84, R88, R90, R95, R212: a slot trigger that commutes changes the slots of the tile of a: tsmul multiplies σ by c; tscr, tscc, tshr and
tshc fill the empty ρ, κ, β or γ with the factor of f, the shifts only under empty σ, ρ and κ; tdrop empties the slot that f names; resolve
empties them all once its vectors are ready and joins the queue with the tile as it stood. -/
def Clauses.SlotTriggersChangeTheFactorPart : Prop :=
  ∀ (o : TOp) (s : State) (t : Word) (m : Mach) (ia : Nat), s.Moves o (.word t) m → m.Placed → m.Holds .tfA (.ref .tl ia) →
    let a := m.me.tl.getD ia .unset
    let free : Prop := a.sigma = none ∧ a.rho = none ∧ a.kappa = none
    let sets (i : Instr) (m1 : Mach) (op : TfOp) (a' : Tile) : Prop := ∃ m2 q, exec i s = .next (s.did m2)
      ∧ m1.Kept m2 m.issue.core m.issue.ctx ∧ m2.me = { m1.me with tl := modifyAt (fun _ => a') ia m1.me.tl }
      ∧ m2.myCore.tf = m1.myCore.tf ++ [q] ∧ q.op = op ∧ q.a = some ⟨ia, if op = .resolve then a else a'⟩ ∧ q.resolves = []
    (∀ c : Word, m.Holds .tfB (.word c) → (m.taken [.tfA, .tfB]).TfReady t →
      sets (.tfTsmul o) (m.taken [.tfA, .tfB]) .tsmul { a with sigma := match a.sigma with
        | none => some (c.setWidth 32)
        | some v => some (flCell ((cellFl v).mul (cellFl (c.setWidth 32)))) })
    ∧ (∀ f : Val, m.Holds .tfF f → isFactor f = true → (factorWord f).toNat % 64 < m.me.fv.length →
      (factorWord f).toNat / 64 % 8 < 5 → (m.taken [.tfA, .tfF]).TfReady t →
      let fac := some (factorOf (factorWord f))
      (a.rho = none → sets (.tfTscr o) (m.taken [.tfA, .tfF]) .tscr { a with rho := fac })
      ∧ (a.kappa = none → sets (.tfTscc o) (m.taken [.tfA, .tfF]) .tscc { a with kappa := fac })
      ∧ (free → a.beta = none → sets (.tfTshr o) (m.taken [.tfA, .tfF]) .tshr { a with beta := fac })
      ∧ (free → a.gamma = none → sets (.tfTshc o) (m.taken [.tfA, .tfF]) .tshc { a with gamma := fac })
      ∧ ((factorWord f).toNat / 512 % 8 < 5 → sets (.tfTdrop o) (m.taken [.tfA, .tfF]) .tdrop
          (match (factorWord f).toNat / 512 % 8 with
          | 0 => { a with sigma := none }
          | 1 => { a with rho := none }
          | 2 => { a with kappa := none }
          | 3 => { a with beta := none }
          | _ => { a with gamma := none })))
    ∧ ((m.taken [.tfA]).TfReady t → awaitVectors (m.taken [.tfA]) (a.factors.map fun f => (f.fv, f.fv * 256 + ia)) = .ok () →
      sets (.tfResolve o) (m.taken [.tfA]) .resolve a.bare)

/-- R84, R88 to R90, R95, R209 to R212: elementwise tile triggers and slot triggers join the tf queue and change the factor part. The model's own choices in it: logs 14, 15, 41, 104. -/
def Obligations.TileAndSlotTriggersJoinTheQueue : Prop :=
  Clauses.TileTriggersJoinTheQueue
  ∧ Clauses.SlotTriggersChangeTheFactorPart

/-- R213, R214, R217: a reduction of a tile with no slot occupied (trmaxr and trsumr: of any tile), fvset and fvexp join the tf queue; with
CONTRIB, and for fvset and fvexp, tf.res awaits the command; a reduction without CONTRIB and fvset block on the vector while it is pending.
fvst joins with the 2048 bytes at the address in tf.b once the vector is ready. -/
def Clauses.ReductionsAndVectorTriggersJoinTheQueue : Prop :=
  ∀ (o : TOp) (s : State) (t : Word) (m : Mach), s.Moves o (.word t) m → m.Placed →
    let joins (i : Instr) (m1 : Mach) (ok : TfCmd → Prop) (await : Bool) : Prop := ∃ m2 q, exec i s = .next (s.did m2)
      ∧ m1.Kept m2 m.issue.core m.issue.ctx ∧ m2.myCore.tf = m1.myCore.tf ++ [q] ∧ ok q
      ∧ m2.me = (if await then { m1.me with ports := { m1.me.ports with tf := { m1.me.ports.tf with tag := some q.id } } } else m1.me)
    (∀ e ∈ ([(Instr.tfTrmax, .trmax, false), (Instr.tfTrsum, .trsum, false), (Instr.tfTcmax, .tcmax, false),
        (Instr.tfTcsum, .tcsum, false), (Instr.tfTrmaxr, .trmaxr, true), (Instr.tfTrsumr, .trsumr, true)]
        : List ((TOp → Instr) × TfOp × Bool)), ∀ (ia i : Nat), m.Holds .tfA (.ref .tl ia) → m.Holds .tfD (.ref .fv i) →
      let m1 := m.taken [.tfA, .tfD]
      let a := m.me.tl.getD ia .unset
      (t.getLsbD 3 = false → m1.fvState m.issue.core m.issue.ctx i = .pending → (e.2.2 = true ∨ a.occupied = false) →
        exec (e.1 o) s = .next (s.held (.block (.factor [i]))))
      ∧ (m1.TfReady t → (e.2.2 = true ∨ a.occupied = false) → m.me.outstanding (.ref .fv i) = false →
      (t.getLsbD 3 = true ∨ m1.fvState m.issue.core m.issue.ctx i ≠ .pending) →
      joins (e.1 o) m1 (fun q => q.op = e.2.1 ∧ q.a = some ⟨ia, a.bare⟩ ∧ q.fv = i ∧ q.resolves = [] ∧ q.ctl = t) (t.getLsbD 3)))
    ∧ (∀ e ∈ ([(Instr.tfFvset, .fvset), (Instr.tfFvexp, .fvexp)] : List ((TOp → Instr) × TfOp)), ∀ i, m.Holds .tfD (.ref .fv i) →
      let m1 := m.taken [.tfD]
      (e.2 = .fvset → t.toNat / 2 ^ 8 % 16 < 3 → m1.fvState m.issue.core m.issue.ctx i = .pending →
        exec (e.1 o) s = .next (s.held (.block (.factor [i]))))
      ∧ (m1.TfReady t → m.me.outstanding (.ref .fv i) = false →
      (e.2 = .fvset → t.toNat / 2 ^ 8 % 16 < 3 ∧ m1.fvState m.issue.core m.issue.ctx i ≠ .pending) →
      joins (e.1 o) m1 (fun q => q.op = e.2 ∧ q.fv = i ∧ q.ctl = t) true))
    ∧ (∀ (i : Nat) (b : Word) (pages : List (List (Seg × Word))), m.Holds .tfA (.ref .fv i) → m.Holds .tfB (.word b) →
      let m1 := m.taken [.tfA, .tfB]
      m1.TfReady t → b.toNat % 4 = 0 → enginePages m1 true b.toNat 2048 [(b.toNat, 2048)] = .ok pages →
      awaitVectors m1 [(i, i * 256 + 128)] = .ok () →
      joins (.tfFvst o) m1 (fun q => q.op = .fvst ∧ q.fv = i ∧ q.rows = pages.map (·.map (·.1))) false)

/-- R215, R216, R218: a tile load or store with a byte address joins the tf queue with one memory row per tile row, row i at base + i ×
stride, the stride being the row size where STRIDE is 0; a load empties every slot of d; tst and tquant resolve an occupied tile first, once
its vectors are ready, and FORCED counts it; tstr writes its raw cells with a sidecar; a base or stride that breaks the rule of its row
raises ALIGN. -/
def Clauses.TileLoadsAndStoresJoinTheQueue : Prop :=
  ∀ e ∈ ([(Instr.tfTld, .tld, true), (Instr.tfTdq, .tdq, true), (Instr.tfTst, .tst, false), (Instr.tfTstr, .tstr, false),
      (Instr.tfTquant, .tquant, false)] : List ((TOp → Instr) × TfOp × Bool)),
    ∀ (o : TOp) (s : State) (t b : Word) (m m1 : Mach) (i : Nat), s.Moves o (.word t) m → m.Placed → m.Holds .tfB (.word b) →
      m.Holds (if e.2.2 then .tfD else .tfA) (.ref .tl i) →
      m1 = m.taken (if e.2.2 then [.tfB, .tfD] else [.tfA, .tfB]) → e.2.1.ctlOk t = true → m1.TfReady t →
      let tile := m.me.tl.getD i .unset
      let quant : Prop := e.2.1 = .tdq ∨ e.2.1 = .tquant
      let size := if quant then (if t.toNat / 2 ^ 8 % 16 < 5 then 176 else tile.n)
        else if tile.fmt = .f16 ∨ tile.fmt = .bf16 then 2 * tile.n else 4 * tile.n
      let al := if quant then (if t.toNat / 2 ^ 8 % 16 < 5 then 16 else 1)
        else if tile.fmt = .f16 ∨ tile.fmt = .bf16 then 2 else 4
      let field := t.toNat / 2 ^ 12 % 2 ^ 20
      let stride := if field = 0 then size else field
      let side := (b.toNat + tile.rows * stride + 63) / 64 * 64
      let pieces := (upFrom 0 tile.rows).map fun r => (b.toNat + r * stride, size)
      (quant → tile.fmt ≠ .i32 ∧ (t.toNat / 2 ^ 8 % 16 < 5 → tile.n = 256)) →
      ((field ≠ 0 ∧ (field < size ∨ field % al ≠ 0)) ∨ b.toNat % al ≠ 0 → ∃ tr : Trap, tr.cause = .align ∧ exec (e.1 o) s = .next (s.raised tr))
      ∧ (∀ pages, (field = 0 ∨ (size ≤ field ∧ field % al = 0)) → b.toNat % al = 0 →
        enginePages m1 (!e.2.2) b.toNat (if e.2.1 = .tstr then side + 64 - b.toNat else (tile.rows - 1) * stride + size)
          (if e.2.1 = .tstr then pieces ++ [(side, 64)] else pieces) = .ok pages →
        let segs := pages.map (·.map (·.1))
        let res := if e.2.2 = true ∨ e.2.1 = .tstr ∨ tile.occupied = false then [] else [(⟨i, tile⟩ : TileRef)]
        (res ≠ [] → awaitVectors m1 (tile.factors.map fun f => (f.fv, f.fv * 256 + i)) = .ok ()
          ∧ ((m1.part m1.myPart).frTrap = false ∨ m1.me.passForced = true)) →
        ∃ m2 q, exec (e.1 o) s = .next (s.did m2) ∧ m1.Kept m2 m.issue.core m.issue.ctx ∧ m2.myCore.tf = m1.myCore.tf ++ [q]
          ∧ q.op = e.2.1 ∧ q.rows = segs.take tile.rows ∧ q.resolves = res ∧ q.ctl = t
          ∧ (if e.2.2 then q.d = some ⟨i, tile.bare⟩ else q.a = some ⟨i, tile.bare⟩)
          ∧ (e.2.1 = .tstr → q.side = (segKeys (segs.drop tile.rows).flatten).zip (bytesOfWords (sidecar m1.me tile)))
          ∧ m2.me = { m1.me with
              csw := if res = [] then m1.me.csw else addCsw m1.me.csw 48 1,
              tl := if e.2.2 = true ∨ res ≠ [] then modifyAt (fun _ => tile.bare) i m1.me.tl else m1.me.tl,
              ports := if e.2.1 = .tquant then { m1.me.ports with tf := { m1.me.ports.tf with tag := some q.id } } else m1.me.ports })

/-- R213 to R218: reductions, factor vector triggers and tile loads and stores join the tf queue. The model's own choices in it: logs 14, 15. -/
def Obligations.ReductionsVectorsAndTileMovesJoinTheQueue : Prop :=
  Clauses.ReductionsAndVectorTriggersJoinTheQueue
  ∧ Clauses.TileLoadsAndStoresJoinTheQueue

/-- R210, R211, R213, R215: TF_COMMAND_START starts the command at the head of the queue; TF_ROW_STEP takes the row step that is due: an
elementwise command writes row r of d cell by cell, each result exact and rounded once to the format of d, a reduction reads row r, a
tile store notes its bytes for Lm cycles later, and a row on its way performs, changing its own bytes of memory alone. -/
def Clauses.TileRowStepsActCellByCell : Prop :=
  ∀ (s : State) (c id : Nat) (q : TfCmd), s.Inv → s.mach.Has c q.ctx → (s.mach.core c).tfCmd id = some q → q.ended = false →
    let x := s.mach.ctx c q.ctx
    (q.started = false → (s.mach.core c).tfHead = some q → q.resolves = [] →
      ∃ u, exec (.tfCommandStart c id) s = .next u ∧ u.mem = s.mem
        ∧ (u.mach.core c).tfCmd id = some { q with started := true, start := s.mach.cycle, step := 0 } ∧ u.mach.ctx c q.ctx = x)
    ∧ (q.started = true → q.puts = [] → q.resolves = [] → (∀ r ∈ (s.mach.core c).mx, r.ctx = q.ctx → r.bload = true) →
        q.step < q.steps → q.start + 8 + q.step ≤ s.mach.cycle →
      (∀ e ∈ ([(.tadd, Fl.add, fun p r => p + r), (.tsub, fun v w => v.add w.neg, fun p r => p - r), (.tmul, Fl.mul, fun p r => p * r),
          (.tmax, Fl.max, fun p r => if p.toInt ≤ r.toInt then r else p), (.tmin, Fl.min, fun p r => if p.toInt ≤ r.toInt then p else r)]
          : List (TfOp × (Fl → Fl → Fl) × (Cell → Cell → Cell))), ∀ a b d, q.op = e.1 → q.a = some a → q.b = some b → q.d = some d →
        q.ctl.getLsbD 5 = false → ((a.tile.fmt = .f32 ∧ b.tile.fmt = .f32 ∧ d.tile.fmt = .f32) ∨ d.tile.fmt = .i32) →
        ∃ u, exec (.tfRowStep c id) s = .next u ∧ u.mem = s.mem ∧ (u.mach.ctx c q.ctx).acc = (x.setTileRow d.tile q.step
            (((x.tileRow a.tile q.step).zip (x.tileRow b.tile q.step)).map fun p =>
              if d.tile.fmt = .f32 then flCell (e.2.1 (cellFl p.1) (cellFl p.2)) else e.2.2 p.1 p.2)).acc
          ∧ (u.mach.ctx c q.ctx).g = x.g ∧ (u.mach.ctx c q.ctx).v = x.v ∧ (u.mach.ctx c q.ctx).fv = x.fv
          ∧ (u.mach.ctx c q.ctx).csw = x.csw ∧ (u.mach.ctx c q.ctx).pc = x.pc)
      ∧ (∀ e ∈ ([(.tcopy, fun _ p => p), (.tcvt, fun f p => flCell (f.value p)), (.texp, fun f p => flCell (fexp2 (f.value p))),
          (.texpw, fun f p => flCell (fexp2 (f.value p)))] : List (TfOp × (Fmt → Cell → Cell))), ∀ a d, q.op = e.1 → q.a = some a →
        q.b = none → q.d = some d → q.ctl.getLsbD 5 = false → d.tile.fmt = .f32 → (q.op = .tcopy → a.tile.fmt = .f32) →
        ∃ u, exec (.tfRowStep c id) s = .next u ∧ u.mem = s.mem
          ∧ (u.mach.ctx c q.ctx).acc = (x.setTileRow d.tile q.step ((x.tileRow a.tile q.step).map (e.2 a.tile.fmt))).acc)
      ∧ ((q.op = .trsum ∨ q.op = .trmax ∨ q.op = .tcsum ∨ q.op = .tcmax ∨ q.op = .trsumr ∨ q.op = .trmaxr) → ∀ a, q.a = some a →
        ∃ u q', exec (.tfRowStep c id) s = .next u ∧ u.mem = s.mem ∧ (u.mach.core c).tfCmd id = some q'
          ∧ q'.seen = q.seen ++ [x.tileRow a.tile q.step] ∧ (u.mach.ctx c q.ctx).acc = x.acc ∧ (u.mach.ctx c q.ctx).fv = x.fv)
      ∧ ((q.op = .tst ∨ q.op = .tstr) → q.side = [] → ∀ a, q.a = some a →
        ∃ u q', exec (.tfRowStep c id) s = .next u ∧ u.mem = s.mem ∧ (u.mach.core c).tfCmd id = some q'
          ∧ q'.puts = [⟨s.mach.cycle + q.lat, q.step, (q.rowKeys q.step).zip (storeRow a.tile.fmt (x.tileRow a.tile q.step)), []⟩]
          ∧ (u.mach.ctx c q.ctx).acc = x.acc))
    ∧ (∀ p, q.puts = [p] → p.due ≤ s.mach.cycle → q.steps ≤ q.step → q.phase = q.resolves.length →
      (p.mem ≠ [] → p.mem.any (fun b => isBarrierKey b.1) = false → s.mach.rowFree c q (p.mem.map (·.1)) = true →
        ∃ u, exec (.tfRowStep c id) s = .next u ∧ u.mem = s.mem.writeAll p.mem
          ∧ (∀ a, (∀ e ∈ p.mem, e.1 ≠ a) → u.mem.read a = s.mem.read a) ∧ (u.mach.ctx c q.ctx).acc = x.acc)
      ∧ (p.mem = [] → ∀ d, q.d = some d → ∃ u, exec (.tfRowStep c id) s = .next u ∧ u.mem = s.mem
          ∧ (u.mach.ctx c q.ctx).acc = (x.setTileRow d.tile p.idx p.cells).acc))

/-- R210, R213, R214, R217: TF_COMMAND_END ends the command; fvset makes the vector pending with n contributions to come and every entry the
identity of OP, or ready where n is 0; fvexp adds n to a pending vector, or reports NOT_PENDING or REMAIN_OVF and leaves it; a reduction
without CONTRIB writes its values and the vector is ready; tf.res of these carries the status. -/
def Clauses.TileCommandsEndWithTheirResult : Prop :=
  ∀ (s : State) (c id : Nat) (q : TfCmd), s.Inv → s.mach.Has c q.ctx → (s.mach.core c).tfCmd id = some q → q.ended = false → q.puts = [] →
    q.side = [] → (∀ r ∈ q.rows, r = []) → q.reserved = false →
    let x := s.mach.ctx c q.ctx
    let f := x.fv.getD q.fv .zero
    let n := q.ctl.toNat / 2 ^ 32 % 2 ^ 16
    let op := if q.ctl.toNat / 2 ^ 8 % 16 = 0 then FvOp.add else if q.ctl.toNat / 2 ^ 8 % 16 = 1 then FvOp.max else FvOp.min
    let ends (f' : FactorVec) (status : Option Nat) : Prop := ∃ u, exec (.tfCommandEnd c id) s = .next u ∧ u.mem = s.mem
      ∧ (u.mach.core c).tfCmd id = none ∧ (u.mach.core c).tfEnd = s.mach.cycle ∧ (u.mach.ctx c q.ctx).fv.getD q.fv .zero = f'
      ∧ (∀ i, i ≠ q.fv → (u.mach.ctx c q.ctx).fv.getD i .zero = x.fv.getD i .zero) ∧ (u.mach.ctx c q.ctx).acc = x.acc
      ∧ (u.mach.ctx c q.ctx).g = x.g ∧ (u.mach.ctx c q.ctx).csw = x.csw
      ∧ (∀ st, status = some st → (u.mach.ctx c q.ctx).ports.tf
          = if x.ports.tf.tag = some q.tag then ⟨word (st * 2 ^ 56 + q.clipped * 2 ^ 16 + q.escapes), 0, none⟩ else x.ports.tf)
    let there : Prop := q.fv < x.fv.length
    (q.op = .fvset → there → n = 0 → ends { f with state := .ready, nn := false, op := .add, remain := 0, vcause := 0 } (some 0))
    ∧ (q.op = .fvset → there → n ≠ 0 → ends ⟨.pending, q.ctl.getLsbD 4, op, n, 0, List.replicate 512 op.identity⟩ (some 0))
    ∧ (q.op = .fvexp → f.state ≠ .pending → ends f (some 0x20))
    ∧ (q.op = .fvexp → f.state = .pending → 65535 < f.remain + n → ends f (some 0x21))
    ∧ (q.op = .fvexp → f.state = .pending → f.remain + n ≤ 65535 → ends { f with remain := f.remain + n } (some 0))
    ∧ (q.op = .tquant → ends f (some 0))
    ∧ ((q.op = .trsum ∨ q.op = .trmax ∨ q.op = .trsumr ∨ q.op = .trmaxr) → q.ctl.getLsbD 3 = false → there → ∀ a, q.a = some a →
      let vals := q.seen.map (if q.op = .trsum ∨ q.op = .trsumr then sumCells a.tile.fmt else maxCells a.tile.fmt)
      ends { f with state := .ready, nn := false, op := .add, remain := 0, vcause := 0,
                    entries := vals.map (fun v => BitVec.ofNat 40 (f32.encode false v)) ++ f.entries.drop vals.length } none)
    ∧ ((q.op = .tadd ∨ q.op = .tcopy ∨ q.op = .tsmul ∨ q.op = .tdrop ∨ q.op = .resolve ∨ q.op = .tst) → ends f none)

/-- R210, R211, R213 to R215, R217: tf commands act row by row, cell by cell, and end with their result and status. The model's own choices in it: log 44. -/
def Obligations.TileCommandsRun : Prop :=
  Clauses.TileRowStepsActCellByCell
  ∧ Clauses.TileCommandsEndWithTheirResult

/-! ## Loads, stores and atomics (spec/11_ops_memory_engines.md, spec/06_ordering.md) -/

/-- R219 to R222, R100, R112: a load of a local address takes the bytes of its range, each from the youngest own store or from memory, and
after the figure of R104 its value is to arrive in lu.res, sign-extended for the s forms, or in the lanes of the register that d names,
lanes 0 to 3 for ldq; a load of the barrier area (which no host byte is one of) reads at the vault atomic unit when that figure is over
(R126); a host load joins the host channel; an address in no window raises XLATE with detail 3 and a misaligned one ALIGN. Beside the result and what the translation keeps nothing of the context changes. -/
def Clauses.LoadsTakeTheirBytesAndWait : Prop :=
  (∀ e ∈ ([(Instr.luLdb, 1, false), (Instr.luLdh, 2, false), (Instr.luLdw, 4, false), (Instr.luLdd, 8, false), (Instr.luLdsb, 1, true),
      (Instr.luLdsh, 2, true), (Instr.luLdsw, 4, true)] : List ((TOp → Instr) × Nat × Bool)),
    ∀ (o : TOp) (s : State) (t a : Word) (m m1 : Mach), s.Moves o (.word t) m → m.Placed → m.Holds .luA (.word a) → m1 = m.taken [.luA] →
      ((windowOf (a + t).toNat = .unassigned ∨ windowOf (a + t).toNat = .code) →
        ∃ tr : Trap, tr.cause = .xlate ∧ tr.detail = 3 ∧ tr.addr = a + t ∧ exec (e.1 o) s = .next (s.raised tr))
      ∧ (windowOf (a + t).toNat ≠ .unassigned → windowOf (a + t).toNat ≠ .code → (a + t).toNat % e.2.1 ≠ 0 →
        ∃ tr : Trap, tr.cause = .align ∧ tr.addr = a + t ∧ exec (e.1 o) s = .next (s.raised tr))
      ∧ (∀ acc m2, planAccess m1 (a + t) e.2.1 e.2.1 false = .ok (acc, m2) → m2.me.loads.length < 16 →
          m2.myCore.engineTouches m.issue.ctx acc.keys = false → m2.Placed → m2.issue = m.issue →
        (∀ bs, acc.isLocal = true → m2.me.fownHolds = false → acc.keys.any isBarrierKey = false →
            loadBytes s.mem m2 m2.me acc.keys = .ok bs →
          let v := if e.2.2 then sext (8 * bs.length) (natLE bs) else word (natLE bs)
          ∃ m3 tag, exec (e.1 o) s = .next (s.did m3) ∧ m2.Kept m3 m.issue.core m.issue.ctx
            ∧ m3.me = { m2.me with loads := m2.me.loads ++ [⟨tag, some v, acc.keys, e.2.1, e.2.2, false⟩]
                                   ports := { m2.me.ports with lu := { m2.me.ports.lu with tag := some tag } } }
            ∧ (m2.cycle + acc.cycles, Event.loadResultArrive m.issue.core m.issue.ctx tag v) ∈ m3.agenda)
        ∧ (acc.isLocal = true → m2.me.fownHolds = false → acc.keys.any isBarrierKey = true → m2.me.ownTouches acc.keys = false →
          ∃ m3 tag, exec (e.1 o) s = .next (s.did m3) ∧ m2.Kept m3 m.issue.core m.issue.ctx
            ∧ m3.me = { m2.me with loads := m2.me.loads ++ [⟨tag, none, acc.keys, e.2.1, e.2.2, false⟩]
                                   ports := { m2.me.ports with lu := { m2.me.ports.lu with tag := some tag } } }
            ∧ (m2.cycle + acc.cycles, Event.loadResultArrive m.issue.core m.issue.ctx tag 0) ∈ m3.agenda)
        ∧ (acc.isLocal = false → ∃ m3 q, exec (e.1 o) s = .next (s.did m3) ∧ m2.Kept m3 m.issue.core m.issue.ctx
            ∧ m3.host = m2.host ++ [q] ∧ q.load = true ∧ q.keys = acc.keys ∧ q.tag = some q.id ∧ q.signed = e.2.2
            ∧ m3.me.ports.lu.tag = some q.id)))
  ∧ (∀ e ∈ ([(Instr.luLdq, 16, 8), (Instr.luLdv, 1024, 16)] : List ((TOp → Instr) × Nat × Nat)),
    ∀ (o : TOp) (s : State) (t a : Word) (m m1 m2 : Mach) (d : Nat) (acc : Access), s.Moves o (.word t) m → m.Placed →
      m.Holds .luA (.word a) → m.Holds .luD (.ref .v d) → m1 = m.taken [.luA, .luD] →
      planAccess m1 (a + t) e.2.1 e.2.2 false = .ok (acc, m2) → m2.Placed → m2.issue = m.issue → m2.me.loads.length < 16 →
      m2.me.outstanding (.ref .v d) = false → m2.myCore.engineTouches m.issue.ctx acc.keys = false →
      (∀ bs, acc.isLocal = true → m2.me.fownHolds = false → acc.keys.any isBarrierKey = false →
          loadBytes s.mem m2 m2.me acc.keys = .ok bs →
        ∃ m3 tag, exec (e.1 o) s = .next (s.did m3) ∧ m2.Kept m3 m.issue.core m.issue.ctx
          ∧ m3.me = { m2.me with loads := m2.me.loads ++ [⟨tag, some 0, acc.keys, e.2.1, false, false⟩]
                                 landing := m2.me.landing ++ [⟨tag, .v d (lanesFrom bs)⟩] }
          ∧ (m2.cycle + acc.cycles + 4, Event.vuResultLand m.issue.core m.issue.ctx tag) ∈ m3.agenda)
      ∧ (acc.isLocal = true → m2.me.fownHolds = false → acc.keys.any isBarrierKey = true → m2.me.ownTouches acc.keys = false →
        ∃ m3 tag, exec (e.1 o) s = .next (s.did m3) ∧ m2.Kept m3 m.issue.core m.issue.ctx
          ∧ m3.me = { m2.me with loads := m2.me.loads ++ [⟨tag, none, acc.keys, e.2.1, false, false⟩]
                                 landing := m2.me.landing ++ [⟨tag, .v d (List.replicate 256 none)⟩] }
          ∧ (m2.cycle + acc.cycles, Event.loadResultArrive m.issue.core m.issue.ctx tag 0) ∈ m3.agenda)
      ∧ (acc.isLocal = false → acc.keys.any isBarrierKey = false → ∃ m3 q, exec (e.1 o) s = .next (s.did m3) ∧ m2.Kept m3 m.issue.core m.issue.ctx
          ∧ m3.host = m2.host ++ [q] ∧ q.load = true ∧ q.keys = acc.keys))

/-- R219 to R224, R110, R111, R130: a store joins the tail of its context's pending-store queue with the bytes of the low part of d, or of
the lanes of the register that d names, and an atomic with its fields; a host one joins the host channel. No byte of memory changes yet.
An atomic whose fields R223 and R224 do not allow raises ILLBUNDLE. -/
def Clauses.StoresAndAtomicsJoinTheirQueue : Prop :=
  (∀ e ∈ ([(Instr.luStb, 1), (Instr.luSth, 2), (Instr.luStw, 4), (Instr.luStd, 8)] : List ((TOp → Instr) × Nat)),
    ∀ (o : TOp) (s : State) (t a d : Word) (m m1 m2 : Mach) (acc : Access), s.Moves o (.word t) m → m.Placed → m.Holds .luA (.word a) →
      m.Holds .luD (.word d) → m1 = m.taken [.luA, .luD] → planAccess m1 (a + t) e.2 e.2 true = .ok (acc, m2) → m2.Placed →
      m2.issue = m.issue → m2.myCore.engineTouches m.issue.ctx acc.keys = false → acc.keys.length = e.2 →
      (acc.isLocal = true → m2.me.pend.length + m2.me.buffer.length < 16 →
        ∃ m3 q, exec (e.1 o) s = .next (s.did m3) ∧ m2.Kept m3 m.issue.core m.issue.ctx
          ∧ m3.me = { m2.me with pend := m2.me.pend ++ [q] } ∧ q.keys = acc.keys ∧ q.atomic = none
          ∧ q.pieces.flatten = acc.keys.zip (bytesLE e.2 d.toNat))
      ∧ (acc.isLocal = false → ∃ m3 q, exec (e.1 o) s = .next (s.did m3) ∧ m2.Kept m3 m.issue.core m.issue.ctx
          ∧ m3.me = m2.me ∧ m3.host = m2.host ++ [q] ∧ q.load = false ∧ q.pieces.flatten = acc.keys.zip (bytesLE e.2 d.toNat)))
  ∧ (∀ e ∈ ([(Instr.luStq, 16, 8), (Instr.luStv, 1024, 16)] : List ((TOp → Instr) × Nat × Nat)),
    ∀ (o : TOp) (s : State) (t a : Word) (m m1 m2 : Mach) (d : Nat) (acc : Access), s.Moves o (.word t) m → m.Placed →
      m.Holds .luA (.word a) → m.Holds .luD (.ref .v d) → m1 = m.taken [.luA, .luD] →
      planAccess m1 (a + t) e.2.1 e.2.2 true = .ok (acc, m2) → m2.Placed → m2.issue = m.issue → m2.me.outstanding (.ref .v d) = false →
      m2.myCore.engineTouches m.issue.ctx acc.keys = false → acc.isLocal = true → m2.me.pend.length + m2.me.buffer.length < 16 →
      acc.keys.length = e.2.1 → (m2.me.vreg d).length = 256 →
      ∃ m3 q, exec (e.1 o) s = .next (s.did m3) ∧ m2.Kept m3 m.issue.core m.issue.ctx
        ∧ m3.me = { m2.me with pend := m2.me.pend ++ [q] } ∧ q.keys = acc.keys
        ∧ q.pieces.flatten = acc.keys.zip ((laneBytes (m2.me.vreg d)).take e.2.1))
  ∧ (∀ e ∈ ([(Instr.luAmo, .amo, false), (Instr.luCas, .cas, true), (Instr.luFamo, .famo, false), (Instr.luRed, .red, false),
      (Instr.luHnd, .hnd, true)] : List ((TOp → Instr) × AtomKind × Bool)),
    ∀ (o : TOp) (s : State) (t a d b : Word) (m m1 : Mach), s.Moves o (.word t) m → m.Placed →
      ((atomicOf e.2.1 t 0 0).legal = false → ∃ tr : Trap, tr.cause = .illBundle ∧ exec (e.1 o) s = .next (s.raised tr))
      ∧ ((atomicOf e.2.1 t 0 0).legal = true → m.Holds .luA (.word a) → m.Holds .luD (.word d) →
        (if e.2.2 then m.Holds .luB (.word b) else b = 0) →
        m1 = m.taken (if e.2.2 then [.luA, .luD, .luB] else [.luA, .luD]) → (e.2.1 = .hnd → windowOf a.toNat = .hbm) →
        ∀ acc m2, planAccess m1 a (typeSize (t.toNat / 2 ^ 4 % 8)) (typeSize (t.toNat / 2 ^ 4 % 8)) true = .ok (acc, m2) → m2.Placed →
        m2.issue = m.issue → m2.me.loads.length < 16 → m2.me.pend.length + m2.me.buffer.length < 16 →
        m2.myCore.engineTouches m.issue.ctx acc.keys = false →
        let at_ := { atomicOf e.2.1 t d b with scope := widenScope m.issue.core a.toNat (t.toNat / 2 ^ 8 % 4) }
        ∃ m3, exec (e.1 o) s = .next (s.did m3) ∧ m2.Kept m3 m.issue.core m.issue.ctx
          ∧ (if acc.isLocal then ∃ q, m3.me.pend = m2.me.pend ++ [q] ∧ q.keys = acc.keys ∧ q.atomic = some at_ ∧ m3.host = m2.host
              ∧ (e.2.1 ≠ .red → ∃ tag, q.tag = some tag ∧ m3.me.ports.lu.tag = some tag) ∧ (e.2.1 = .red → q.tag = none)
            else ∃ q, m3.host = m2.host ++ [q] ∧ q.keys = acc.keys ∧ q.atomic = some at_ ∧ m3.me.pend = m2.me.pend)))

/-- R100, R110 to R112, R130, R219 to R224: loads take their bytes and wait; stores and atomics join the pending-store queue. The model's own choices in it: logs 12, 17, 22. -/
def Obligations.LoadsStoresAndAtomicsIssue : Prop :=
  Clauses.LoadsTakeTheirBytesAndWait
  ∧ Clauses.StoresAndAtomicsJoinTheirQueue

/-- R111, R112, R113, R131, R220: STORE_ENTER moves the oldest pending store to the tail of the store buffer; STORE_PERFORM writes the bytes
of one piece of the buffer's head and no other byte (one to the barrier area may complete a phase besides, R126); LOAD_RESULT_ARRIVE puts a
load's value into the lu.res that awaits it and retires the load, one of the barrier area with the bytes as they are then, after which the
unit checks completion (R126); CHANNEL_DELIVER performs a host store or load whose time has come and which nothing precedes. The model's own choices in it: logs 17, 22. -/
def Obligations.StoresPerformAndLoadsArrive : Prop :=
  ∀ (s : State) (c k : Nat), s.Inv → s.mach.Has c k →
    let x := s.mach.ctx c k
    (∀ e rest, x.pend = e :: rest → ∃ u, exec (.storeEnter c k) s = .next u ∧ u.mem = s.mem ∧ (u.mach.ctx c k).pend = rest
        ∧ (u.mach.ctx c k).buffer.map (·.seq) = (x.buffer ++ [e]).map (·.seq) ∧ (u.mach.ctx c k).g = x.g)
    ∧ (∀ e rest piece, x.buffer = e :: rest → e.sent = true → e.atomic = none → e.due ≤ s.mach.cycle → piece < e.pieces.length →
      (e.pieces.getD piece []).any (fun b => isBarrierKey b.1) = false →
      ∃ u, exec (.storePerform c k piece) s = .next u ∧ u.mem = s.mem.writeAll (e.pieces.getD piece [])
        ∧ (∀ a, (∀ b ∈ e.pieces.getD piece [], b.1 ≠ a) → u.mem.read a = s.mem.read a)
        ∧ (u.mach.ctx c k).g = x.g ∧ (u.mach.ctx c k).v = x.v ∧ (u.mach.ctx c k).acc = x.acc ∧ (u.mach.ctx c k).pend = x.pend
        ∧ ((modifyAt (fun _ => []) piece e.pieces).all (·.isEmpty) = true → (u.mach.ctx c k).buffer.length = rest.length)
        ∧ ((modifyAt (fun _ => []) piece e.pieces).all (·.isEmpty) = false → (u.mach.ctx c k).buffer.length = rest.length + 1))
    ∧ (∀ tag (w : Word) l, x.loads.find? (·.tag == tag) = some l → x.ports.lu.tag = some tag → (l.val = some w ∨ (l.val = none ∧ l.keys = [])) →
      ∃ u, exec (.loadResultArrive c k tag w) s = .next u ∧ u.mem = s.mem ∧ (u.mach.ctx c k).ports.lu = ⟨w, 0, none⟩
        ∧ (u.mach.ctx c k).loads = x.loads.filter (·.tag != tag) ∧ (u.mach.ctx c k).g = x.g ∧ (u.mach.ctx c k).pend = x.pend)
    ∧ (∀ tag l, x.loads.find? (·.tag == tag) = some l → x.ports.lu.tag = some tag → l.val = none → l.keys ≠ [] → l.signed = false →
      x.landing.any (·.tag == tag) = false →
      ∃ u, exec (.loadResultArrive c k tag 0) s = .next u ∧ u.mem = s.mem.writeAll (s.mach.settleBarriers s.mem l.keys).out
        ∧ (l.keys.any isBarrierKey = false → u.mem = s.mem)
        ∧ (u.mach.ctx c k).ports.lu = ⟨word (natLE (l.keys.map s.mem.read)), 0, none⟩ ∧ (u.mach.ctx c k).loads = x.loads.filter (·.tag != tag))
    ∧ (∀ id q, s.mach.host.find? (·.id == id) = some q → q.core = c → q.ctx = k → q.due ≤ s.mach.cycle → s.mach.hostWaits q = false →
      s.mach.boot.modules ≠ 0 → q.atomic = none →
      (q.load = false → q.tag = none → ∃ u, exec (.channelDeliver id) s = .next u ∧ u.mem = s.mem.writeAll q.pieces.flatten
        ∧ (∀ a, (∀ b ∈ q.pieces.flatten, b.1 ≠ a) → u.mem.read a = s.mem.read a) ∧ u.mach.host.find? (·.id == id) = none)
      ∧ (q.load = true → q.land = none → ∀ tag, q.tag = some tag → x.ports.lu.tag = some tag → q.signed = false →
        ∃ u, exec (.channelDeliver id) s = .next u ∧ u.mem = s.mem
          ∧ (u.mach.ctx c k).ports.lu = ⟨word (natLE (q.keys.map s.mem.read)), 0, none⟩))

/-- R118, R122, R123, R224, R266: an atomic performs at its home as one read and write: a stand-alone exchange, add, and, or, exclusive or,
maximum or minimum of an integer type leaves its result in its own bytes and no other and returns the old value; a cas writes only where the
word equals b; a combination of two unsigned adds leaves the sum of both and answers each with its prefix. ROUTER_COMBINE pairs the first
two requests that agree, lower port first; ROUTER_WAIT_TIMEOUT sends a request on alone after 8 cycles. The model's own choices in it: log 26. -/
def Obligations.AtomicsPerformAndCombineAtTheirHome : Prop :=
  (∀ (s : State) (c k : Nat) (e : StoreEntry) (rest : List StoreEntry) (r : NetReq), s.Inv → s.mach.Has c k →
    (s.mach.ctx c k).buffer = e :: rest → e.sent = true → e.atomic.isSome = true →
    (s.mach.atHome fun r => match r.combo.first with
      | .lu c' k' _ _ => c' == c && k' == k
      | _ => false) = some r →
    s.mach.net.any (·.before r s.mach.cycle) = false → s.mach.mayPerform r = true → r.at_.type < 4 → r.at_.sat = false →
    (upFrom r.key (typeSize r.at_.type)).any isBarrierKey = false →
    let n := typeSize r.at_.type
    let keys := upFrom r.key n
    let v := typeExtend r.at_.type (word (natLE (keys.map s.mem.read)))
    (∀ u0 tag d back, r.combo = .leaf (.lu c k u0 tag) d back → tag ≠ 0 →
      (∀ f ∈ ([(0, fun _ d => d), (1, fun v d => v + d), (2, fun v d => v &&& d), (3, fun v d => v ||| d), (4, fun v d => v ^^^ d),
          (5, maxBy (typeSigned r.at_.type)), (6, minBy (typeSigned r.at_.type))] : List (Nat × (Word → Word → Word))),
        (r.at_.kind = .amo ∨ r.at_.kind = .famo ∨ r.at_.kind = .red) → r.at_.aop = f.1 →
        ∃ u, exec (.storePerform c k 0) s = .next u ∧ keys.map u.mem.read = bytesLE n (f.2 v d).toNat
          ∧ (∀ a, (a < r.key ∨ r.key + n ≤ a) → u.mem.read a = s.mem.read a)
          ∧ (s.mach.cycle + back, Event.loadResultArrive c k tag v) ∈ u.mach.agenda)
      ∧ (r.at_.kind = .cas → ∃ u, exec (.storePerform c k 0) s = .next u
          ∧ keys.map u.mem.read = (if v = typeExtend r.at_.type r.at_.b then bytesLE n d.toNat else keys.map s.mem.read)
          ∧ (∀ a, (a < r.key ∨ r.key + n ≤ a) → u.mem.read a = s.mem.read a)
          ∧ (s.mach.cycle + back, Event.loadResultArrive c k tag v) ∈ u.mach.agenda))
    ∧ (∀ u1 t1 d1 b1 c2 k2 u2 t2 d2 b2, r.combo = .pair (.leaf (.lu c k u1 t1) d1 b1) (.leaf (.lu c2 k2 u2 t2) d2 b2) →
        t1 ≠ 0 → t2 ≠ 0 → r.at_.kind = .famo → r.at_.aop = 1 → r.at_.type = 1 →
        ∃ u, exec (.storePerform c k 0) s = .next u ∧ keys.map u.mem.read = bytesLE 4 (v.toNat + d1.toNat + d2.toNat)
          ∧ (∀ a, (a < r.key ∨ r.key + 4 ≤ a) → u.mem.read a = s.mem.read a)
          ∧ (s.mach.cycle + b1, Event.loadResultArrive c k t1 v) ∈ u.mach.agenda
          ∧ (s.mach.cycle + b2, Event.loadResultArrive c2 k2 t2 (word ((v.toNat + d1.toNat) % 2 ^ 32))) ∈ u.mach.agenda))
  ∧ (∀ (s : State) (router : Nat) (r q : NetReq), s.mach.out = [] → s.mach.listedAt router = [r, q] → agree r q = true →
      ∃ u, exec (.routerCombine router) s = .next u ∧ u.mem = s.mem ∧ ∃ x ∈ u.mach.net, x.key = r.key
        ∧ x.combo = (if (q.path.headD (0, 0)).2 < (r.path.headD (0, 0)).2 then .pair q.combo r.combo else .pair r.combo q.combo))
  ∧ (∀ (s : State) (router id : Nat) (r : NetReq) (p : Nat × Nat) (rest : List (Nat × Nat)), s.mach.out = [] →
      (s.mach.net.find? fun r => r.id == id && r.due.isNone && (r.path.headD (0, 0)).1 == router) = some r →
      r.entered + 8 ≤ s.mach.cycle → r.path.drop 1 = p :: rest →
      ∃ u, exec (.routerWaitTimeout router id) s = .next u ∧ u.mem = s.mem
        ∧ { r with path := p :: rest, entered := s.mach.cycle + 2 } ∈ u.mach.net)

/-- R15, R115 to R117, R225 to R227, R310: lu.fown holds later local loads back behind the stores issued so far; lu.ffar names the store buffers
of the core and contexts in T, raises PROT for a core outside the partition, serialises once the issuer's older stores have performed and
completes once every entry it fixed has; lu.drain and lu.ffar hold the later bundles of their context back, which blocks while their condition
does not hold and is ready when it does; lu.pf
allocates the line of a translated HBM address and drops an address that would fault; PAGE_WALK_COMPLETE caches the translation it finds. That a walk which ends in a fault is remembered for what
waits for it, and that lu.pf leaves none of its context, are the model's choices (log 93). The model's own choices in it: logs 11, 25, 93. -/
def Obligations.FencesDrainsPrefetchesAndWalksComplete : Prop :=
  (∀ (o : TOp) (s : State) (t : Word) (m : Mach), s.Moves o (.word t) m →
    let c := t.toNat / 2 ^ 16 % 256
    exec (.luFown o) s = .next (s.did (m.onMe fun x => { x with fown := some m.ids }))
    ∧ (¬ (c < 160 ∧ partOf c = partOf m.issue.core) →
        ∃ tr : Trap, tr.cause = .prot ∧ tr.detail = 2 ∧ exec (.luFfar o) s = .next (s.raised tr))
    ∧ (c < 160 → partOf c = partOf m.issue.core → m.Placed → ∃ m1, exec (.luFfar o) s = .next (s.did m1)
        ∧ m1.me = { m.me with ffar := some ⟨c, t.toNat % 256, m.ids, none⟩, hold := some .ffar } ∧ m1.issue = m.issue ∧ m1.out = m.out)
    ∧ exec (.luDrain o) s = .next (s.did (m.onMe fun x => { x with hold := some (.drain (t.toNat % 16)) }))
    ∧ (∀ a : Word, m.Holds .luA (.word a) → windowOf (a + t).toNat ≠ .hbm →
        exec (.luPf o) s = .next (s.did (m.taken [.luA])))
    ∧ (∀ (a : Word) key e, m.Holds .luA (.word a) → windowOf (a + t).toNat = .hbm →
        translatePiece (m.taken [.luA]) m.issue.core m.myPart m.me.priv false (a + t).toNat = .ok (key, e) → pteST e = false →
        exec (.luPf o) s = .next (s.did ((m.taken [.luA]).allocLine key)))
    ∧ (∀ (a : Word) (tr : Trap), m.Holds .luA (.word a) → windowOf (a + t).toNat = .hbm →
        translatePiece (m.taken [.luA]) m.issue.core m.myPart m.me.priv false (a + t).toNat = .error (.raise tr) →
        ∃ m1, exec (.luPf o) s = .next (s.did m1) ∧ m1.cores = (m.taken [.luA]).cores ∧ m1.cached = m.cached ∧ m1.out = m.out
          ∧ ∀ w ∈ m1.walks, w.core = m.issue.core → w.fault.isSome = true → m.issue.ctx ∉ w.users))
  ∧ (∀ (s : State) (c k : Nat), s.mach.Has c k → s.mach.out = [] →
    (s.mach.ffarReady c k = true → ∀ f, (s.mach.ctx c k).ffar = some f →
      ∃ u l, exec (.ffarSerialise c k) s = .next u ∧ u.mem = s.mem ∧ (u.mach.ctx c k) = { s.mach.ctx c k with ffar := some { f with entries := some l } }
        ∧ ∀ k' n, k' < 8 → ((f.core, k', n) ∈ l ↔ f.mask.testBit k' = true ∧ ∃ e ∈ (s.mach.ctx f.core k').buffer, e.seq = n))
    ∧ (s.mach.ffarDone c k = true →
      ∃ u, exec (.ffarComplete c k) s = .next u ∧ u.mem = s.mem ∧ u.mach.ctx c k = { s.mach.ctx c k with ffar := none })
    ∧ (∀ w, (s.mach.ctx c k).hold = some w → (w = .ffar ∨ ∃ mask, w = .drain mask) → (s.mach.ctx c k).waitIssued = 0 →
      (s.mach.ctx c k).pastWpMax = false → s.mach.waitDone c k w = false →
      ∃ u, issueBundle exec s c k = .next u ∧ u.mem = s.mem ∧ (u.mach.ctx c k).status = .blocked w ∧ (u.mach.ctx c k).hold = some w
        ∧ (u.mach.ctx c k).pc = (s.mach.ctx c k).pc ∧ (u.mach.ctx c k).g = (s.mach.ctx c k).g ∧ (u.mach.core c).running ≠ some k)
    ∧ (∀ mask, s.mach.waitDone c k (.drain mask) = s.mach.drainDone c k mask)
    ∧ (∀ mask, (s.mach.ctx c k).status = .blocked (.drain mask) → s.mach.drainDone c k mask = true →
      ∃ u, exec (.drainComplete c k) s = .next u ∧ u.mem = s.mem
        ∧ u.mach.ctx c k = { s.mach.ctx c k with status := .ready, readySince := s.mach.cycle }))
  ∧ (∀ (s : State) (c h a : Nat), s.mach.out = [] → c < s.mach.cores.length →
    (∃ w ∈ s.mach.walks, w.core = c ∧ w.part = h ∧ w.va = a ∧ w.fault = none) →
    (∀ r, walkNow s.mem s.mach h a = .ok r → ∃ u, exec (.pageWalkComplete c h a) s = .next u ∧ u.mem = s.mem
      ∧ (u.mach.core c).tlb = tlbOf h a r :: (s.mach.core c).tlb)
    ∧ (∀ d, walkNow s.mem s.mach h a = .error d → ∃ u, exec (.pageWalkComplete c h a) s = .next u ∧ u.mem = s.mem
      ∧ (u.mach.core c).tlb = (s.mach.core c).tlb ∧ ∃ w ∈ u.mach.walks, w.core = c ∧ w.part = h ∧ w.va = a ∧ w.fault = some d))

/-! ## The traverse engine and the fabric queue (spec/11_ops_memory_engines.md) -/

/-- R229, R235 to R237, R240: xe.go reads the card at a 64-byte boundary of the own vault (else ALIGN) and answers its refusal code, or queues
the job and answers its job word, 16 cycles later; xe.stat answers the state word, 6 in STATE for a number with no record; xe.cancel ends
a queued job as cancelled and stops a running one once what it has out has ended; xe.dict starts to load the other generation. -/
def Clauses.TraverseTriggersAnswer : Prop :=
  ∀ (o : TOp) (s : State) (t : Word) (m : Mach), s.Moves o (.word t) m → m.Placed →
    let c := m.issue.core
    let answered (i : Instr) (w : Word) (ok : Mach → Prop) : Prop := ∃ m1 tag, exec i s = .next (s.did m1) ∧ m1.out = m.out
      ∧ m1.me = { m.me with ports := { m.me.ports with xe := { m.me.ports.xe with tag := some tag } } }
      ∧ (m.cycle + 16, Event.xeResWrite c m.issue.ctx tag w) ∈ m1.agenda ∧ ok m1
    let own : Prop := t.toNat % 64 = 0 ∧ windowOf t.toNat = .vault ∧ vaultCore t.toNat = c ∧ vaultCore (t.toNat + 255) = c
    let card := (upFrom 0 32).map fun i => word (natLE ((upFrom (t.toNat + 8 * i) 8).map s.mem.read))
    let j := newJob m card t.toNat
    let ring := j.namedRing m.me
    let code := j.refusal c ((ring.bind m.myCore.ring).map (·.slot)) ring.isSome
    (¬ own → ∃ tr : Trap, tr.cause = .align ∧ tr.addr = t ∧ exec (.xeGo o) s = .next (s.raised tr))
    ∧ (own → 32 ≤ (m.myCore.jobs.filter (·.live)).length → exec (.xeGo o) s = .next (s.held (.block .xeQueue)))
    ∧ (own → (m.myCore.jobs.filter (·.live)).length < 32 → code ≠ 0 → answered (.xeGo o) (word code) fun m1 => m1.myCore.jobs = m.myCore.jobs)
    ∧ (own → (m.myCore.jobs.filter (·.live)).length < 32 → code = 0 → ∃ q, q.state = .queued ∧ q.card = card ∧ q.cardAddr = t.toNat
        ∧ q.ctx = m.issue.ctx ∧ q.total = j.transfers ∧ q.n = 0
        ∧ answered (.xeGo o) (word (q.num * 2 ^ 48 + q.promise % 2 ^ 48)) fun m1 => m1.myCore.jobs = m.myCore.jobs ++ [q])
    ∧ (own → 5 ≤ j.kind → code = 0x30)
    ∧ (∀ q, m.myCore.jobs.find? (·.num == t.toNat / 2 ^ 48) = some q → answered (.xeStat o) q.stateWord fun m1 => m1.myCore.jobs = m.myCore.jobs)
    ∧ (m.myCore.jobs.find? (·.num == t.toNat / 2 ^ 48) = none → answered (.xeStat o) (word (6 * 2 ^ 56)) (fun _ => True)
        ∧ exec (.xeCancel o) s = .next (s.did m))
    ∧ (∀ q, m.myCore.jobs.find? (·.num == t.toNat / 2 ^ 48) = some q →
        (q.live = false → exec (.xeCancel o) s = .next (s.did m))
        ∧ (q.state = .queued → ∃ m1 q', exec (.xeCancel o) s = .next (s.did m1) ∧ q' ∈ m1.myCore.jobs ∧ q'.num = q.num
            ∧ q'.state = .cancelled ∧ m1.out = m.out ++ (upFrom (q.cardAddr + 0xF8) 8).zip (bytesLE 8 q'.stateWord.toNat))
        ∧ (q.state = .running → (q.flights ≠ [] ∨ q.landed = .sent) →
            exec (.xeCancel o) s = .next (s.did (m.setJob c { q with stop := true }))))
    ∧ (let a := t.toNat % 2 ^ 48
       let size := t.toNat / 2 ^ 48
       let w := windowOf a
       let g := 1 - m.myCore.curDict
       ((size = 0 ∨ (w ≠ .vault ∧ w ≠ .hbm) ∨ windowOf (a + size - 1) ≠ w) →
          ∃ tr : Trap, tr.cause = .align ∧ exec (.xeDict o) s = .next (s.raised tr))
       ∧ (∀ segs e, size ≠ 0 → (w = .vault ∨ w = .hbm) → windowOf (a + size - 1) = w →
          (∀ q ∈ m.myCore.jobs, q.live = true → q.gen ≠ some g) → (m.myCore.dicts.getD g .empty).loading = false → g < m.myCore.dicts.length →
          rangeSegs m c m.myPart m.me.priv false a size = .ok (segs, e) →
          ∃ m1, exec (.xeDict o) s = .next (s.did m1) ∧ m1.me = m.me ∧ m1.myCore.curDict = g
            ∧ (m1.myCore.dicts.getD g .empty).loading = true ∧ (m1.myCore.dicts.getD g .empty).segs = segs ∧ m1.out = m.out))

/-- R229, R232, R233, R235, R238, R241, R321, R334: JOB_BEGIN starts the next job; JOB_TRANSFER of a local copy writes the element at the
destination of its transfer, and no other byte (one of the barrier area may complete a phase besides, R126), and moves the cursor on; JOB_COMPLETE ends a job that has performed every transfer as
complete, or suspends one that met a fault, and writes word 0xF8 or 0xF0 of its card, in which the elements of a contribution that has not landed
count for nothing (log 80); DICT_LOAD_COMPLETE fills its generation;
XE_RES_WRITE puts the word into the xe.res that awaits it. -/
def Clauses.TraverseJobsRunToTheirEnd : Prop :=
  (∀ (s : State) (c k tag : Nat) (v : Word), s.mach.Has c k → s.mach.out = [] → (s.mach.ctx c k).ports.xe.tag = some tag →
    ∃ u, exec (.xeResWrite c k tag v) s = .next u ∧ u.mem = s.mem ∧ (u.mach.ctx c k).ports.xe = ⟨v, 0, none⟩
      ∧ (u.mach.ctx c k).g = (s.mach.ctx c k).g)
  ∧ (∀ (s : State) (c : Nat) (j : Job), c < s.mach.cores.length → s.mach.out = [] → s.mach.nextJob c = some j →
    (s.mach.core c).jobs.find? (·.num == j.num) = some j → (s.mach.core c).jobBanks j = none →
    ∃ u, exec (.jobBegin c) s = .next u ∧ u.mem = s.mem ∧ (u.mach.core c).jobs.find? (·.num == j.num)
      = some { j with state := .running, begun := true, readyAt := s.mach.cycle + j.fill c })
  ∧ (∀ (s : State) (c num idx : Nat) (j : Job) (src dst : List Seg) (e1 e2 : Word), s.Inv → c < s.mach.cores.length →
    let m := s.mach.onCore c fun co => { co with rr := num }
    (m.core c).jobs.find? (·.num == num) = some j → (∀ r ∈ s.mach.net, r.due = none) → j.kind = 0 → j.srcPeer = false → j.dstPeer = false →
    (s.mach.core c).jobsFrozen = false → (s.mach.core c).jobsHalted = false → s.mach.canTransfer c j = true → j.next = idx →
    rangeSegs m c j.part j.priv true (j.dstAt idx) j.esize = .ok (dst, e1) → (segKeys dst).any isBarrierKey = false →
    rangeSegs m c j.part j.priv false (j.srcAt idx) j.esize = .ok (src, e2) → barrierKeys src = [] →
    ∃ u j', exec (.jobTransfer c num idx) s = .next u
      ∧ u.mem = s.mem.writeAll ((segKeys dst).zip ((segKeys src).map s.mem.read))
      ∧ (∀ a, a ∉ segKeys dst → u.mem.read a = s.mem.read a)
      ∧ (u.mach.core c).jobs.find? (·.num == num) = some j' ∧ j'.issued = idx + 1
      ∧ (j.ahead = [] → j.n = idx → j'.n = idx + 1) ∧ (u.mach.core c).ctxs = (s.mach.core c).ctxs)
  ∧ (∀ (s : State) (c num : Nat) (j : Job), s.Inv → c < s.mach.cores.length → (s.mach.core c).jobs.find? (·.num == num) = some j →
    j.state = .running → j.flights = [] → j.landed ≠ .sent → j.stop = false → j.code = 0 →
    (j.fault = none → j.total ≤ j.issued → (j.kind = 3 → j.landed = .yes) →
      ∃ u j', exec (.jobComplete c num) s = .next u ∧ j' ∈ (u.mach.core c).jobs ∧ j'.num = num ∧ j'.state = .complete
        ∧ (upFrom (j.cardAddr + 0xF8) 8).map u.mem.read = bytesLE 8 j'.stateWord.toNat
        ∧ (∀ a, (a < j.cardAddr + 0xF8 ∨ j.cardAddr + 0x100 ≤ a) → u.mem.read a = s.mem.read a)
        ∧ (j.w 0 18 18 = 1 → ∃ b ∈ u.mach.bars, b.op = .credit (j.w 20 63 32) ∧ b.due = s.mach.cycle))
    ∧ (∀ tr, j.fault = some tr → ∃ u j', exec (.jobComplete c num) s = .next u ∧ (u.mach.core c).jobs.find? (·.num == num) = some j'
        ∧ j'.state = .suspended ∧ (upFrom (j.cardAddr + 0xF0) 8).map u.mem.read = bytesLE 8 j.cursor.toNat
        ∧ (∀ a, (a < j.cardAddr + 0xF0 ∨ j.cardAddr + 0xF8 ≤ a) → u.mem.read a = s.mem.read a)))
  ∧ (∀ j : Job, let done := if j.kind = 3 ∧ j.landed ≠ .yes then 0 else j.n + j.ahead.length
    done < 2 ^ 48 → j.code < 256 → j.stateWord.toNat % 2 ^ 48 = done ∧ j.stateWord.toNat / 2 ^ 48 % 256 = j.code)
  ∧ (∀ (s : State) (c g t : Nat) (d : Dict), c < s.mach.cores.length → s.mach.out = [] → (s.mach.core c).dicts.getD g .empty = d →
    g < (s.mach.core c).dicts.length → d.loading = true → d.due = some t → t ≤ s.mach.cycle →
    ∃ u, exec (.dictLoadComplete c g) s = .next u ∧ u.mem = s.mem.writeAll (s.mach.settleBarriers s.mem (barrierKeys d.segs)).out
      ∧ ((u.mach.core c).dicts.getD g .empty).loading = false
      ∧ ((u.mach.core c).dicts.getD g .empty).bytes = (segKeys d.segs).map s.mem.read)

/-- R229, R232, R233, R235 to R238, R240, R241, R321, R334: the traverse engine answers its triggers and runs its jobs to their end. The model's own choices in it: logs 33, 34, 78, 79, 80, 82. -/
def Obligations.TraverseEngineAnswersAndRuns : Prop :=
  Clauses.TraverseTriggersAnswer
  ∧ Clauses.TraverseJobsRunToTheirEnd

/-- R242 to R245, R50, R85: fq.tx appends a word, fq.txe ends the request: a malformed one is answered with STATUS 4 and one that cannot be
routed with STATUS 5, and a well-formed one that has room for its reply is sent; a reply enters fq.rx in place of the words reserved; a
contribution combines with the entries of a pending vector and counts REMAIN down, sets FV_EXTRA on a ready one, and the vector becomes
ready with the last. The model's own choices in it: logs 27, 83, 84. -/
def Obligations.FabricQueueSendsAndReceives : Prop :=
  (∀ (o : TOp) (s : State) (t : Word) (m : Mach), s.Moves o (.word t) m → m.Placed →
    let ws := m.me.tx ++ [t]
    let h := ws.getD 0 0
    let m0 := m.onMe fun x => { x with tx := [] }
    (m.me.tx.length < 64 → exec (.fqTx o) s = .next (s.did (m.onMe fun x => { x with tx := x.tx ++ [t] })))
    ∧ (64 ≤ m.me.tx.length → exec (.fqTx o) s = .next (s.held (.block .fqTx)))
    ∧ ((m.me.fqFrozen = true ∨ m.me.fqHalted = true) → exec (.fqTxe o) s = .next (s.held (.block .fqPort)))
    ∧ (m.me.fqFrozen = false → m.me.fqHalted = false → m.me.tx.length < 64 →
      (wellFormed m.me.fv.length ws = false → 1 ≤ m.me.rxSpace →
        exec (.fqTxe o) s = .next (s.did (portReply m0 h 4)) ∧ (portReply m0 h 4).me.rxReserved = m.me.rxReserved + 1)
      ∧ (wellFormed m.me.fv.length ws = true → replyNeed h ≤ m.me.rxSpace → 1 ≤ m.me.rxSpace → m0.route m.issue.core (reqTarget h) = none →
        exec (.fqTxe o) s = .next (s.did (portReply m0 h 5)))
      ∧ (∀ p, wellFormed m.me.fv.length ws = true → replyNeed h ≤ m.me.rxSpace → m0.route m.issue.core (reqTarget h) = some p →
        (reqTarget h = m.pkg ∨ (m0.peer p (reqTarget h)).room (8 * ws.length) = true) →
        ((reqKind h).isSome = true → h.toNat / 2 ^ 34 % 4 < 2) →
        exec (.fqTxe o) s = .next (s.did (sendRequest m0 ws p)) ∧ (sendRequest m0 ws p).me.tx = []
          ∧ (sendRequest m0 ws p).me.rxReserved = m.me.rxReserved + replyNeed h
          ∧ (reqTarget h = m.pkg → ∃ a, (sendRequest m0 ws p).ingress = m.ingress ++ [a] ∧ a.msg.words = wireWords ws))))
  ∧ (∀ (s : State) (id c k uid : Nat) (r : FqReply), s.mach.Has c k → s.mach.out = [] → s.mach.replies.find? (·.id == id) = some r →
    r.who = .fq c k uid → (s.mach.ctx c k).unit.map (·.uid) = some uid → (r.words.getD 0 0).toNat / 2 ^ 40 % 256 ≠ 2 →
    (∀ g, s.mach.asked.find? (·.id == id) = some g → reqFvr (g.words.getD 0 0) = false) →
    ∃ u, exec (.fqReplyArrive id) s = .next u ∧ u.mem = s.mem ∧ (u.mach.ctx c k).rx = (s.mach.ctx c k).rx ++ r.words
      ∧ (u.mach.ctx c k).rxReserved = (s.mach.ctx c k).rxReserved - (match s.mach.asked.find? (·.id == id) with
        | some g => replyNeed (g.words.getD 0 0)
        | none => 1)
      ∧ (u.mach.ctx c k).g = (s.mach.ctx c k).g ∧ u.mach.replies.find? (·.id == id) = none)
  ∧ (∀ (s : State) (q : Contribution) (f : FactorVec), s.mach.Has q.toCore q.toCtx → s.mach.out = [] → s.mach.contribs = [q] →
    q.due ≤ s.mach.cycle → (s.mach.ctx q.toCore q.toCtx).status = .running → (s.mach.ctx q.toCore q.toCtx).unit.isSome = true →
    q.fv < (s.mach.ctx q.toCore q.toCtx).fv.length → (s.mach.ctx q.toCore q.toCtx).fv.getD q.fv .zero = f → q.op = none →
    let sum := ((f.entries.take q.values.length).zip q.values).map (fun p => f.op.combine p.1 p.2) ++ f.entries.drop q.values.length
    ∃ u, exec (.fvContribution q.id) s = .next u ∧ u.mem = s.mem ∧ u.mach.contribs = []
      ∧ (f.state = .pending → f.nn = false → 1 < f.remain →
          (u.mach.ctx q.toCore q.toCtx).fv.getD q.fv .zero = { f with entries := sum, remain := f.remain - 1 })
      ∧ (f.state = .pending → f.nn = false → f.remain = 1 → ((u.mach.ctx q.toCore q.toCtx).fv.getD q.fv .zero).state = .ready)
      ∧ (f.state = .ready → (u.mach.ctx q.toCore q.toCtx).fv.getD q.fv .zero = f
          ∧ (u.mach.ctx q.toCore q.toCtx).csw = (s.mach.ctx q.toCore q.toCtx).csw ||| cswFvExtra)
      ∧ (f.state = .void → (u.mach.ctx q.toCore q.toCtx).fv.getD q.fv .zero = f))

/-! ## Rings, barriers, flags and tasks (spec/08_ops_control.md) -/

/-- R52, R53, R142, R163, R165, R166: the ring triggers answer in sy.res 2 cycles later: rinit with a = 0 unbinds its handle, and otherwise
binds it to the record of that base, made anew or found with the same description; rclaim moves a free slot at HEAD to filling and rtake a
full one at TAIL to draining, each answering the slot's number and address; rgive and rfill mark a slot in the state they need; rstat
counts the slots; a trigger on an unbound handle answers BAD_RING, rgive and rfill of a number that is no slot BAD_OPERAND and of one in
another state BAD_SLOT. RING_SLOT_FULL and RING_SLOT_FREE end the transitions. The model's own choices in it: logs 38, 39. -/
def Obligations.RingTriggersMoveTheirSlots : Prop :=
  (∀ (o : TOp) (s : State) (m : Mach) (i : Nat), s.Moves o (.ref .cb i) m →
    let say (m : Mach) (status value : Nat) : Mach := m.result .sy (word (status * 2 ^ 56 + value)) 2
    let ma := m.taken [.syA]
    (m.Holds .syA (.word 0) → exec (.syRinit o) s = .next (s.did (say (unbind ma i) 0 0)))
    ∧ (∀ a b : Word, a ≠ 0 → m.Holds .syA (.word a) → m.Holds .syB (.word b) →
        let m1 := unbind (m.taken [.syA, .syB]) i
        let slot := b.toNat / 2 ^ 32
        let n := b.toNat % 2 ^ 9
        let base := a.toNat
        (¬ (vaultBase m.issue.core ≤ base ∧ base % 64 = 0 ∧ slot % 64 = 0 ∧ 64 ≤ slot ∧ slot ≤ 0x100000 ∧ 2 ≤ n ∧ n ≤ 256
            ∧ base + n * slot ≤ vaultBase m.issue.core + 0xFFF000) → exec (.syRinit o) s = .next (s.did (say m1 0x12 0)))
        ∧ (ringAllowed m.issue.core base slot n = true →
          (∀ r, m1.myCore.ring base = some r → r.slot = slot → r.n = n → exec (.syRinit o) s = .next (s.did (say (bind m1 i base) 0 0)))
          ∧ (m1.myCore.ring base = none → m1.myCore.rings.length < 32 → exec (.syRinit o) s = .next (s.did (say
              (bind (m1.onMyCore fun co => { co with rings := co.rings ++ [.make base slot n] }) i base) 0 0)))
          ∧ (m1.myCore.ring base = none → 32 ≤ m1.myCore.rings.length → exec (.syRinit o) s = .next (s.did (say m1 0x13 0)))))
    ∧ (m.myRing i = none → ∀ f ∈ [Instr.syRclaim, Instr.syRtake, Instr.syRstat], exec (f o) s = .next (s.did (say m 0x12 0)))
    ∧ (∀ r, m.myRing i = some r →
        (r.slotState r.head = .free → m.myCore.earlierWaiter m.issue.ctx (.ringFree r.base) = false → exec (.syRclaim o) s
          = .next (s.did (say (m.onMyCore (·.onRing r.base (·.claim false))) 0 (r.head * 2 ^ 48 + (r.base + r.head * r.slot)))))
        ∧ (r.slotState r.head ≠ .free → exec (.syRclaim o) s = .next (s.held (.block (.ringFree r.base))))
        ∧ (r.slotState r.tail = .full → m.myCore.earlierWaiter m.issue.ctx (.ringFull r.base) = false → exec (.syRtake o) s
          = .next (s.did (say (m.onMyCore (·.onRing r.base Ring.take)) 0 (r.tail * 2 ^ 48 + (r.base + r.tail * r.slot)))))
        ∧ (r.slotState r.tail ≠ .full → exec (.syRtake o) s = .next (s.held (.block (.ringFull r.base))))
        ∧ exec (.syRstat o) s = .next (s.did (say m 0 (r.head + r.tail * 2 ^ 8 + r.count .free * 2 ^ 16 + r.count .full * 2 ^ 25
            + r.count .filling * 2 ^ 34 + r.count .draining * 2 ^ 43))))
    ∧ (∀ (a : Word), m.Holds .syA (.word a) →
        (ma.myRing i = none → exec (.syRgive o) s = .next (s.did (say ma 0x12 0)) ∧ exec (.syRfill o) s = .next (s.did (say ma 0x12 0)))
        ∧ (∀ r, ma.myRing i = some r → r.n ≤ a.toNat →
            exec (.syRgive o) s = .next (s.did (say ma 0x10 0)) ∧ exec (.syRfill o) s = .next (s.did (say ma 0x10 0))))
    ∧ (∀ (a : Word) r, m.Holds .syA (.word a) → ma.myRing i = some r → a.toNat < r.n →
        (¬ ((r.at a.toNat).state = .filling ∧ (r.at a.toNat).byJob = false) → exec (.syRfill o) s = .next (s.did (say ma 0x14 0))) ∧
        ((r.at a.toNat).state = .draining → exec (.syRgive o) s = .next (s.did (say (ma.onMyCore (·.onRing r.base (·.setSlot a.toNat
          fun q => { q with given := true }))) 0 0)))
        ∧ ((r.at a.toNat).state ≠ .draining → exec (.syRgive o) s = .next (s.did (say ma 0x14 0)))
        ∧ ((r.at a.toNat).state = .filling → (r.at a.toNat).byJob = false → exec (.syRfill o) s = .next (s.did (say
            (ma.onMyCore (·.onRing r.base (·.setSlot a.toNat fun q => { q with fillBy := match q.fillBy with
              | some p => some p
              | none => some (m.issue.ctx, m.ids) }))) 0 0)))))
  ∧ (∀ (s : State) (c base slot : Nat) (r : Ring), s.mach.out = [] → c < s.mach.cores.length → (s.mach.core c).ring base = some r →
    slot < r.slots.length →
    (s.mach.fullDue c r slot = true → ∃ u r', exec (.ringSlotFull c base slot) s = .next u ∧ u.mem = s.mem
      ∧ (u.mach.core c).ring base = some r' ∧ (r'.at slot).state = .full ∧ (∀ j, j ≠ slot → r'.at j = r.at j)
      ∧ (u.mach.core c).ctxs = (s.mach.core c).ctxs)
    ∧ ((r.at slot).state = .draining → (r.at slot).given = true → (r.at slot).users = 0 → ∃ u r', exec (.ringSlotFree c base slot) s = .next u ∧ u.mem = s.mem
      ∧ (u.mach.core c).ring base = some r' ∧ (r'.at slot).state = .free ∧ (∀ j, j ≠ slot → r'.at j = r.at j)
      ∧ (u.mach.core c).ctxs = (s.mach.core c).ctxs)
    ∧ (((r.at slot).state ≠ .draining ∨ (r.at slot).given = false ∨ (r.at slot).users ≠ 0) → exec (.ringSlotFree c base slot) s = .next s))

/-- R54, R126, R161, R163, R164, R263: a barrier trigger sends its operation to the vault of the core that its operand word names, after the
figure of R104, or answers BAD_OPERAND for a core above 159 or an INIT outside 1 to 65535, or raises PROT outside the partition; an arrival
lowers ARRIVE, one too many changing nothing, an expectation raises TXBYTES, a credit lowers it, binit sets the count and its reload, barm the
reload alone, a test reads and holds later bundles back until it has performed, and after each the phase flips where ARRIVE and TXBYTES are both 0; farm arms a flag to its kind and sets it at once where its condition holds, after undoing what the
earlier arming has done in the cycle, or answers BAD_OPERAND or BAD_RING, or raises PROT for a barrier outside the partition; DEADLINE_REACHED sets a flag whose deadline has come. The model's own choices in it: logs 24, 29, 134. -/
def Obligations.BarriersAndArmedFlags : Prop :=
  (∀ e ∈ ([(Instr.syBinit, true, fun a => if 1 ≤ a.toNat ∧ a.toNat ≤ 65535 then some (.binit a.toNat) else none),
      (Instr.syBarr, false, fun _ => some .barr), (Instr.syBexp, true, fun a => some (.bexp (a.toNat % 2 ^ 32))),
      (Instr.syBtest, false, fun _ => some .btest),
      (Instr.syBarm, true, fun a => if 1 ≤ a.toNat ∧ a.toNat ≤ 65535 then some (.barm a.toNat) else none)]
      : List ((TOp → Instr) × Bool × (Word → Option BarOp))),
    ∀ (o : TOp) (s : State) (t a : Word) (m m1 : Mach), s.Moves o (.word t) m → m.Placed → (e.2.1 = true → m.Holds .syA (.word a)) →
      m1 = m.taken (if e.2.1 then [.syA] else []) →
      let c := if t.getLsbD 31 then t.toNat / 2 ^ 16 % 256 else m.issue.core
      let cycles := vaultCycles m.issue.core c
      (159 < c → exec (e.1 o) s = .next (s.did (m1.result .sy (syWord 0x10 0) 12)))
      ∧ (c ≤ 159 → partOf c ≠ partOf m.issue.core → ∃ tr : Trap, tr.cause = .prot ∧ tr.detail = 2 ∧ exec (e.1 o) s = .next (s.raised tr))
      ∧ (c ≤ 159 → partOf c = partOf m.issue.core →
        (e.2.2 a = none → exec (e.1 o) s = .next (s.did (m1.result .sy (syWord 0x10 0) cycles)))
        ∧ (∀ op, e.2.2 a = some op → ∃ m2 tag, exec (e.1 o) s = .next (s.did m2) ∧ m1.Kept m2 m.issue.core m.issue.ctx
            ∧ m2.bars = m1.bars ++ [⟨vaultBase c + 0xFFF000 + 16 * (t.toNat % 256), op, m.issue.core, m.issue.ctx, tag, m1.cycle + cycles⟩]
            ∧ m2.me = { m1.me with ports := { m1.me.ports with sy := { m1.me.ports.sy with tag := some tag } },
                                   acquires := if op = .btest then tag :: m1.me.acquires else m1.me.acquires })))
  ∧ (∀ (phase arrive tx init n : Nat), phase < 2 → arrive < 2 ^ 16 → tx < 2 ^ 32 → init < 2 ^ 16 → n < 2 ^ 32 →
      let w0 := word (phase * 2 ^ 63 + arrive * 2 ^ 32 + tx)
      let bar (p a t : Nat) : Nat := p * 2 ^ 63 + a * 2 ^ 32 + t
      (arrive = 0 → BarOp.barr.apply w0 (word init) = (w0.toNat, init, word (0x11 * 2 ^ 56 + phase)))
      ∧ (0 < arrive → ¬ (arrive = 1 ∧ tx = 0) → BarOp.barr.apply w0 (word init) = (bar phase (arrive - 1) tx, init, word phase))
      ∧ (arrive = 1 → tx = 0 → BarOp.barr.apply w0 (word init) = (bar (1 - phase) init 0, init, word phase))
      ∧ (0 < arrive → (BarOp.bexp n).apply w0 (word init) = (bar phase arrive ((tx + n) % 2 ^ 32), init, word phase))
      ∧ (arrive = 0 → (BarOp.bexp n).apply w0 (word init) = (if (tx + n) % 2 ^ 32 = 0 then bar (1 - phase) init 0
          else bar phase 0 ((tx + n) % 2 ^ 32), init, word phase))
      ∧ (arrive = 0 → n = tx → (BarOp.credit n).apply w0 (word init) = (bar (1 - phase) init 0, init, 0))
      ∧ (¬ (arrive = 0 ∧ n = tx) → (BarOp.credit n).apply w0 (word init) = (bar phase arrive ((tx + 2 ^ 32 - n) % 2 ^ 32), init, 0))
      ∧ (n < 2 ^ 16 → (BarOp.binit n).apply w0 (word init) = (bar 0 n 0, n, 0) ∧ (BarOp.barm n).apply w0 (word init)
          = (if arrive = 0 ∧ tx = 0 then bar (1 - phase) n 0 else w0.toNat, n, 0))
      ∧ BarOp.btest.apply w0 (word init) = (if arrive = 0 ∧ tx = 0 then bar (1 - phase) init 0 else w0.toNat, init, word (phase * 2 ^ 48 + arrive * 2 ^ 32 + tx)))
  ∧ (∀ (o : TOp) (s : State) (t a : Word) (m : Mach), s.Moves o (.word t) m → m.Placed →
      let kind := t.toNat / 2 ^ 4 % 16
      let i := t.toNat % 16
      (8 ≤ kind → exec (.syFarm o) s = .next (s.did (m.result .sy (syWord 0x10 0) 1)))
      ∧ (kind = 7 → m.Holds .syA (.word a) → m.me.p.length = 16 → m.me.arms.length = 16 →
          ∃ m2, exec (.syFarm o) s = .next (s.did m2) ∧ m2.out = m.out ∧ m2.me.arms.getD i ⟨0, 0⟩ = ⟨7, a⟩
            ∧ m2.me.ports.sy = ⟨word 0, m.cycle + 1, none⟩
            ∧ m2.me.p.getD i false = (if a.toNat ≤ m.cycle then true else if m.me.reached.getLsbD i then false else m.me.p.getD i false)
            ∧ (∀ j, j ≠ i → m2.me.p.getD j false = m.me.p.getD j false) ∧ m2.me.g = m.me.g)
      ∧ (kind = 0 → ∃ m2, exec (.syFarm o) s = .next (s.did m2) ∧ m2.out = m.out
          ∧ (m.me.reached.getLsbD i = false → m2.me.p = m.me.p) ∧ (∀ j, j ≠ i → m2.me.p.getD j false = m.me.p.getD j false)
          ∧ (i < m.me.arms.length → (m2.me.arms.getD i ⟨0, 0⟩).kind = 0)))
  ∧ (∀ (o : TOp) (s : State) (t a : Word) (m m1 : Mach), s.Moves o (.word t) m → m.Placed →
      let kind := t.toNat / 2 ^ 4 % 16
      let i := t.toNat % 16
      1 ≤ kind → kind ≤ 6 → (kind ≠ 4 → m.Holds .syA (.word a)) → (kind = 4 → a = 0) → m1 = m.taken (if kind = 4 then [] else [.syA]) →
      let x := m1.me
      let c := if a.getLsbD 31 then a.toNat / 2 ^ 16 % 256 else m.issue.core
      let n := a.toNat / 2 ^ 8 % 2 ^ 9
      let st := match kind with
        | 1 => if 159 < c then 0x10 else 0
        | 2 | 3 => if x.cb.length ≤ a.toNat % 16 ∨ n = 0 ∨ 256 < n then 0x10 else if x.cb.getD (a.toNat % 16) none = none then 0x12 else 0
        | 5 => if a.toNat / 2 ^ 48 = 0 then 0x10 else 0
        | 6 => if x.fv.length ≤ a.toNat % 64 then 0x10 else 0
        | _ => 0
      let count (w : SlotState) : Bool := (m1.myRing (a.toNat % 16)).any fun r => decide (n ≤ r.count w)
      let met : Bool := match kind with
        | 1 => (word (peekNat s.mem m1 (vaultBase c + 0xFFF000 + 16 * (a.toNat % 256)) 8)).getLsbD 63 == a.getLsbD 8
        | 2 => count .full
        | 3 => count .free
        | 4 => !x.rx.isEmpty
        | 5 => m1.myCore.jobOver (a.toNat / 2 ^ 48)
        | _ => (x.fv.getD (a.toNat % 64) .zero).state != .pending
      (kind = 1 → c ≤ 159 → partOf c ≠ partOf m.issue.core → ∃ tr : Trap, tr.cause = .prot ∧ tr.detail = 2 ∧ exec (.syFarm o) s = .next (s.raised tr))
      ∧ (st ≠ 0 → exec (.syFarm o) s = .next (s.did (m1.result .sy (syWord st 0) 1)))
      ∧ (st = 0 → (kind = 1 → partOf c = partOf m.issue.core) → x.p.length = 16 → x.arms.length = 16 →
          ∃ m2, exec (.syFarm o) s = .next (s.did m2) ∧ m2.out = m.out ∧ m2.me.arms.getD i ⟨0, 0⟩ = ⟨kind, a⟩
            ∧ m2.me.ports.sy = ⟨word 0, m.cycle + 1, none⟩
            ∧ m2.me.p.getD i false = (met || (!x.reached.getLsbD i && x.p.getD i false))
            ∧ (∀ j, j ≠ i → m2.me.p.getD j false = m.me.p.getD j false) ∧ m2.me.g = m.me.g))
  ∧ (∀ (s : State) (c k i : Nat), s.mach.Has c k → s.mach.out = [] → (s.mach.ctx c k).deadlineDue s.mach.cycle i = true →
      i < (s.mach.ctx c k).p.length →
      ∃ u, exec (.deadlineReached c k i) s = .next u ∧ u.mem = s.mem ∧ (u.mach.ctx c k).p.getD i false = true
        ∧ (∀ j, j ≠ i → (u.mach.ctx c k).p.getD j false = (s.mach.ctx c k).p.getD j false) ∧ (u.mach.ctx c k).g = (s.mach.ctx c k).g)

/-- R163, R167 to R171: the task triggers answer in sy.res: enq and spawn the refusal of the packet they read, or the handle or spawn number
of one that is accepted, blocking while no entry can be granted; spawn of a unit at depth 8 raises NEST_DEPTH with detail code 1; views replaces the view
table; join and merge block while children are not joined, after which join clears the children's count and merge ends the issue of the
unit; cancel and ctr act on the level they name; until answers once the promise has passed and the job is over; prio sets the priority, at
most CEIL. The model's own choices in it: logs 45, 46, 55, 56, 101, 106, 107. -/
def Obligations.TaskTriggersAnswer : Prop :=
  ∀ (o : TOp) (s : State) (t : Word) (m : Mach), s.Moves o (.word t) m → m.Placed →
    let h := partOf m.issue.core
    let say (m : Mach) (cycles status value : Nat) : Mach := m.result .sy (syWord status value) cycles
    let joined : Prop := m.unjoined = false
    (∀ e ∈ ([(Instr.syEnq, false), (Instr.sySpawn, true)] : List ((TOp → Instr) × Bool)), ∀ u, m.me.unit = some u →
      (t.toNat % 32 ≠ 0 → ∃ tr : Trap, tr.cause = .align ∧ exec (e.1 o) s = .next (s.raised tr))
      ∧ (t.toNat % 32 = 0 → e.2 = true → 8 ≤ u.depth → ∃ tr : Trap, tr.cause = .nestDepth ∧ tr.detail = 1 ∧ exec (e.1 o) s = .next (s.raised tr))
      ∧ (t.toNat % 32 = 0 → (e.2 = true → u.depth < 8) → m.coveredDone m.issue.core m.issue.ctx 1 (m.ids + 1) = true →
        ∀ ws m1, readPacket s.mem m t = .ok (ws, m1) →
        let st := m1.refusal h e.2 m1.me.tileNeed ws
        let depth := if e.2 then u.depth + 1 else 0
        (st ≠ 0 → exec (e.1 o) s = .next (s.did (say (m1.leaveBlocked m.issue.core m.issue.ctx h false).2 8 st 0)))
        ∧ (st = 0 → m1.claimEntry m.issue.core m.issue.ctx h depth = none → exec (e.1 o) s = .next (s.held (.block (.entry depth))))
        ∧ (∀ q m2, st = 0 → m1.claimEntry m.issue.core m.issue.ctx h depth = some (q, m2) →
          (e.2 = false → let r := m2.acceptLaunch h (packetOf ws) q none
            exec (e.1 o) s = .next (s.did (say r.2 8 0 r.1)))
          ∧ (e.2 = true → let r := m2.acceptSpawn m.issue.core m.issue.ctx u (packetOf ws) q
            exec (e.1 o) s = .next (s.did (say r.2 8 0 r.1))))))
    ∧ (∀ a : Word, m.Holds .syA (.word a) → let m1 := m.taken [.syA]
        (t.toNat % 16 ≠ 0 → ∃ tr : Trap, tr.cause = .align ∧ exec (.syViews o) s = .next (s.raised tr))
        ∧ (t.toNat % 16 = 0 → 8 < a.toNat → exec (.syViews o) s = .next (s.did (say m1 8 0x10 0)))
        ∧ (t.toNat % 16 = 0 → a = 0 → joined → exec (.syViews o) s = .next (s.did (say (m1.onMe fun x => { x with views := [] }) 8 0 0)))
        ∧ (t.toNat % 16 = 0 → a.toNat ≤ 8 → ¬ joined → exec (.syViews o) s = .next (s.did (say m1 8 0x16 0)))
        ∧ (∀ acc m2 bs, t.toNat % 16 = 0 → 0 < a.toNat → a.toNat ≤ 8 → joined → m1.me.pend = [] → m1.me.buffer = [] →
            planAccess m1 t (16 * a.toNat) 16 false = .ok (acc, m2) → readNow s.mem m2 acc = .ok bs →
          let ws := wordsOf bs
          let entries := (upFrom 0 a.toNat).map fun i => viewOf (ws.getD (2 * i) 0) (ws.getD (2 * i + 1) 0) (acc.keys.getD (16 * i) 0)
          let bad := (((upFrom 0 a.toNat).zip entries).any fun p => badView1 m2 ((ws.getD (2 * p.1) 0).toNat / 2 ^ 62) p.2)
            || anyPair (viewsClash m2.me) entries
          exec (.syViews o) s = .next (s.did (if bad then say m2 8 0x15 0 else say (m2.onMe fun x => { x with views := entries }) 8 0 0))))
    ∧ (joined → exec (.syJoin o) s = .next (s.did (say (m.onMe fun x => { x with spawns := 0, children := .zero }) 8 0 0)))
    ∧ (¬ joined → exec (.syJoin o) s = .next (s.held (.block .join)) ∧ exec (.syMerge o) s = .next (s.held (.block .join)))
    ∧ (joined → m.me.heldTiles = [] → ∃ m1, exec (.syMerge o) s = .next (s.did m1) ∧ m1.me.status = .merging ∧ m1.issue.ended = true
        ∧ m1.out = m.out ∧ m1.me.acc = m.me.acc ∧ m1.me.tl = m.me.tl)
    ∧ (∀ (u : UnitId) (a : Word), m.me.unit = some u → (t.toNat % 8 = 5 → a = 0) → (t.toNat % 8 ≠ 5 → m.Holds .syA (.word a)) →
        let m1 := if t.toNat % 8 = 5 then m else m.taken [.syA]
        let st := levelStatus m1 u t a
        exec (.syCancel o) s = .next (s.did (if st ≠ 0 then say m1 8 st 0 else say (m1.cancelLevel u t a) 8 0 0))
        ∧ exec (.syCtr o) s = .next (s.did (if t.toNat % 8 = 0 ∨ t.toNat / 2 ^ 3 % 4 = 3 then say m1 8 0x10 0
            else if st ≠ 0 then say m1 8 st 0 else say m1 8 0 (counterValue (m1.levelCounter u t a) (t.toNat / 2 ^ 3 % 4)))))
    ∧ (let past := promisePast (m.cycle % 2 ^ 48) (t.toNat % 2 ^ 48)
       let job := t.toNat / 2 ^ 48
       (job = 0 → exec (.syUntil o) s = .next (s.did (say m 1 0x10 0)))
       ∧ (job ≠ 0 → past = true → m.myCore.jobOver job = true → exec (.syUntil o) s = .next (s.did (say m 1 0 0)))
       ∧ (job ≠ 0 → past = true → m.myCore.jobOver job = false →
           ∃ tr : Trap, tr.cause = .promiseMissed ∧ exec (.syUntil o) s = .next (s.raised tr)))
    ∧ (3 < t.toNat → exec (.syPrio o) s = .next (s.did (say m 1 0x10 0)))
    ∧ (t.toNat ≤ 3 → ∃ m1, exec (.syPrio o) s = .next (s.did (say m1 1 0 0)) ∧ m1.me.ownPrio = min t.toNat (m.part h).ceil
        ∧ (m.me.lifted = false → m1.me.prio = min t.toNat (m.part h).ceil) ∧ m1.me.g = m.me.g)

/-! ## Runs and contexts (spec/01_execution_model.md, spec/17_scheduling.md) -/

/-- R15, R160: CONTEXT_READY makes a blocked context ready once what it waits for has come: room in the queue it wanted, a received word or
room for one, its fabric port, a queue entry, the join of its children, the slot of a ring, a dictionary, a factor vector (of several, none pending
or one void, log 113), its drain; until
then the event changes nothing, for a bundle that waits for nothing else. A bundle with header bit W of whose slots only empty ones can issue
blocks its context, none of its slots taking effect, until one of its flags changes; WAIT_SLOT_ISSUE makes a context whose flags have changed
ready, and on an idle core that chooses it that bundle issues in the same step. The model's own choices in it: logs 18, 77, 113. -/
def Obligations.BlockedContextsBecomeReady : Prop :=
  ∀ (s : State) (c k : Nat), s.mach.Has c k → s.mach.out = [] →
    let x := s.mach.ctx c k
    let co := s.mach.core c
    (∀ (mask depth n : Nat) (l : List Nat) (store load : Bool), ∀ e ∈ ([(.mxQueue, decide ((co.mx.filter fun q => q.ctx == k).length < 4)),
        (.tfQueue, decide ((co.tf.filter fun q => q.ctx == k && !q.ended).length < 4)),
        (.xeQueue, decide ((co.jobs.filter fun j => j.state == .queued || j.state == .running || j.state == .suspended).length < 32)),
        (.fqTx, decide (x.tx.length < 64)), (.fqRx, decide (x.rx ≠ [])), (.ffar, x.ffar.isNone),
        (.luQueue store load, (!store || decide (x.pend.length + x.buffer.length < 16)) && (!load || decide (x.loads.length < 16))),
        (.fqPort, !x.fqFrozen && !x.fqHalted), (.fqSpace n, decide (n ≤ 64 - (x.rx.length + x.rxReserved))),
        (.entry depth, (s.mach.die (dieOf c)).blocked.any fun b => b.core == c && b.ctx == k && b.granted.isSome),
        (.join, !((s.mach.work (partOf c)).families.any fun f => some f.parent == x.unit.map (·.uid))),
        (.factor l, (l.any fun i => decide (s.mach.fvState c k i = .void)) || l.all fun i => decide (s.mach.fvState c k i ≠ .pending)),
        (.dictFree, !(co.jobs.any fun j => j.live && j.gen == some (1 - co.curDict)) && !(co.dicts.getD (1 - co.curDict) .empty).loading),
        (.drain mask, (!mask.testBit 0 || (x.pend.isEmpty && x.buffer.isEmpty && co.enginesDrained k (s.mach.ids + 1)))
          && (!mask.testBit 1 || s.mach.peerDone c k (s.mach.ids + 1)) && (!mask.testBit 2 || s.mach.hostDone c k (s.mach.ids + 1))
          && (!mask.testBit 3 || !(co.jobs.any fun j => co.ownsJob k j && j.live)))] : List (Wait × Bool)),
      x.status = .blocked e.1 → x.waitIssued = 0 → x.waitOn = [] →
      ∃ u, exec (.contextReady c k) s = .next u ∧ u.mem = s.mem
        ∧ (e.2 = true → (u.mach.ctx c k).status = .ready ∧ (u.mach.ctx c k).readySince = s.mach.cycle)
        ∧ (e.2 = false → u = s)
        ∧ (u.mach.ctx c k).g = x.g ∧ (u.mach.ctx c k).pc = x.pc ∧ ∀ d j, (d ≠ c ∨ j ≠ k) → u.mach.ctx d j = s.mach.ctx d j)
    ∧ (∀ b r, co.ring b = some r →
      (x.status = .blocked (.ringFree b) → (r.at r.head).state = .free →
        ∃ u, exec (.contextReady c k) s = .next u ∧ (u.mach.ctx c k).status = .ready)
      ∧ (x.status = .blocked (.ringFull b) → (r.at r.tail).state = .full →
        ∃ u, exec (.contextReady c k) s = .next u ∧ (u.mach.ctx c k).status = .ready)
      ∧ (x.waitIssued = 0 → x.waitOn = [] →
        ((x.status = .blocked (.ringFree b) ∧ (r.at r.head).state ≠ .free) ∨ (x.status = .blocked (.ringFull b) ∧ (r.at r.tail).state ≠ .full)) →
        exec (.contextReady c k) s = .next s))
    ∧ (∀ ws, nextBundle s.mem { s.mach with issue := freshIssue c k } c k = .ok ws → headerBit ws 28 = true → encodingTrap x ws = none →
        x.status = .running → x.pastWpMax = false → x.heldBack = false → x.hold = none →
        (∀ sl ∈ moveSlots ws, x.waitIssued.getLsbD sl.k = false → sl.isEmpty = false → x.guardHolds (guardOfInstr sl.instr) = false) →
        (∃ sl ∈ moveSlots ws, x.waitIssued.getLsbD sl.k = false ∧ sl.isEmpty = false) →
        ∃ u, issueBundle exec s c k = .next u ∧ u.mem = s.mem ∧ (u.mach.ctx c k).status = .blocked .waitFlags
          ∧ (u.mach.ctx c k).waitIssued = x.waitIssued ||| issuedMask ((moveSlots ws).filter (·.isEmpty)) ∧ (u.mach.ctx c k).waitChanged = false ∧ (u.mach.core c).running ≠ some k
          ∧ (u.mach.ctx c k).pc = x.pc ∧ (u.mach.ctx c k).g = x.g ∧ (u.mach.ctx c k).p = x.p)
    ∧ (∀ i b, x.flag i ≠ b → (x.setFlag i b).waitChanged = true)
    ∧ (x.status = .blocked .waitFlags → x.waitChanged = true → ∃ u, exec (.waitSlotIssue c k) s = .next u ∧ u.mem = s.mem
        ∧ ((u.mach.issue.go = s.mach.issue.go ∧ (u.mach.ctx c k).status = .ready)
          ∨ (u.mach.issue.go = some (c, k) ∧ (u.mach.ctx c k).status = .running ∧ (u.mach.core c).running = some k
            ∧ co.running = none))
        ∧ (u.mach.ctx c k).g = x.g ∧ (u.mach.ctx c k).pc = x.pc)
    ∧ (x.waitChanged = false → exec (.waitSlotIssue c k) s = .next s)

/-- R16: a core chooses the highest level that has a choosable context, and within it the first one after the context that was last chosen at
that level, counting upwards from 0 to 7 and then wrapping round. -/
def Clauses.TheNextRunIsTheFirstOfTheHighestLevel : Prop :=
  ∀ (co : Core) (now level k : Nat), co.ctxs.length = 8 → co.lastChosen.length = 4 → co.choose now = some (level, k) →
    let ready (j lv : Nat) : Prop := ((co.ctxs.getD j .reset).choosable = true ∧ (co.ctxs.getD j .reset).readySince ≤ now
      ∧ (co.ctxs.getD j .reset).prio = lv)
    level ≤ 3 ∧ k < 8 ∧ ready k level
      ∧ (∀ j lv, j < 8 → level < lv → lv ≤ 3 → ¬ ready j lv)
      ∧ (∃ n, n < 8 ∧ k = (co.lastChosen.getD level 7 + 1 + n) % 8
          ∧ ∀ i, i < n → ¬ ready ((co.lastChosen.getD level 7 + 1 + i) % 8) level)

/-- R17, R18, R171, R296: PRIORITY_LIFT gives a context that has been ready for 4 Q cycles priority 3; RUN_QUANTUM_EXPIRY marks a run that has
lasted Q cycles to end at its next honoured waypoint; WAYPOINT_DISTANCE makes a context outside a handler that has issued WPMAX bundles
enter its handler with the code 0x09; PROMISE_REACHED lets a running context's waiting bundle issue again. Each changes nothing where its condition has
not come. -/
def Clauses.RunsAreLiftedEndedAndPoliced : Prop :=
  ∀ (s : State) (c k : Nat), s.mach.Has c k → s.mach.out = [] →
    let x := s.mach.ctx c k
    (∃ u, exec (.priorityLift c k) s = .next u ∧ u.mem = s.mem ∧ (u.mach.ctx c k).g = x.g ∧ (u.mach.ctx c k).status = x.status
      ∧ (if x.status = .ready ∧ x.frozen = false ∧ x.halted = false ∧ x.lifted = false ∧ 4 * x.quantum ≤ s.mach.cycle - x.readySince
        then (u.mach.ctx c k).prio = 3 ∧ (u.mach.ctx c k).ownPrio = x.ownPrio else u = s))
    ∧ (∃ u, exec (.runQuantumExpiry c k) s = .next u ∧ u.mem = s.mem ∧ (u.mach.ctx c k).g = x.g ∧ (u.mach.ctx c k).status = x.status
      ∧ (if x.status = .running ∧ x.frozen = false ∧ x.quantumOver = false ∧ x.quantum ≤ s.mach.cycle - x.runStart
        then (u.mach.ctx c k).quantumOver = true else u = s))
    ∧ (∃ u, exec (.waypointDistance c k) s = .next u ∧ u.mem = s.mem ∧ (u.mach.ctx c k).g = x.g
      ∧ (x.trap.active = false → x.wpMax ≤ x.wpCount → (u.mach.ctx c k).trap.active = true ∧ (u.mach.ctx c k).trap.cause = 0x09
          ∧ (u.mach.ctx c k).trap.pc = x.pc % 2 ^ 48 ∧ (u.mach.ctx c k).priv = .s ∧ (u.mach.ctx c k).wpCount = 0
          ∧ (u.mach.ctx c k).pc = (s.mach.part (partOf c)).trVec / 16 * 16)
      ∧ ((x.trap.active = true ∨ x.wpCount < x.wpMax) → u = s))
    ∧ (∃ u, exec (.promiseReached c k) s = .next u ∧ u.mem = s.mem ∧ u.mach.cores = s.mach.cores
      ∧ (s.mach.mayIssue = true → (s.mach.core c).running = some k → x.status = .running → x.issueAt = s.mach.cycle → x.frozen = false →
          x.halted = false → (s.mach.core c).nextIssue ≤ s.mach.cycle → (s.mach.core c).retired = false → (s.mach.core c).halted = false →
          u.mach.issue.go = some (c, k))
      ∧ (x.issueAt ≠ s.mach.cycle → u = s))

/-- R16 to R18, R171, R296: the next run is the first of the highest level; runs are lifted, ended and policed. The model's own choices in it: log 77. -/
def Obligations.RunsAreChosenLiftedAndEnded : Prop :=
  Clauses.TheNextRunIsTheFirstOfTheHighestLevel
  ∧ Clauses.RunsAreLiftedEndedAndPoliced

/-! ## The concierge (spec/01_execution_model.md, spec/17_scheduling.md) -/

/-- R27, R288: a packet takes a free general entry where its partition's quota leaves it one; otherwise a spawn packet of depth d takes the
reserved entry 55 + d if that is free, and a launch packet none; QUEUE_ENTRY_GRANT gives an entry to the earliest blocked packet that may
take one. -/
def Clauses.QueueEntriesAreGrantedInOrder : Prop :=
  (∀ (m : Mach) (h d : Nat), d ≤ 8 → (m.die (h / 2)).entries.length = 64 →
    let l := (m.die (h / 2)).entries
    let general : Prop := (m.die (h / 2)).general h < (m.work h).gquota ∧ ∃ i, i < 56 ∧ l.getD i (some 0) = none
    (general → ∃ e, m.freeEntry h d = some e ∧ e < 56 ∧ l.getD e (some 0) = none)
    ∧ (¬ general → m.freeEntry h d = if 1 ≤ d ∧ l.getD (55 + d) (some 0) = none then some (55 + d) else none))
  ∧ (∀ (s : State) (die : Nat), s.mach.out = [] → die < s.mach.dies.length →
    (∀ b, (s.mach.die die).blocked.find? (fun b => b.granted.isNone && (s.mach.freeEntry b.part b.depth).isSome) = some b →
      b.part / 2 = die → ∃ u e, exec (.queueEntryGrant die) s = .next u ∧ u.mem = s.mem ∧ s.mach.freeEntry b.part b.depth = some e
        ∧ { b with granted := some e } ∈ (u.mach.die die).blocked
        ∧ (∀ q ∈ (s.mach.die die).blocked, q ≠ b → q ∈ (u.mach.die die).blocked)
        ∧ (e < (s.mach.die die).entries.length → (u.mach.die die).entries.getD e none = some b.part) ∧ u.mach.cores = s.mach.cores)
    ∧ ((s.mach.die die).blocked.find? (fun b => b.granted.isNone && (s.mach.freeEntry b.part b.depth).isSome) = none →
      exec (.queueEntryGrant die) s = .next s))

/-- R26: LAUNCH_COUNTER_DISCARD discards the counter of a launch that has been COMPLETE while 1,024 further launches reached COMPLETE; its
handle then names nothing, and every other counter stays. -/
def Clauses.LaunchCountersAreDiscarded : Prop :=
  ∀ (s : State) (h handle : Nat), s.mach.out = [] → h < s.mach.parts.length →
    ∃ u, exec (.launchCounterDiscard h handle) s = .next u ∧ u.mem = s.mem ∧ u.mach.cores = s.mach.cores
      ∧ ∀ l : Launch, l ∈ (u.mach.work h).launches ↔ (l ∈ (s.mach.work h).launches
          ∧ ¬ (l.handle = handle ∧ l.counter.complete = true ∧ 1024 ≤ l.completions))

/-- R26, R27, R288: queue entries are granted in order, and old launch counters are discarded. -/
def Obligations.EntriesAreGrantedAndCountersDiscarded : Prop :=
  Clauses.QueueEntriesAreGrantedInOrder
  ∧ Clauses.LaunchCountersAreDiscarded

/-- R30, R31, R39, R55: UNIT_START puts the unit that comes next into the lowest free context of its core: its first bundle can issue 20 cycles
later; its registers and flags are 0, its latches empty, its windows hold zeros in the numbers of its packet, its inline payload is
pw0, and its privilege is T; where another start comes first, the event changes nothing. The model's own choices in it: log 21. -/
def Obligations.UnitsStartInAFreeContext : Prop :=
  ∀ (s : State) (h : Nat) (b : Batch) (i errs c : Nat), s.mach.out = [] → s.mach.nextStart h = some (.unit b i errs c) →
    s.mach.Has c (s.mach.core c).freeCtx →
    let k := (s.mach.core c).freeCtx
    let p := b.packet
    (s.mach.ctx c k).status = .free ∧ (∀ j, j < k → (s.mach.ctx c j).status ≠ .free)
    ∧ (∃ u, exec (.unitStart h b.id) s = .next u
      ∧ (let x := u.mach.ctx c k
        x.status = .ready ∧ x.issueAt = s.mach.cycle + 20 ∧ x.pc = p.code ∧ x.priv = .task
        ∧ x.unit.map (·.index) = some i ∧ x.unit.map (·.depth) = some b.depth
        ∧ x.g = List.replicate 64 ⟨0, 0, 0, 0⟩ ∧ x.p = List.replicate 16 false ∧ x.latch = List.replicate 24 ⟨none, false⟩
        ∧ x.csw = 0 ∧ x.v = List.replicate p.nv (List.replicate 256 0) ∧ x.vm = List.replicate p.nvm 0
        ∧ ((∀ e ∈ b.views, e.tile = false) → x.acc = List.replicate p.nacc (List.replicate 256 0)) ∧ x.fv = List.replicate p.nfv .zero
        ∧ x.cb = List.replicate p.ncb none ∧ x.ownPrio = min p.prio (s.mach.part b.part).ceil
        ∧ x.pw.head? = some (if p.inl = [] then .unbound else .inl p.inl))
      ∧ (∀ d j, (d ≠ c ∨ j ≠ k) → (u.mach.ctx d j).g = (s.mach.ctx d j).g ∧ (u.mach.ctx d j).status = (s.mach.ctx d j).status))
    ∧ (∀ n, n ≠ b.id → exec (.unitStart h n) s = .next s)

/-- R23, R293: SUBQ_ENTRY_TAKE reads the packet at HEAD: a packet that it refuses makes HEAD pass and leaves a result word with V = 1, the
refusal's cause and handle 0 behind the packet; one that it accepts makes HEAD pass and leaves V = 1, status 0 and the new handle; one that no entry
can hold waits, HEAD staying. An entry whose read meets a data error stays at HEAD with a record of type 0x0B, and nothing of it is taken before the
queue's control register is written. The model's own choices in it: log 56. -/
def Obligations.HostSubmissionsAreTaken : Prop :=
  ∀ (s : State) (h key : Nat), s.mach.out = [] → h < s.mach.parts.length → s.mach.subqReady h = true →
    let w := s.mach.work h
    let a := w.subqBase.toNat + 512 * w.subqHead
    windowOf a = .host → deviceKey s.mem s.mach h a = some key → s.mem.wf = true →
    let bytes := peekAll s.mem s.mach (upFrom key 256)
    let ws := wordsOf (bytes.take (packetBytes (word (natLE (bytes.take 8)))))
    let st := s.mach.refusal h false 0 ws
    let head := (w.subqHead + 1) % 2 ^ min w.subqSize 12
    (∀ code c, partOf c = h → ∃ u at_ rec, exec (.dataError code c .entry) s = .next u ∧ u.mem = s.mem ∧ u.mach.cores = s.mach.cores
        ∧ (u.mach.work h).subqHead = w.subqHead ∧ (u.mach.work h).launches = w.launches ∧ u.mach.subqReady h = false
        ∧ (at_, Event.faultRecordPerform h rec) ∈ u.mach.agenda ∧ (rec.getD 0 0).toNat / 2 ^ 56 = 0x0B)
    ∧ (st ≠ 0 → ∃ u, exec (.subqEntryTake h) s = .next u ∧ (u.mach.work h).subqHead = head
        ∧ u.mem = s.mem.writeAll ((upFrom (key + 256) 8).zip (bytesLE 8 (2 ^ 63 + st * 2 ^ 32)))
        ∧ (u.mach.work h).launches = w.launches ∧ u.mach.cores = s.mach.cores)
    ∧ (st = 0 → s.mach.claimEntry (160 + h) 0 h 0 = none → ∃ u, exec (.subqEntryTake h) s = .next u ∧ u.mem = s.mem
        ∧ (u.mach.work h).subqHead = w.subqHead ∧ (u.mach.work h).launches = w.launches)
    ∧ (∀ e m1, st = 0 → s.mach.claimEntry (160 + h) 0 h 0 = some (e, m1) →
        let r := m1.acceptLaunch h (packetOf ws) e (some (key + 256))
        exec (.subqEntryTake h) s = .next (commit s ((r.2.onWork h (·.subqNext)).writeWord (key + 256) (resultWord false 0 r.1))))

/-- R14: UNIT_STOP_ON_CANCEL stops a cancelled unit that is blocked or frozen outside a handler: it issues nothing more; once its engine
commands, stores and privileged operation have ended its context is free and it counts in CANCELLED of its launch and of its job. -/
def Clauses.CancelledUnitsStopAndCount : Prop :=
  ∀ (s : State) (c k : Nat) (un : UnitId), s.mach.Has c k → s.mach.out = [] → (s.mach.ctx c k).unit = some un →
    let x := s.mach.ctx c k
    (x.cancelled = true → x.trap.active = false → (x.isBlocked = true ∨ (x.frozen = true ∧ x.status = .ready)) →
      ∃ u, exec (.unitStopOnCancel c k) s = .next u ∧ u.mem = s.mem ∧ (u.mach.ctx c k).status = .stopping
        ∧ (u.mach.ctx c k).g = x.g ∧ (u.mach.core c).running ≠ some k)
    ∧ (x.status = .stopping → (∀ q ∈ (s.mach.core c).mx, q.ctx ≠ k) → (∀ q ∈ (s.mach.core c).tf, q.ctx ≠ k) → x.pend = [] →
      x.buffer = [] → x.privOp = none →
      exec (.unitStopOnCancel c k) s
        = .next (commit s (((s.mach.freeCtx c k).countCancelled (partOf c) un).postStart (partOf c)))
      ∧ ∃ u, exec (.unitStopOnCancel c k) s = .next u ∧ u.mem = s.mem ∧ (u.mach.ctx c k).status = .free ∧ (u.mach.ctx c k).unit = none
        ∧ (∀ l, (s.mach.work (partOf c)).launch un.handle = some l → ∃ l', (u.mach.work (partOf c)).launch un.handle = some l'
            ∧ l'.counter.cancelled = l.counter.cancelled + 1 ∧ l'.counter.done = l.counter.done ∧ l'.counter.issued = l.counter.issued)
        ∧ (partOf c < s.mach.parts.length → ((u.mach.work (partOf c)).jobLevel un.job).counter.cancelled
            = ((s.mach.work (partOf c)).jobLevel un.job).counter.cancelled + 1))
    ∧ (x.cancelled = false → x.status ≠ .stopping → exec (.unitStopOnCancel c k) s = .next s)

/-- R298 to R302: UNIT_SAVE, once all that the unit waits for has come, begins the save if it fits a slot, gives the pre-emption up if it does
not, and 40 + size / 256 cycles later frees the context (or keeps it reserved for live pending vectors), with the unit on the resume list,
its save holding the state as it stood, the live registers among it; UNIT_RESUME restores the saved state after the latency of
a start and of the save's size; at its end the context is ready with the state that was saved. -/
def Clauses.UnitsAreSavedAndResumed : Prop :=
  (∀ (s : State) (c k : Nat) (un : UnitId), s.mach.Has c k → s.mach.out = [] → (s.mach.ctx c k).unit = some un →
    (s.mach.ctx c k).status = .saving →
    let x := s.mach.ctx c k
    let n := saveBytes x x.record
    (x.saveSet = true → exec (.unitSave c k) s = .next (commit s (s.mach.finishSave c k un)))
    ∧ (x.saveSet = true → x.cancelled = false → partOf c < s.mach.parts.length → ∃ u v, exec (.unitSave c k) s = .next u ∧ u.mem = s.mem
        ∧ (u.mach.work (partOf c)).saves = (s.mach.work (partOf c)).saves ++ [v] ∧ v.unit = un ∧ v.core = c ∧ v.due = none ∧ v.bytes = n
        ∧ (u.mach.ctx c k).unit = none
        ∧ (if savesPending x x.record then (u.mach.ctx c k).status = .reserved ∧ v.reserved = some k
          else (u.mach.ctx c k).status = .free ∧ v.reserved = none)
        ∧ (let y := v.image
          y.unit = some un ∧ y.p = x.p ∧ y.csw = x.csw ∧ y.cb = x.cb ∧ y.tx = x.tx ∧ y.rx = x.rx ∧ y.ports = x.ports ∧ y.ranges = x.ranges
          ∧ y.arms = x.arms ∧ y.priv = x.priv ∧ y.views = x.views ∧ y.spawns = x.spawns ∧ y.children = x.children ∧ y.brec = x.brec
          ∧ ((x.record.getD 1 0).toNat % 2 ^ 48 = 0 → y.pc = x.pc ∧ y.loop = x.loop)
          ∧ ∀ i, i < 64 → i < x.g.length → (x.record.getD 2 0).getLsbD i = true → y.g.getD i ⟨0, 0, 0, 0⟩ = x.g.getD i ⟨0, 0, 0, 0⟩))
    ∧ (x.saveSet = false → x.settled = false → exec (.unitSave c k) s = .next s)
    ∧ (x.saveSet = false → x.settled = true →
        ((s.mach.work (partOf c)).slotKb * 1024 < n ∨ (s.mach.work (partOf c)).slots ≤ s.mach.slotsTaken (partOf c)) →
        ∃ u, exec (.unitSave c k) s = .next u ∧ (u.mach.ctx c k).status = .ready ∧ (u.mach.ctx c k).g = x.g)
    ∧ (x.saveSet = false → x.settled = true → n ≤ (s.mach.work (partOf c)).slotKb * 1024 →
        s.mach.slotsTaken (partOf c) < (s.mach.work (partOf c)).slots →
        ∃ u, exec (.unitSave c k) s = .next u ∧ (u.mach.ctx c k).saveSet = true
          ∧ (s.mach.cycle + (40 + (n + 255) / 256), Event.unitSave c k) ∈ u.mach.agenda))
  ∧ (∀ (s : State) (h uid : Nat) (v : Save), s.mach.out = [] →
      (s.mach.work h).saves.find? (fun v => v.unit.uid == uid) = some v →
      (v.due = none → ∀ q, s.mach.nextStart h = some (.saved q) → q.unit.uid = uid →
        s.mach.Has v.core (v.reserved.getD (s.mach.core v.core).freeCtx) →
        ∃ u, exec (.unitResume h uid) s = .next u
          ∧ (u.mach.ctx v.core (v.reserved.getD (s.mach.core v.core).freeCtx)).status = .restoring
          ∧ (s.mach.cycle + 20 + (40 + (v.bytes + 255) / 256), Event.unitResume h uid) ∈ u.mach.agenda)
      ∧ (∀ t k, v.due = some t → t ≤ s.mach.cycle → v.reserved = some k → v.held = [] → s.mach.Has v.core k →
        ∃ u, exec (.unitResume h uid) s = .next u ∧ (∀ q ∈ (u.mach.work h).saves, q.unit.uid ≠ uid)
          ∧ (let x := u.mach.ctx v.core k
            x.status = .ready ∧ x.g = v.image.g ∧ x.p = v.image.p ∧ x.pc = v.image.pc ∧ x.v = v.image.v ∧ x.vm = v.image.vm
            ∧ x.acc = v.image.acc ∧ x.fv = v.image.fv ∧ x.tl = v.image.tl ∧ x.csw = v.image.csw ∧ x.rx = v.image.rx
            ∧ x.tx = v.image.tx ∧ x.priv = v.image.priv ∧ x.unit = v.image.unit)))

/-- R14, R298 to R302: cancelled units stop and count, and a saved unit resumes with the state it was saved with. The model's own choices in it: logs 49, 57, 87, 102. -/
def Obligations.UnitsAreCancelledSavedAndResumed : Prop :=
  Clauses.CancelledUnitsStopAndCount
  ∧ Clauses.UnitsAreSavedAndResumed

/-- R34, R35, R343, R322, R327, R335: MERGE_STEP folds the next block or row of the step in progress, a child's view into the accumulated one, element by
element with the operator of the entry, an absent view counting as the identity; the child's block is freed, or becomes the accumulated
one where there was none; after the last the step ends. JOIN_COMPLETE starts the next block or row of the fold of the accumulated view into
the parent's object and, when its time has come, folds it, and completes a join whose children left nothing. A block whose storage cannot
be reached suspends the step there, and while CURSOR lies in host memory and no module is trained the merge waits. An element folds by the
operator OP. The model's own choices in it: logs 51, 52, 98. -/
def Obligations.ViewsAreMergedBlockByBlock : Prop :=
  let folded (m : Mach) (e : ViewEntry) (as bs : List Byte) : List Byte :=
    ((chunks e.esize (as.length / e.esize) as).zip (chunks e.esize (as.length / e.esize) bs)).flatMap fun p =>
      bytesLE e.esize (foldElem m e (natLE p.1) (natLE p.2))
  let cells (m : Mach) (e : ViewEntry) (as bs : List Cell) : List Cell :=
    (as.zip bs).map fun p => BitVec.ofNat 32 (foldElem m e p.1.toNat p.2.toNat)
  (∀ (s : State) (h parent : Nat) (f : Family) (kid : Child), s.mach.out = [] → s.mach.family h parent = some f → f.busy = true →
    f.final = false → f.suspended = false → f.kids[f.folded]? = some kid →
    (s.mach.cursorDown f = true → exec (.mergeStep h parent) s = .next (commit s (s.mach.again (.mergeStep h parent))))
    ∧ (s.mach.cursorDown f = false → f.resuming = true →
      exec (.mergeStep h parent) s = exec (.mergeStep h parent) { s with mach := s.mach.showResumed h f })
    ∧ (s.mach.cursorDown f = false → f.resuming = false → f.nextWork (some kid) (f.table.length + 1) f.entry f.block = none →
      exec (.mergeStep h parent) s = .next (commit s (s.mach.endStep h f kid)))
    ∧ (∀ n b, s.mach.cursorDown f = false → f.resuming = false →
      f.nextWork (some kid) (f.table.length + 1) f.entry f.block = some (n, b) →
      let e := f.table.getD n default
      let mine := findBlock f.accBlocks n (e.line b)
      let theirs := findBlock kid.blocks n (e.line b)
      let walks := s.mach.poolWalks s.mem h f.core ((mine.toList ++ theirs.toList).map (·.block))
      let size := (e.part b).2
      let idn := identityBytes s.mach e size
      let key (q : ViewBlock) : Option Nat := (deviceBlock s.mem s.mach h f.core q.block).map (· + (e.part b).1 % 64)
      let bytes (k : Nat) : List Byte := (upFrom k size).map s.mem.read
      let goesOn (u : State) (acc : List ViewBlock) : Prop := (s.mach.cycle + 1, Event.mergeStep h parent) ∈ u.mach.agenda
        ∧ ∃ f', u.mach.family h parent = some f' ∧ f'.accBlocks = acc ∧ f'.entry = n ∧ f'.block = b + 1
      let cursor := match f.nextWork (some kid) (f.table.length + 1) n (b + 1) with
        | some (n', _) => if n' = n then b + 1 else 0
        | none => 0
      let wrote (u : State) (k : Nat) (new : List Byte) : Prop :=
        u.mem = s.mem.writeAll ((upFrom k new.length).zip new ++ (upFrom (e.slotAddr + 12) 4).zip (bytesLE 4 cursor))
      (e.tile = true → ∃ u, exec (.mergeStep h parent) s = .next u ∧ u.mem = s.mem ∧ goesOn u f.accBlocks
        ∧ ∀ f', u.mach.family h parent = some f' → f'.accTiles = f.accTiles.map fun p => if p.1 = n then
            (p.1, modifyAt (fun row => cells s.mach e row (((kid.tiles.lookup n).getD []).getD b [])) b p.2) else p)
      ∧ (e.tile = false → walks.1 ≠ 0 →
        exec (.mergeStep h parent) s = .next (commit s (walks.2.post (s.mach.cycle + walks.1) (.mergeStep h parent))))
      ∧ (e.tile = false → walks.1 = 0 →
        (∀ p q kp kq, mine = some p → theirs = some q → key p = some kp → key q = some kq → ∃ u, exec (.mergeStep h parent) s = .next u
          ∧ wrote u kp (folded s.mach e (bytes kp) (bytes kq)) ∧ goesOn u f.accBlocks
          ∧ ∀ i, i ∈ (u.mach.part h).poolUsed ↔ (i ∈ (s.mach.part h).poolUsed ∧ i ≠ q.block))
        ∧ (∀ p kp, mine = some p → theirs = none → key p = some kp → ∃ u, exec (.mergeStep h parent) s = .next u
          ∧ wrote u kp (folded s.mach e (bytes kp) idn) ∧ goesOn u f.accBlocks)
        ∧ (∀ q kq, mine = none → theirs = some q → key q = some kq → ∃ u, exec (.mergeStep h parent) s = .next u
          ∧ wrote u kq (folded s.mach e idn (bytes kq)) ∧ goesOn u (f.accBlocks ++ [q]))
        ∧ (∀ q, (mine = some q ∨ theirs = some q) → key q = none →
          exec (.mergeStep h parent) s = .next (commit s (s.mach.suspendMerge h f n b 6))))))
  ∧ (∀ (s : State) (h parent c k : Nat) (f : Family), s.mach.out = [] → s.mach.family h parent = some f →
    s.mach.findUnit h parent = some (c, k) → f.suspended = false →
    let x := s.mach.ctx c k
    (f.busy = false → s.mach.foldReady c k f = true → f.any = false →
      exec (.joinComplete h parent) s = .next (commit s (s.mach.dropFamily h parent)))
    ∧ (f.busy = true → f.final = true → (s.mach.cursorDown f = true →
        exec (.joinComplete h parent) s = .next (commit s (s.mach.again (.joinComplete h parent))))
      ∧ (s.mach.cursorDown f = false → f.resuming = true →
        exec (.joinComplete h parent) s = exec (.joinComplete h parent) { s with mach := s.mach.showResumed h f }))
    ∧ (∀ n b, f.busy = true → f.final = true → s.mach.cursorDown f = false → f.resuming = false → f.target = none → f.nextWork none (f.table.length + 1) f.entry f.block = some (n, b) →
      let e := f.table.getD n default
      (e.tile = true → ∃ u, exec (.joinComplete h parent) s = .next u ∧ u.mem = s.mem
        ∧ (s.mach.cycle + 1, Event.joinComplete h parent) ∈ u.mach.agenda)
      ∧ (∀ d, e.tile = false → objectBytes s.mem h c k x.ownViews x.priv (upFrom (e.part b).1 (e.part b).2) s.mach = .error d →
        exec (.joinComplete h parent) s = .next (commit s (s.mach.suspendMerge h f n b d))))
    ∧ (∀ keys acc, f.busy = true → f.final = true → s.mach.cursorDown f = false → f.resuming = false → f.target = some (keys, acc) →
      let e := f.table.getD f.entry default
      let cursor := match f.nextWork none (f.table.length + 1) f.entry (f.block + 1) with
        | some (n', _) => if n' = f.entry then f.block + 1 else 0
        | none => 0
      let theirs := if acc = [] then identityBytes s.mach e keys.length else acc.map s.mem.read
      (s.mach.cycle < f.stepEnd → exec (.joinComplete h parent) s = .next (commit s (s.mach.post f.stepEnd (.joinComplete h parent))))
      ∧ (f.stepEnd ≤ s.mach.cycle → e.tile = true → exec (.joinComplete h parent) s
        = .next (commit s ((foldParentTile s.mach c k f f.entry f.block e).nextFold s.mem h c k { f with target := none } f.entry (f.block + 1))))
      ∧ (f.stepEnd ≤ s.mach.cycle → e.tile = false → exec (.joinComplete h parent) s
        = .next (commit s (((foldObject s.mem s.mach h f f.entry f.block e keys acc).writeCursor e cursor).nextFold s.mem h c k
            { f with target := none } f.entry (f.block + 1))))
      ∧ (keys.any isBarrierKey = false → (foldObject s.mem s.mach h f f.entry f.block e keys acc).out = keys.zip (folded s.mach e (keys.map s.mem.read) theirs))
      ∧ (foldParentTile s.mach c k f f.entry f.block e).ctx c k = x.setTileRow e.shape f.block
          (cells s.mach e (x.tileRow e.shape f.block) (((f.accTiles.lookup f.entry).getD []).getD f.block []))))
  ∧ (∀ (m : Mach) (e : ViewEntry) (a b : Nat), a < 2 ^ 32 → b < 2 ^ 32 →
      let fl (f : Fl → Fl → Fl) : Nat := f32.encode false (f (f32.decode a) (f32.decode b))
      foldElem m { e with op := 0 } a b = fl Fl.add ∧ foldElem m { e with op := 1 } a b = (a + b) % 2 ^ 32
      ∧ foldElem m { e with op := 2 } a b = fl Fl.max ∧ foldElem m { e with op := 3 } a b = fl Fl.min
      ∧ foldElem m { e with op := 4 } a b = a &&& b ∧ foldElem m { e with op := 5 } a b = a ||| b ∧ foldElem m { e with op := 6 } a b = a ^^^ b)

/-! ## Errors and registers without an encoding (spec/16_fabric.md, spec/17_scheduling.md, spec/18_translation_faults.md) -/

/-- R323, R324, R325: DATA_ERROR halts the core that holds the hardware unit, for every unit code but 8 and 9, and starts a self-test that ends 20,000
cycles later, be the work that met the error on that core or another; SELF_TEST_COMPLETE waits until the halted core is still, then releases it
after a pass and retires it after a fail, and writes a record of type 0x06 with the unit code; for codes 8 and 9 no core is halted or retired. A unit
that the passed test was for runs again in its context, on whatever core, with one error more, from its code with its registers at zero; a core that
fails holds no unit any more. A core halted for another cause stays halted. The model's own choices in it: logs 66, 67, 127, 128. -/
def Obligations.DataErrorsHaltTestAndRelease : Prop :=
  (∀ (s : State) (code c d k : Nat), c < s.mach.cores.length → s.mach.out = [] →
    ∃ u pass, exec (.dataError code c (.unit d k)) s = .next u ∧ u.mem = s.mem
      ∧ (code ≠ 8 → code ≠ 9 → (u.mach.core c).halted = true ∧ (u.mach.core c).jobsHalted = ((s.mach.core c).jobsHalted || !(s.mach.core c).halted))
      ∧ (code = 8 ∨ code = 9 → u.mach.cores = s.mach.cores)
      ∧ (∃ t ∈ u.mach.tests, t.core = c ∧ t.code = code ∧ t.met = .unit d k ∧ t.due = s.mach.cycle + 20000)
      ∧ (s.mach.cycle + 20000, Event.selfTestComplete c pass) ∈ u.mach.agenda
      ∧ ∀ d j, (u.mach.ctx d j).g = (s.mach.ctx d j).g ∧ (u.mach.ctx d j).acc = (s.mach.ctx d j).acc)
  ∧ (∀ (s : State) (t : SelfTest) (pass : Bool), s.mach.out = [] → s.mach.tests = [t] → t.core < s.mach.cores.length → t.due ≤ s.mach.cycle →
    let c := t.core
    (t.code ≠ 8 → t.code ≠ 9 → s.mach.coreStill c = false → ∃ u, exec (.selfTestComplete c pass) s = .next u ∧ u.mach.tests = [t]
      ∧ u.mach.cores = s.mach.cores ∧ (s.mach.cycle + 1, Event.selfTestComplete c pass) ∈ u.mach.agenda)
    ∧ (t.code ≠ 8 → t.code ≠ 9 → s.mach.coreStill c = true → (∀ k, (s.mach.ctx c k).unit = none) →
        (∀ v ∈ (s.mach.work (partOf c)).saves, v.core ≠ c) → ∀ k, t.met = .unit c k →
      ∃ u, exec (.selfTestComplete c pass) s = .next u ∧ u.mach.tests = []
        ∧ (pass = false → (u.mach.core c).retired = true)
        ∧ (pass = true → (u.mach.core c).retired = (s.mach.core c).retired
            ∧ ((∀ w ∈ (s.mach.core c).haltCauses, w = .test) → (u.mach.core c).halted = false)
            ∧ ((∃ w ∈ (s.mach.core c).haltCauses, w ≠ .test) → (u.mach.core c).halted = (s.mach.core c).halted))
        ∧ ∃ at_ rec, (at_, Event.faultRecordPerform (partOf c) rec) ∈ u.mach.agenda
          ∧ rec.getD 0 0 = word (0x06 * 2 ^ 56 + 0x0D * 2 ^ 48 + t.code % 2 ^ 16 * 2 ^ 32))
    ∧ (t.code ≠ 8 → t.code ≠ 9 → s.mach.coreStill c = true → ∀ d k u0, t.met = .unit d k → s.mach.Has d k → (s.mach.ctx d k).unit = some u0 →
        (d = c ∨ s.mach.ctxStill d k = true) →
        s.mach.findUnit (partOf d) u0.uid = some (d, k) → (s.mach.ctx d k).status ≠ .merging → (s.mach.ctx d k).status ≠ .stopping →
      (u0.errors < 2 → pass = true → ∃ u u1, exec (.selfTestComplete c pass) s = .next u ∧ u.mach.tests = []
        ∧ (u.mach.ctx d k).unit = some u1 ∧ u1.errors = u0.errors + 1 ∧ u1.handle = u0.handle ∧ u1.index = u0.index ∧ u1.packet = u0.packet
        ∧ u1.blocks = [] ∧ (u.mach.ctx d k).status = .ready ∧ (u.mach.ctx d k).pc = u0.packet.code
        ∧ (∀ i, (u.mach.ctx d k).g.getD i ⟨0, 0, 0, 0⟩ = ⟨0, 0, 0, 0⟩) ∧ (u.mach.ctx d k).cancelled = (s.mach.ctx d k).cancelled
        ∧ ∃ at_ rec, (at_, Event.faultRecordPerform (partOf c) rec) ∈ u.mach.agenda ∧ rec.getD 6 0 = word 3)
      ∧ (pass = false → ∃ u, exec (.selfTestComplete c pass) s = .next u ∧ u.mach.tests = [] ∧ (u.mach.core c).retired = true
        ∧ ∀ j, (u.mach.ctx c j).unit = none))
    ∧ ((t.code = 8 ∨ t.code = 9) → ∀ d k, t.met = .unit d k → (s.mach.ctx d k).unit = none →
      ∃ u, exec (.selfTestComplete c pass) s = .next u ∧ u.mach.tests = [] ∧ (u.mach.core c).retired = (s.mach.core c).retired
        ∧ (u.mach.core c).halted = (s.mach.core c).halted))

/-- R318: FAULT_RECORD_PERFORM writes the record at HEAD of its partition's fault queue, and HEAD passes it in the cycle after, when the flag
that FLT_NOTE names is set; with no queue or a full one the record is dropped and DROPPED counts it, stopping at 0xFFFF. -/
def Clauses.FaultRecordsArePerformed : Prop :=
  ∀ (s : State) (h : Nat), s.mach.out = [] → h < s.mach.parts.length → h ∉ s.mach.records →
    let p := s.mach.part h
    let n := 2 ^ p.fltqSize
    let at_ := p.fltqHead % n
    (∀ r : List Word, r ≠ [] → (p.fltqSize = 0 ∨ (at_ + 1) % n = p.fltqTail % n) →
      ∃ u, exec (.faultRecordPerform h r) s = .next u ∧ u.mem = s.mem ∧ (u.mach.part h).fltqDropped = min (p.fltqDropped + 1) 0xFFFF
        ∧ (u.mach.part h).fltqHead = p.fltqHead ∧ u.mach.cores = s.mach.cores)
    ∧ (∀ r key, r ≠ [] → p.fltqSize ≠ 0 → (at_ + 1) % n ≠ p.fltqTail % n →
        (windowOf (p.fltqBase + 64 * at_) = .vault ∨ windowOf (p.fltqBase + 64 * at_) = .hbm) →
        deviceKey s.mem s.mach h (p.fltqBase + 64 * at_) = some key →
      ∃ u, exec (.faultRecordPerform h r) s = .next u
        ∧ u.mem = s.mem.writeAll ((upFrom key (8 * r.length)).zip (r.flatMap fun w => bytesLE 8 w.toNat))
        ∧ u.mach.part h = p ∧ h ∈ u.mach.records ∧ (s.mach.cycle + 1, Event.faultRecordPerform h []) ∈ u.mach.agenda)
    ∧ (∀ m : Mach, m.out = [] → h < m.parts.length → h ∈ m.records →
      ∃ u, exec (.faultRecordPerform h []) ⟨s.mem, m⟩ = .next u ∧ u.mem = s.mem
        ∧ (u.mach.part h).fltqHead = ((m.part h).fltqHead + 1) % 2 ^ (m.part h).fltqSize
        ∧ (let w := (m.part h).note
          (w.getLsbD 7 = false → u.mach.cores = m.cores)
          ∧ (w.getLsbD 7 = true → m.Has (w.toNat / 2 ^ 16 % 256) (w.toNat % 8) →
            w.toNat / 2 ^ 8 % 16 < (m.ctx (w.toNat / 2 ^ 16 % 256) (w.toNat % 8)).p.length →
            (u.mach.ctx (w.toNat / 2 ^ 16 % 256) (w.toNat % 8)).p.getD (w.toNat / 2 ^ 8 % 16) false = true)))

/-- R282, R318: a read of EVQ_CTL or FLTQ_CTL gives DROPPED, HEAD, TAIL and SIZE after 4 cycles and clears DROPPED. -/
def Clauses.QueueControlReadsClearDropped : Prop :=
  ∀ (s : State) (c k h : Nat), s.mach.Has c k → s.mach.out = [] → h < 8 → s.mach.parts.length = 8 →
    (∃ u, exec (.evqCtlRead c k) s = .next u ∧ u.mem = s.mem ∧ u.mach.evqDropped = 0 ∧ u.mach.evqHead = s.mach.evqHead
      ∧ u.mach.evqTail = s.mach.evqTail
      ∧ (u.mach.ctx c k).ports.cu = ⟨word (s.mach.evqDropped * 2 ^ 48 + s.mach.evqHead * 2 ^ 32 + s.mach.evqTail * 2 ^ 16
          + s.mach.evqSize), s.mach.cycle + 4, none⟩)
    ∧ (∃ u, exec (.fltqCtlRead c k h) s = .next u ∧ u.mem = s.mem
      ∧ (let p := s.mach.part h
        u.mach.part h = { p with fltqDropped := 0 }
        ∧ (u.mach.ctx c k).ports.cu = ⟨word (p.fltqDropped * 2 ^ 48 + p.fltqHead * 2 ^ 32 + p.fltqTail * 2 ^ 16 + p.fltqSize),
            s.mach.cycle + 4, none⟩)
      ∧ ∀ j, j ≠ h → u.mach.part j = s.mach.part j)

/-- R282, R318: fault records reach their queue or are counted as dropped; a read of a queue's control clears DROPPED. The model's own choices in it: log 63. -/
def Obligations.FaultRecordsReachTheirQueue : Prop :=
  Clauses.FaultRecordsArePerformed
  ∧ Clauses.QueueControlReadsClearDropped

/-- R275, R293, R304, R320, R322, R335, R338: RESUME lets a suspended job of the named core queue again and ignores a handle of another partition; PART_CTL_FRESH with
SAVED = 1 makes the other bank resident with every context free, and is ignored with SAVED = 0; FB_CTL_REVERT asks a port with a programmed table to go
back to the default rotor; SUBQ_TAIL_WRITE sets TAIL of a submission queue, and changes nothing with no trained module and in recovery (deduced, log 68).
RESUME of a merge lets the suspended family of the parent in the named context go on, where the entry that it stands at is the one named, with
SUSP = 0 in its CURSOR, at once unless that lies in host memory with no module trained. -/
def Clauses.ResumeFreshRevertAndTailAct : Prop :=
  ∀ (s : State), s.mach.out = [] →
    (∀ (h : Nat) (handle : Word), (159 < handle.toNat / 2 ^ 48 % 256 ∨ partOf (handle.toNat / 2 ^ 48 % 256) ≠ h) →
      exec (.resume h handle) s = .next s)
    ∧ (∀ (c n : Nat) (j : Job), c < 160 → n < 2 ^ 16 → c < s.mach.cores.length → j ∈ (s.mach.core c).jobs → j.num = n → j.state = .suspended →
      ∃ u, exec (.resume (partOf c) (word (2 ^ 56 + c * 2 ^ 48 + n))) s = .next u ∧ u.mem = s.mem
        ∧ { j with state := .queued } ∈ (u.mach.core c).jobs ∧ (s.mach.cycle, Event.jobBegin c) ∈ u.mach.agenda)
    ∧ (∀ (c k n : Nat) (v : UnitId) (f : Family), c < 160 → k < 8 → n < 8 → partOf c < s.mach.parts.length → (s.mach.ctx c k).unit = some v →
        s.mach.family (partOf c) v.uid = some f →
      let e := Instr.resume (partOf c) (word (2 ^ 57 + c * 2 ^ 48 + k * 2 ^ 8 + n))
      let en := f.table.getD n default
      (f.suspended = true ∧ f.entry = n → ∃ u, exec e s = .next u
        ∧ u.mem = (if en.tile = true ∨ s.mach.cursorDown f = true then s.mem else s.mem.writeAll ((upFrom (en.slotAddr + 12) 4).zip (bytesLE 4 f.block))) ∧ u.mach.cores = s.mach.cores
        ∧ u.mach.family (partOf c) v.uid = some { f with suspended := false, resuming := s.mach.cursorDown f, stepEnd := s.mach.cycle }
        ∧ (s.mach.cycle, if f.final then Event.joinComplete (partOf c) v.uid else Event.mergeStep (partOf c) v.uid) ∈ u.mach.agenda)
      ∧ (f.suspended = false ∨ f.entry ≠ n → exec e s = .next s))
    ∧ (∀ h, (s.mach.part h).saved = false → exec (.partCtlFresh h) s = .next s)
    ∧ (∀ h, (s.mach.part h).saved = true → h < s.mach.parts.length → h < 8 → s.mach.cores.length = 160 →
      ∃ u, exec (.partCtlFresh h) s = .next u ∧ u.mem = s.mem ∧ (u.mach.part h).res = 1 - (s.mach.part h).res
        ∧ (u.mach.work h).launches = [] ∧ (u.mach.work h).batches = [] ∧ (u.mach.work h).saves = []
        ∧ (∀ c k, c < 160 → partOf c = h → (u.mach.ctx c k).status = .free)
        ∧ (∀ c, c < 160 → partOf c ≠ h → u.mach.core c = s.mach.core c))
    ∧ (∀ p, p < s.mach.planes.length → ∃ u, exec (.fbCtlRevert p) s = .next u ∧ u.mem = s.mem
        ∧ (u.mach.plane p).revert = (s.mach.plane p).current.isSome ∧ (u.mach.plane p).current = (s.mach.plane p).current)
    ∧ (∀ h tail, h < s.mach.parts.length →
      (s.mach.boot.modules ≠ 0 → s.mach.boot.state ≠ .recovery → ∃ u, exec (.subqTailWrite h tail) s = .next u ∧ u.mem = s.mem
        ∧ (u.mach.work h).subqTail = tail ∧ (u.mach.work h).subqHead = (s.mach.work h).subqHead ∧ u.mach.cores = s.mach.cores)
      ∧ (s.mach.boot.modules = 0 ∨ s.mach.boot.state = .recovery → exec (.subqTailWrite h tail) s = .next s))

/-- R326: DEBUGGER_ACCESS acts on a frozen context alone, while the link is up and firmware runs: a read changes nothing, a write puts its value into the slice, latch,
flag, result port, trap register or pc that it names and leaves the other registers, a latch takes a word or a reference, its hold bit alone can be written
and it can be emptied; a pc that is written is where the context goes on. -/
def Clauses.DebuggerActsOnFrozenContexts : Prop :=
  ∀ (s : State) (c k : Nat), s.mach.Has c k → s.mach.out = [] →
    let x := s.mach.ctx c k
    (x.frozen = false → ∀ pl act, exec (.debuggerAccess c k pl act) s = .next s)
    ∧ (∀ pl, exec (.debuggerAccess c k pl .read) s = .next s)
    ∧ (x.frozen = true → s.mach.boot.modules ≠ 0 → s.mach.boot.state ≠ .recovery → ∀ (v : Word) (hold : Bool),
      (∀ (i : BitVec 6) (slice : BitVec 2), x.g.length = 64 → ∃ u, exec (.debuggerAccess c k (.g i slice) (.write v hold)) s = .next u
        ∧ (u.mach.ctx c k).g.getD i.toNat ⟨0, 0, 0, 0⟩ = (x.g.getD i.toNat ⟨0, 0, 0, 0⟩).write (BitVec.ofNat 4 (2 ^ (3 - slice.toNat))) v
        ∧ (∀ j, j ≠ i.toNat → (u.mach.ctx c k).g.getD j ⟨0, 0, 0, 0⟩ = x.g.getD j ⟨0, 0, 0, 0⟩)
        ∧ (u.mach.ctx c k).latch = x.latch ∧ (u.mach.ctx c k).p = x.p ∧ (u.mach.ctx c k).pc = x.pc)
      ∧ (∀ l : Latch, x.latch.length = 24 →
        (∃ u, exec (.debuggerAccess c k (.latch l) (.write v hold)) s = .next u
          ∧ (u.mach.ctx c k).latchCell l = ⟨some (.word v), hold⟩ ∧ (u.mach.ctx c k).g = x.g)
        ∧ (∃ u, exec (.debuggerAccess c k (.latch l) .clear) s = .next u
          ∧ (u.mach.ctx c k).latchCell l = ⟨none, false⟩ ∧ (u.mach.ctx c k).g = x.g)
        ∧ (∀ kind index, ∃ u, exec (.debuggerAccess c k (.latch l) (.refer kind index hold)) s = .next u
          ∧ (u.mach.ctx c k).latchCell l = ⟨some (.ref kind index), hold⟩ ∧ (u.mach.ctx c k).g = x.g)
        ∧ (∃ u, exec (.debuggerAccess c k (.latch l) (.setHold hold)) s = .next u
          ∧ (u.mach.ctx c k).latchCell l = ⟨(x.latchCell l).val, hold⟩ ∧ (u.mach.ctx c k).g = x.g))
      ∧ (∀ i : BitVec 4, i.toNat < x.p.length → ∃ u, exec (.debuggerAccess c k (.flag i) (.write v hold)) s = .next u
        ∧ (u.mach.ctx c k).p.getD i.toNat false = (v != 0) ∧ (∀ j, j ≠ i.toNat → (u.mach.ctx c k).p.getD j false = x.p.getD j false)
        ∧ (u.mach.ctx c k).g = x.g ∧ (u.mach.ctx c k).latch = x.latch)
      ∧ (∀ e ∈ ([(0, .cu), (1, .lnk), (2, .ax), (3, .vu), (4, .lu), (5, .xe), (6, .sy), (7, .tf)] : List (BitVec 4 × PortName)),
        ∃ u, exec (.debuggerAccess c k (.port e.1) (.write v hold)) s = .next u ∧ (u.mach.ctx c k).ports.get e.2 = ⟨v, 0, none⟩
        ∧ (∀ n, n ≠ e.2 → (u.mach.ctx c k).ports.get n = x.ports.get n) ∧ (u.mach.ctx c k).g = x.g ∧ (u.mach.ctx c k).latch = x.latch)
      ∧ (∃ u, exec (.debuggerAccess c k (.trapReg 1) (.write v hold)) s = .next u
        ∧ (u.mach.ctx c k).trap = { x.trap with pc := v.toNat % 2 ^ 48 / 16 * 16 } ∧ (u.mach.ctx c k).g = x.g)
      ∧ (∃ u, exec (.debuggerAccess c k (.trapReg 2) (.write v hold)) s = .next u
        ∧ (u.mach.ctx c k).trap = { x.trap with addr := v } ∧ (u.mach.ctx c k).g = x.g)
      ∧ (∀ i, i < 4 → x.trap.scratch.length = 4 → ∃ u, exec (.debuggerAccess c k (.trapReg (BitVec.ofNat 3 (4 + i))) (.write v hold)) s = .next u
        ∧ (u.mach.ctx c k).trap = { x.trap with scratch := x.trap.scratch.set i v } ∧ (u.mach.ctx c k).g = x.g)
      ∧ (∃ u, exec (.debuggerAccess c k (.trapReg 0) (.write v hold)) s = .next u
        ∧ (u.mach.ctx c k).trap = { x.trap with active := v.getLsbD 63, hw := v.getLsbD 62, slots := v.extractLsb' 56 4
                                                priv := if v.toNat / 2 ^ 60 % 4 = 0 then .task else if v.toNat / 2 ^ 60 % 4 = 1 then .s else .f
                                                cause := v.toNat / 2 ^ 16 % 256, detail := v.toNat % 2 ^ 16 }
        ∧ (u.mach.ctx c k).g = x.g)
      ∧ (∃ u, exec (.debuggerAccess c k .pc (.write v hold)) s = .next u ∧ (u.mach.ctx c k).pc = v.toNat % 2 ^ 48 / 16 * 16
          ∧ (u.mach.ctx c k).g = x.g ∧ (u.mach.ctx c k).frozen = true))

/-- R275, R293, R304, R320, R322, R326, R335, R338: RESUME, FRESH, REVERT, TAIL and the debugger act as their rules give them. The model's own choices in it: logs 65, 68, 76, 97. -/
def Obligations.ResumeRevertAndDebuggerAct : Prop :=
  Clauses.ResumeFreshRevertAndTailAct
  ∧ Clauses.DebuggerActsOnFrozenContexts

/-- R290: a write of PART_Q sets WPMAX to a value from 1,024 to 262,144 and Q to one from 256 on, and leaves a field as it was where the value lies outside its
range; the register reads them back; a context takes the new values at its next switch point and not before; at reset they are 16,384 and 20,000. -/
def Obligations.PartQKeepsItsFieldsInRange : Prop :=
  (∀ (s : State) (c k h : Nat) (v : Word), s.mach.Has c k → s.mach.out = [] → h < 8 → s.mach.parts.length = 8 →
    ¬ (s.mach.ctx c k).priv.rank < (regLevel (partOf c) (0x108 + h) true).rank →
    let n := v.toNat / 2 ^ 24 % 2 ^ 19
    let q := v.toNat % 2 ^ 24
    let w := s.mach.work h
    ∃ u, exec (.systemRegisterWrite c k (0x108 + h) v) s = .next u ∧ u.mem = s.mem ∧ u.mach.cores = s.mach.cores
      ∧ (u.mach.work h).wpMax = (if 1024 ≤ n ∧ n ≤ 262144 then n else w.wpMax)
      ∧ (u.mach.work h).quantum = (if 256 ≤ q then q else w.quantum)
      ∧ u.mach.readReg c k (0x108 + h) = word ((u.mach.work h).wpMax * 2 ^ 24 + (u.mach.work h).quantum))
  ∧ (∀ (m : Mach) (c k : Nat), m.Has c k → ((m.switchOut c k).ctx c k).quantum = (m.work (partOf c)).quantum
      ∧ ((m.switchOut c k).ctx c k).wpMax = (m.work (partOf c)).wpMax)
  ∧ (∀ h, (State.reset.mach.work h).wpMax = 16384 ∧ (State.reset.mach.work h).quantum = 20000)

/-! ## Fabric ports (spec/16_fabric.md, spec/20_prog_laser_failure.md) -/

/-- R271, R272, R275, R280: TIMETABLE_SLOT_BOUNDARY, once the present entry has ended, moves an enabled port on: to the next entry of its programmed table, in the
default rotor to the slot that the domain time gives, to entry 0 of a pending table whose START has come, which opens 20 ns later, or, after REVERT,
at a multiple of 250 ns to the default rotor; lanes that have been lit long enough rejoin. Before the entry has ended it changes nothing. The model's own choices in it: log 62. -/
def Obligations.SlotBoundariesFollowTheTimetable : Prop :=
  ∀ (s : State) (p : Nat) (heard : BitVec 16), s.mach.out = [] → p < s.mach.planes.length →
    let pl := s.mach.plane p
    let t := s.mach.fbTime
    ((pl.enable = false ∨ t < s.mach.slotEnd p) → exec (.timetableSlotBoundary p heard) s = .next s)
    ∧ (pl.enable = true → s.mach.slotEnd p ≤ t →
      ∃ u, exec (.timetableSlotBoundary p heard) s = .next u ∧ u.mem = s.mem ∧ u.mach.cores = s.mach.cores
        ∧ (∃ t', (t', Event.timetableSlotBoundary p 0xFFFF) ∈ u.mach.agenda)
        ∧ (let q := u.mach.plane p
          q.txLive = pl.txLive ||| pl.rejoinTx ∧ q.rxLive = pl.rxLive ||| pl.rejoinRx ∧ q.rejoinTx = 0 ∧ q.rejoinRx = 0
          ∧ (∀ tt, pl.current = some tt → pl.pending = none → pl.revert = false →
              q.slot = (pl.slot + 1) % tt.entries.length ∧ q.slotStart = t ∧ q.open_ = t ∧ q.current = some tt)
          ∧ (pl.current = none → pl.pending = none → q.slot = t / 250 % 3 ∧ q.slotStart = t ∧ q.open_ = t)
          ∧ (∀ tt, pl.pending = some tt → tt.start ≤ t → (pl.revert = true → pl.current = none) →
              q.current = some tt ∧ q.pending = none ∧ q.slot = 0 ∧ q.open_ = t + 20)
          ∧ (∀ tt, pl.pending = some tt → t < tt.start → (pl.revert = true → pl.current = none) →
              q.pending = some tt ∧ q.current = pl.current ∧ q.open_ = t)
          ∧ (∀ tt, pl.current = some tt → pl.revert = true → t % 250 = 0 →
              q.current = none ∧ q.revert = false ∧ q.slot = t / 250 % 3 ∧ q.open_ = t + 20)))

/-- R276, R277, R279, R331: FLIT_SEND sends the flit at the front of a peer's queue with the next SEQ, the ACK of what is expected and a good CRC, and keeps it
in the replay buffer; a full buffer of 4,096 flits sends nothing new; an idle flit takes an ACK or a NAK that is due along, and no SEQ; during a replay the unacknowledged flits from the SEQ asked for go first;
FLIT_FILL_TIMEOUT closes for sending a flit that began to fill 8 ns ago. -/
def Clauses.FlitsLeaveInOrder : Prop :=
  ∀ (s : State) (p r : Nat), s.mach.out = [] → p < s.mach.planes.length →
    let pl := s.mach.plane p
    let q := s.mach.peer p r
    let now (start : Nat) : Prop := s.mach.flitStart p r = some start ∧ start < 50 * s.mach.fbTime + 50 ∧ s.mach.parked = []
    (s.mach.flitStart p r = none → exec (.flitSend p r) s = .next s)
    ∧ (∀ start f rest, now start → q.replaying = none → q.queue = f :: rest →
      ∃ u, exec (.flitSend p r) s = .next u ∧ u.mem = s.mem ∧ u.mach.cores = s.mach.cores
        ∧ (pl.replay.length < 4096 → ∃ g : Flit, (u.mach.plane p).replay = pl.replay ++ [g] ∧ g.seq = q.nextSeq ∧ g.ack = q.expected
            ∧ g.kind = (if q.nakNeeded then 2 else 1) ∧ g.payload = f.payload ∧ g.dst = f.dst ∧ g.crc = g.goodCrc
            ∧ (u.mach.peer p r).queue = rest ∧ (u.mach.peer p r).nextSeq = (q.nextSeq + 1) % 65536 ∧ (u.mach.peer p r).nakNeeded = false)
        ∧ (4096 ≤ pl.replay.length → (u.mach.plane p).replay = pl.replay ∧ (u.mach.peer p r).queue = q.queue
            ∧ (u.mach.peer p r).nextSeq = q.nextSeq ∧ (u.mach.peer p r).nakNeeded = false))
    ∧ (∀ start, now start → q.replaying = none → q.queue = [] → (q.nakNeeded = true ∨ q.ackSent ≠ q.expected) →
      ∃ u, exec (.flitSend p r) s = .next u ∧ u.mem = s.mem ∧ (u.mach.plane p).replay = pl.replay ∧ (u.mach.peer p r).nextSeq = q.nextSeq
        ∧ (u.mach.peer p r).ackSent = q.expected ∧ (u.mach.peer p r).nakNeeded = false)
    ∧ (∀ start n f, now start → q.replaying = some n → (pl.unacked r).find? (fun f => !seqBefore f.seq n) = some f →
      ∃ u, exec (.flitSend p r) s = .next u ∧ (u.mach.peer p r).queue = q.queue ∧ (u.mach.peer p r).nextSeq = q.nextSeq
        ∧ (u.mach.peer p r).replaying = (if (pl.unacked r).any fun g => seqBefore f.seq g.seq then some ((f.seq + 1) % 65536) else none)
        ∧ (u.mach.plane p).replay.map (·.seq) = pl.replay.map (·.seq))
    ∧ (∀ since f, q.fill = some (since, f) →
      (s.mach.cycle < since + 8 → exec (.flitFillTimeout p r) s = .next s)
      ∧ (since + 8 ≤ s.mach.cycle → ∃ u, exec (.flitFillTimeout p r) s = .next u ∧ u.mem = s.mem
          ∧ (u.mach.peer p r).queue = q.queue ++ [f] ∧ (u.mach.peer p r).fill = none
          ∧ (s.mach.cycle, Event.flitSend p r) ∈ u.mach.agenda))

/-- R277, R279: FLIT_RECEIVE accepts a data flit with a good CRC, over the header and all 128 bytes that came, and the expected SEQ, which advances; it
discards an older one; for one with a bad CRC or a SEQ beyond, it asks for a NAK; an ACK frees the flits before it from the replay buffer, and a NAK makes the port send again from the SEQ it names; a
flit for another package, on a port that is off or from a peer that no live lane listens to, changes nothing (which entry counts, log 30). A flit
striped over other lanes than the port reads counts as one with a bad CRC (R278; log 122). -/
def Clauses.FlitsAreAcceptedDiscardedOrAskedAgain : Prop :=
  ∀ (s : State) (p src dst seq ack kind plen : Nat) (payload : Striped) (crc : BitVec 32), s.mach.out = [] → p < s.mach.planes.length →
    let pl := s.mach.plane p
    let q := s.mach.peer p src
    let go : Instr := .flitReceive p src dst seq ack kind plen payload crc []
    let head := src * 2 ^ 56 + dst * 2 ^ 48 + seq * 2 ^ 32 + ack * 2 ^ 16 + kind * 2 ^ 12 + plen
    let used := s.mach.lanesFrom p src
    let alike (l : List Nat) : Prop := ∀ b, b < 144 → payload.lanes[b / (144 / payload.lanes.length)]? = l[b / (144 / l.length)]?
    let read : Prop := (used ≠ [] ∧ alike used) ∨ (s.mach.fbTime ≤ pl.slotStart + 100 ∧ ∃ l, (src, l) ∈ pl.heard ∧ alike l)
    let good : Prop := payload.bytes.length = 128 ∧ crc32c (bytesLE 8 head ++ payload.bytes) = crc ∧ read
    let bad : Prop := payload.bytes.length = 128 ∧ (crc32c (bytesLE 8 head ++ payload.bytes) ≠ crc ∨ ¬ read)
    let mine : Prop := pl.enable = true ∧ dst = s.mach.pkg ∧ kind < 3 ∧ s.mach.listens p src = true
    let loud : Prop := ∀ n t, q.nakSeq = some (n, t) → ¬ (n = q.expected ∧ s.mach.fbTime < t + 400)
    let acks (f : Flit) : Bool := f.dst == src && seqBefore f.seq ack
    (¬ mine → exec go s = .next s)
    ∧ (mine → bad → kind = 0 → exec go s = .next s)
    ∧ (mine → bad → kind ≠ 0 → ∃ u, exec go s = .next u ∧ u.mem = s.mem ∧ (u.mach.plane p).replay = pl.replay
        ∧ (u.mach.peer p src).expected = q.expected ∧ (loud → (u.mach.peer p src).nakNeeded = true) ∧ (¬ loud → u = s))
    ∧ (mine → good → kind = 0 → ∃ u, exec go s = .next u ∧ u.mem = s.mem ∧ (u.mach.plane p).replay = pl.replay.filter (!acks ·))
    ∧ (mine → good → kind = 1 → (∀ f ∈ pl.replay, acks f = false) →
      (seq = q.expected → ∃ u, exec go s = .next u ∧ u.mem = s.mem ∧ (u.mach.peer p src).expected = (q.expected + 1) % 65536
          ∧ (u.mach.plane p).replay = pl.replay)
      ∧ (seq ≠ q.expected → seqBefore seq q.expected = true → exec go s = .next s)
      ∧ (seq ≠ q.expected → seqBefore seq q.expected = false → ∃ u, exec go s = .next u ∧ (u.mach.peer p src).expected = q.expected
          ∧ (loud → (u.mach.peer p src).nakNeeded = true)))
    ∧ (mine → good → kind = 2 → plen = 0 → (∀ f ∈ pl.replay, acks f = false) → q.holdUntil = 0 → pl.unacked src ≠ [] →
      ∃ u, exec go s = .next u ∧ (u.mach.peer p src).replaying = some ack ∧ (u.mach.plane p).replay = pl.replay)

/-- R276, R277, R279, R331: flits leave in order and are kept until acknowledged; received ones are accepted, discarded or asked for again. The model's own choices in it: logs 30, 36, 122. -/
def Obligations.FlitsAreSentAndReceivedInOrder : Prop :=
  Clauses.FlitsLeaveInOrder
  ∧ Clauses.FlitsAreAcceptedDiscardedOrAskedAgain

/-- R269, R280, R281, R332: TX_LANE_DARK takes dark lanes, and the four that a dark laser feeds, out of the live set and of those that wait to rejoin, and sends nothing to the peers whose lanes changed for 150 ns; RESTRIPE_HOLD_END
then has their unacknowledged flits sent again from the oldest; RX_LANE_DARK takes dark lanes out and has the event recorded; LANE_RESTORED
lets dark lanes that are lit rejoin; EVENT_RECORD_PERFORM writes the record at HEAD of the host's queue, or counts it in DROPPED. The model's own choices in it: log 89. -/
def Obligations.DarkLanesAreHeldAndRecorded : Prop :=
  (∀ (s : State) (p : Nat) (lanes : BitVec 16) (laser : Nat), s.mach.out = [] → p < s.mach.planes.length →
    let pl := s.mach.plane p
    let dark := lanes ||| (if laser < 4 then (15 : BitVec 16) <<< (4 * laser) else 0)
    (pl.txLive &&& ~~~ dark = pl.txLive → ∃ u, exec (.txLaneDark p lanes laser) s = .next u ∧ u.mem = s.mem ∧ u.mach.agenda = s.mach.agenda
        ∧ u.mach.plane p = { pl with rejoinTx := pl.rejoinTx &&& ~~~ dark, laserOk := (u.mach.plane p).laserOk }
        ∧ (laser < 4 → (u.mach.plane p).laserOk.getLsbD laser = false))
    ∧ (pl.txLive &&& ~~~ dark ≠ pl.txLive → ∃ u, exec (.txLaneDark p lanes laser) s = .next u ∧ u.mem = s.mem
        ∧ (u.mach.plane p).txLive = pl.txLive &&& ~~~ dark ∧ (u.mach.plane p).rxLive = pl.rxLive
        ∧ (u.mach.plane p).replay = pl.replay ∧ (u.mach.plane p).rejoinTx = pl.rejoinTx &&& ~~~ dark
        ∧ (∀ r ∈ s.mach.changedPeers p pl.txLive (pl.txLive &&& ~~~ dark), (u.mach.peer p r).holdUntil = s.mach.fbTime + 150)
        ∧ (s.mach.cycle + 150, Event.restripeHoldEnd p) ∈ u.mach.agenda
        ∧ (laser < 4 → (u.mach.plane p).laserOk.getLsbD laser = false))
    ∧ (pl.rxLive &&& ~~~ lanes = pl.rxLive → ∃ u, exec (.rxLaneDark p lanes) s = .next u ∧ u.mem = s.mem ∧ u.mach.agenda = s.mach.agenda
        ∧ u.mach.plane p = { pl with rejoinRx := pl.rejoinRx &&& ~~~ lanes })
    ∧ (pl.rxLive &&& ~~~ lanes ≠ pl.rxLive → ∃ u rec, exec (.rxLaneDark p lanes) s = .next u ∧ u.mem = s.mem
        ∧ (u.mach.plane p).rxLive = pl.rxLive &&& ~~~ lanes ∧ (u.mach.plane p).txLive = pl.txLive
        ∧ (u.mach.plane p).peers = pl.peers ∧ (s.mach.cycle + 900, Event.eventRecordPerform rec) ∈ u.mach.agenda
        ∧ rec.length = 8 ∧ rec.getD 0 0 = word (2 ^ 56 + p * 2 ^ 48 + 255 * 2 ^ 40 + s.mach.pkg * 2 ^ 32 + pl.txLive.toNat * 2 ^ 16
            + pl.txLive.toNat))
    ∧ (∀ rx : BitVec 16, ∃ u, exec (.laneRestored p lanes rx) s = .next u ∧ u.mem = s.mem
        ∧ (u.mach.plane p).rejoinTx = pl.rejoinTx ||| (lanes &&& ~~~ pl.txLive)
        ∧ (u.mach.plane p).rejoinRx = pl.rejoinRx ||| (rx &&& ~~~ pl.rxLive) ∧ (u.mach.plane p).txLive = pl.txLive)
    ∧ (pl.records = [] → (∀ q ∈ pl.peers, q.holdUntil = 0 ∨ s.mach.fbTime < q.holdUntil) → exec (.restripeHoldEnd p) s = .next s)
    ∧ (∀ q ∈ pl.peers, q.holdUntil ≠ 0 → q.holdUntil ≤ s.mach.fbTime → ∃ u, exec (.restripeHoldEnd p) s = .next u ∧ u.mem = s.mem
        ∧ (u.mach.peer p q.peer).holdUntil = 0 ∧ (u.mach.peer p q.peer).replaying = (pl.unacked q.peer).head?.map (·.seq)
        ∧ (s.mach.cycle, Event.flitSend p q.peer) ∈ u.mach.agenda))
  ∧ (∀ (s : State) (rec : List Word), s.mach.out = [] → s.mach.boot.modules ≠ 0 →
    let n := 2 ^ s.mach.evqSize
    ((s.mach.evqSize = 0 ∨ windowOf s.mach.evqBase ≠ .host ∨ (s.mach.evqHead + 1) % n = s.mach.evqTail % n) →
      ∃ u, exec (.eventRecordPerform rec) s = .next u ∧ u.mem = s.mem ∧ u.mach.evqDropped = min (s.mach.evqDropped + 1) 0xFFFF
        ∧ u.mach.evqHead = s.mach.evqHead)
    ∧ (s.mach.evqSize ≠ 0 → windowOf s.mach.evqBase = .host → (s.mach.evqHead + 1) % n ≠ s.mach.evqTail % n →
      ∃ u, exec (.eventRecordPerform rec) s = .next u ∧ u.mach.evqHead = (s.mach.evqHead + 1) % n ∧ u.mach.evqDropped = s.mach.evqDropped
        ∧ u.mem = s.mem.writeAll ((upFrom (s.mach.evqBase + 64 * (s.mach.evqHead % n)) (8 * rec.length)).zip
            (rec.flatMap fun w => bytesLE 8 w.toNat))))

/-! ## Boot, the host and power (spec/21_bringup_host.md) -/

/-- R337: CAUSE of an image: unreadable where it ends before its header or its body; else bad length for a LENGTH that is not a multiple of 64 from 64 to
16 MiB; else bad signature; else below MINVER; else none. The order where several hold is the model's (log 10). -/
def Clauses.ImagesAreCheckedByLengthSignatureAndVersion : Prop :=
  ∀ bs : List Byte,
    let n := natLE ((bs.drop 4).take 4)
    let goodN : Prop := n % 64 = 0 ∧ 64 ≤ n ∧ n ≤ 2 ^ 24
    let signed := Config.ed448Verify Config.vendorKey (shake256 (bs.take 64 ++ (bs.drop 256).take n)) ((bs.drop 64).take 114)
    (bs.length < 256 → imageCause bs = 5)
    ∧ (256 ≤ bs.length → ¬ goodN → imageCause bs = 2)
    ∧ (256 ≤ bs.length → goodN → bs.length < 256 + n → imageCause bs = 5)
    ∧ (256 + n ≤ bs.length → goodN → signed = false → imageCause bs = 1)
    ∧ (256 + n ≤ bs.length → goodN → signed = true → natLE ((bs.drop 2).take 2) < Config.minVer → imageCause bs = 3)
    ∧ (imageCause bs = 0 ↔ (256 + n ≤ bs.length ∧ goodN ∧ signed = true ∧ Config.minVer ≤ natLE ((bs.drop 2).take 2)))

/-- R338: PACKAGE_RESET clears every vault and resets the machine; a valid flash image makes the firmware run: STATE 2 with its VERSION, the fabric ports enabled
and PART_CTL as it sets it; an invalid or missing image leaves STATE 3 with its cause, in which no core issues. That HBM reads as 0 afterwards, and that the
firmware sets FB_ID, are the model's choices (logs 2 and 95). -/
def Clauses.PackageResetBootsOrRecovers : Prop :=
  ∀ (s : State) (modules npkg pkg : Nat) (controls : List Word), s.mem.wf = true →
    let cause := imageCause s.mach.boot.flash
    ∃ u, exec (.packageReset modules npkg pkg controls) s = .next u
      ∧ (∀ a, a < hostStart → u.mem.read a = blank) ∧ (∀ a, hostStart ≤ a → u.mem.read a = s.mem.read a)
      ∧ u.mach.cycle = 0 ∧ u.mach.boot.modules = modules ∧ u.mach.boot.flash = s.mach.boot.flash
      ∧ u.mach.cores = List.replicate 160 .reset
      ∧ (cause = 0 → u.mach.boot.state = .running ∧ u.mach.boot.fwVer = natLE ((s.mach.boot.flash.drop 2).take 2) ∧ u.mach.boot.cause = 0
          ∧ u.mach.pkg = pkg ∧ u.mach.npkg = npkg ∧ (∀ p, p < 4 → (u.mach.plane p).enable = true)
          ∧ ∀ h w, h < 8 → controls[h]? = some w → (u.mach.part h).en = w.getLsbD 63 ∧ (u.mach.part h).run = w.getLsbD 62
              ∧ (u.mach.part h).ceil = w.toNat / 2 ^ 58 % 4)
      ∧ (cause ≠ 0 → u.mach.boot.state = .recovery ∧ u.mach.boot.cause = cause ∧ u.mach.pkg = 0 ∧ u.mach.npkg = 1 ∧ u.mach.mayIssue = false
          ∧ ∀ p, (u.mach.plane p).enable = false)

/-- R337, R338: a firmware image is checked, and a package reset boots it or stays in recovery (logs 2, 10, 95). The model's own choices in it: log 95. -/
def Obligations.FirmwareIsCheckedAndBooted : Prop :=
  Clauses.ImagesAreCheckedByLengthSignatureAndVersion
  ∧ Clauses.PackageResetBootsOrRecovers

/-- R335, R339, R340: GO fails with no trained module; it is accepted in recovery, and with STATE 2 when every partition has RUN = 0 and every core is halted by `cu.halt`, or else sets CAUSE 6; while STATE is 1 it sets CAUSE 4; what is
checked is the image in host memory at BOOT_IMG; the check then restores STATE and records CAUSE for a bad image, and for a valid one rewrites the flash and restarts the device, with vaults cleared, HBM reading as 0
(the model's choice, log 2), units gone and ports enabled by the firmware; power lost during the write leaves no image. -/
def Clauses.UpdatesAreCheckedThenInstalled : Prop :=
  ∀ (s : State), s.mach.out = [] → s.mem.wf = true →
    let b := s.mach.boot
    let idle : Prop := (∀ p ∈ s.mach.parts, p.run = false) ∧ ∀ c, c < s.mach.cores.length →
      HaltCause.order ∈ (s.mach.core c).haltCauses ∧ s.mach.coreStill c = true
    (b.modules = 0 → exec .bootGo s = .next s)
    ∧ (b.modules ≠ 0 → (b.state = .recovery ∨ (b.state = .running ∧ idle)) → ∃ u l, exec .bootGo s = .next u ∧ u.mem = s.mem ∧ u.mach.boot.state = .verifying
        ∧ (let a := b.imgAddr.toNat
          let n := natLE ((upFrom (a + 4) 4).map s.mem.read)
          a % 64 = 0 → n % 64 = 0 → 64 ≤ n → n ≤ 2 ^ 24 → windowOf a = .host → windowOf (a + 255 + n) = .host →
          u.mach.boot.loading = (upFrom a (256 + n)).map s.mem.read)
        ∧ u.mach.boot.before = b.state ∧ (s.mach.cycle + 1, Event.firmwareCheckComplete l) ∈ u.mach.agenda ∧ u.mach.cores = s.mach.cores)
    ∧ (b.modules ≠ 0 → b.state = .running → ¬ idle → exec .bootGo s = .next { s with mach := { s.mach with boot := { b with cause := 6 } } })
    ∧ (b.modules ≠ 0 → b.state = .verifying → exec .bootGo s = .next { s with mach := { s.mach with boot := { b with cause := 4 } } })
    ∧ (∀ l, b.state ≠ .verifying → exec (.firmwareCheckComplete l) s = .next s)
    ∧ (∀ l, b.state = .verifying → imageCause b.loading ≠ 0 → exec (.firmwareCheckComplete l) s = .next
        { s with mach := { s.mach with boot := { b with state := b.before, cause := imageCause b.loading, loading := [] } } })
    ∧ (∀ l, b.state = .verifying → imageCause b.loading = 0 → ∃ u, exec (.firmwareCheckComplete l) s = .next u
        ∧ u.mach.boot.state = .running ∧ u.mach.boot.flash = b.loading ∧ u.mach.boot.fwVer = natLE ((b.loading.drop 2).take 2)
        ∧ u.mach.cores = List.replicate 160 .reset ∧ u.mach.pkg = 0 ∧ u.mach.npkg = 1 ∧ (∀ p, p < 4 → (u.mach.plane p).enable = true)
        ∧ (∀ h, h < 8 → (u.mach.part h).fltqSize = 0 ∧ (u.mach.work h).launches = [] ∧ (u.mach.work h).saves = []) ∧ u.mach.evqSize = 0
        ∧ (∀ a, a < hostStart → u.mem.read a = blank) ∧ ∀ a, hostStart ≤ a → u.mem.read a = s.mem.read a)
    ∧ (∃ u, exec .powerFail s = .next u ∧ u.mach.boot.state = .reset ∧ u.mach.cores = List.replicate 160 .reset
        ∧ u.mach.boot.flash = (if b.state = .verifying ∧ imageCause b.loading = 0 then [] else b.flash))

/-- R335, R340, R341: ATTEST with STATE 2 makes a report of 320 bytes with the nonce at ATT_ADDR + 0x48, whose writing at the ATT_ADDR of then sets ATTDONE; with another STATE,
or while a report is being written, it sets CAUSE 4 and writes nothing; with no trained module it fails. -/
def Clauses.AttestationReportsAreWrittenWhole : Prop :=
  ∀ (s : State), s.mach.out = [] →
    let b := s.mach.boot
    let a := b.attAddr.toNat
    let parts := ((upFrom 0 8).filter fun h => (s.mach.part h).en).foldl (fun n h => n + 2 ^ h) 0
    let exactly (n : Nat) (l : List Byte) : List Byte := (l.take n) ++ List.replicate (n - l.length) 0
    (b.modules = 0 → exec .attest s = .next s)
    ∧ (b.modules ≠ 0 → (b.state ≠ .running ∨ b.report.isSome = true) →
      exec .attest s = .next { s with mach := { s.mach with boot := { b with cause := 4 } } })
    ∧ (b.modules ≠ 0 → b.state = .running → b.report = none → windowOf a = .host → windowOf (a + 319) = .host → windowOf (a + 0x48) = .host →
        windowOf (a + 0x48 + 31) = .host →
      ∃ u, exec .attest s = .next u ∧ u.mem = s.mem ∧ u.mach.boot.reportAt = a ∧ (s.mach.cycle + 900, Event.attestReportComplete) ∈ u.mach.agenda
        ∧ (let body := bytesLE 8 (s.mach.pkg * 2 ^ 56 + parts * 2 ^ 48 + b.fwVer * 2 ^ 32) ++ exactly 64 b.digest
              ++ (upFrom (a + 0x48) 32).map s.mem.read ++ bytesLE 8 (s.mach.cores.filter (·.retired)).length ++ exactly 57 Config.idKey
              ++ List.replicate 7 0
          u.mach.boot.report = some (body ++ exactly 114 (Config.ed448Sign (shake256 body)) ++ List.replicate 30 0)))
    ∧ (∀ bs, b.report = some bs → b.modules ≠ 0 → ∃ u, exec .attestReportComplete s = .next u ∧ u.mach.boot.attDone = true
        ∧ u.mach.boot.report = none ∧ u.mem = s.mem.writeAll ((upFrom b.reportAt bs.length).zip bs))
    ∧ (∀ bs, b.report = some bs → b.modules = 0 → ∃ u, exec .attestReportComplete s = .next u ∧ u.mem = s.mem
        ∧ u.mach.boot.attDone = b.attDone ∧ u.mach.boot.report = some bs)

/-- R335, R339 to R341: an update is checked before it is installed, and an attestation report is written whole. The model's own choices in it: logs 2, 60, 61, 88. -/
def Obligations.UpdatesAndAttestation : Prop :=
  Clauses.UpdatesAreCheckedThenInstalled
  ∧ Clauses.AttestationReportsAreWrittenWhole

/-- R128, R303, R335, R336, R339: the host reads and writes existing bytes of vaults and HBM at their homes, where its atomics of a word perform too, writes the boot registers, and TAIL of the three
kinds of queues, and releases a core that cu.halt has halted (log 121); with no module trained, its accesses to the package change nothing, and its own memory stays open to it; a module that fails is left out. An access to a byte that the address map does not have
ends in the one fault of the machine, which is the model's choice (log 110). The model's own choices in it: logs 68, 69, 110, 121. -/
def Obligations.HostAccessesReachMemoryAndRegisters : Prop :=
  ∀ (s : State), s.mach.out = [] →
    let linked : Prop := s.mach.boot.modules ≠ 0 ∧ s.mach.boot.state ≠ .recovery
    let exists_ (a : Nat) : Prop := windowOf a = .vault ∨ windowOf a = .hbm ∨ windowOf a = .host
    (∀ n, ∃ u, exec (.ucieModuleFailure n) s = .next u ∧ u.mem = s.mem ∧ u.mach.boot.modules = s.mach.boot.modules - n
        ∧ u.mach.cores = s.mach.cores)
    ∧ (s.mach.boot.modules = 0 → (∀ key w bs, (∃ k ∈ hostKeys key w bs, windowOf k ≠ .host) → exec (.hostMemoryAccess key w bs) s = .next s)
        ∧ (∀ key bs, exec (.hostMemoryAccess key .release bs) s = .next s)
        ∧ ∀ n v, exec (.hostRegisterWrite n v) s = .next s)
    ∧ (∀ (key : Nat) (bs : List Byte), (linked ∨ (bs ≠ [] ∧ ∀ i, i < bs.length → windowOf (key + i) = .host)) →
        ((∀ i, i < bs.length → exists_ (key + i)) →
          exec (.hostMemoryAccess key .read bs) s = .next (commit s (s.mach.settleBarriers s.mem (upFrom key bs.length)))
          ∧ ((∀ i, i < bs.length → isBarrierKey (key + i) = false) → exec (.hostMemoryAccess key .read bs) s = .next s)
          ∧ ((∀ i, i < bs.length → isBarrierKey (key + i) = false) →
            ∃ u, exec (.hostMemoryAccess key .write bs) s = .next u ∧ u.mach = s.mach
              ∧ u.mem = s.mem.writeAll ((upFrom key bs.length).zip bs)))
        ∧ (∀ i w, (w = .read ∨ w = .write) → i < bs.length → ¬ exists_ (key + i) →
          ∃ k, exec (.hostMemoryAccess key w bs) s = .fault (.noSuchMemory k)))
    ∧ (∀ (key : Nat) (bs : List Byte), (linked ∨ ∀ i, i < 8 → windowOf (key + i) = .host) →
        (∀ a : Atomic, a.kind = .red → a.aop = 1 → a.sat = false → (a.type = 2 ∨ a.type = 3) → s.mem.wf = true →
          (∀ i, i < 8 → exists_ (key + i) ∧ isBarrierKey (key + i) = false) →
          ∃ u, exec (.hostMemoryAccess key (.atomic a) bs) s = .next u ∧ u.mem = s.mem.writeAll ((upFrom key 8).zip
            (bytesLE 8 (word (natLE (peekAll s.mem s.mach (upFrom key 8))) + a.d).toNat))))
    ∧ (linked → s.mach.boot.state = .running → ∀ (c : Nat) (bs : List Byte), c < s.mach.cores.length →
        let left := (s.mach.core c).haltCauses.filter (· != .order)
        ∃ u, exec (.hostMemoryAccess c .release bs) s = .next u ∧ u.mem = s.mem ∧ (u.mach.core c).haltCauses = left
          ∧ (left = [] → (u.mach.core c).halted = false ∧ (u.mach.core c).jobsHalted = false)
          ∧ (left ≠ [] → (u.mach.core c).halted = (s.mach.core c).halted ∧ (u.mach.core c).jobsHalted = (s.mach.core c).jobsHalted)
          ∧ ∀ d, d ≠ c → u.mach.core d = s.mach.core d)
    ∧ (s.mach.boot.modules ≠ 0 → ∀ v : Word,
      (∃ u, exec (.hostRegisterWrite 0x401 v) s = .next u ∧ u.mach.boot.imgAddr = word (v.toNat % 2 ^ 48) ∧ u.mem = s.mem)
      ∧ (∃ u, exec (.hostRegisterWrite 0x403 v) s = .next u ∧ u.mach.boot.attAddr = word (v.toNat % 2 ^ 48 / 64 * 64) ∧ u.mem = s.mem)
      ∧ (∃ u, exec (.hostRegisterWrite 0x400 v) s = .next u ∧ u.mach.boot.attDone = (s.mach.boot.attDone && !v.getLsbD 59)
          ∧ u.mach.boot.state = s.mach.boot.state)
      ∧ (v.getLsbD 0 = true → v.getLsbD 1 = false → exec (.hostRegisterWrite 0x402 v) s = exec .bootGo s)
      ∧ (v.getLsbD 0 = false → v.getLsbD 1 = true → exec (.hostRegisterWrite 0x402 v) s = exec .attest s)
      ∧ (s.mach.boot.state ≠ .recovery → ∀ h, h < 8 → h < s.mach.parts.length →
        (∃ u, exec (.hostRegisterWrite 0x20B v) s = .next u ∧ u.mach.evqTail = v.toNat / 2 ^ 16 % 2 ^ 12 ∧ u.mach.evqSize = s.mach.evqSize)
        ∧ (∃ u, exec (.hostRegisterWrite (0x028 + h) v) s = .next u ∧ (u.mach.part h).fltqTail = v.toNat / 2 ^ 16 % 2 ^ 12
            ∧ (u.mach.part h).fltqSize = (s.mach.part h).fltqSize)
        ∧ (∃ u, exec (.hostRegisterWrite (0x128 + h) v) s = .next u ∧ (u.mach.work h).subqTail = v.toNat / 2 ^ 16 % 2 ^ 16
            ∧ (u.mach.work h).subqSize = (s.mach.work h).subqSize)))

/-- R342: while the firmware runs, THROTTLE_STEP, at most once in 10,000 cycles, raises THROT by 1, up to 12, from 95 °C on, and lowers it by 1 below 90 °C; THERMAL_HALT at 105 °C halts every core, sets THALT and sends a
record of type 0x0A to every enabled partition; THERMAL_RELEASE below 90 °C releases the cores that it halted, where nothing else halts them, and clears THALT; a core issues only in 16 − THROT
cycles of every 16, of which the model takes the first (its choice, log 109). The model's own choices in it: log 109. -/
def Obligations.ThrottlingAndThermalHalt : Prop :=
  (∀ (s : State) (temp : Nat), s.mach.out = [] → s.mach.boot.state = .running →
    let b := s.mach.boot
    (∃ u, exec (.throttleStep temp) s = .next u ∧ u.mem = s.mem ∧ u.mach.cores = s.mach.cores ∧ u.mach.boot.temp = temp
      ∧ u.mach.boot.throt = (if s.mach.cycle < b.throtNext then b.throt else if 95 ≤ temp then min (b.throt + 1) 12
          else if temp < 90 then b.throt - 1 else b.throt)
      ∧ (u.mach.boot.throt ≠ b.throt → s.mach.cycle + 10000 ≤ u.mach.boot.throtNext))
    ∧ (105 ≤ temp → b.tHalt = false → ∃ u, exec (.thermalHalt temp) s = .next u ∧ u.mem = s.mem ∧ u.mach.boot.tHalt = true
        ∧ (∀ c, c < s.mach.cores.length → (u.mach.core c).halted = true)
        ∧ (∀ d j, (u.mach.ctx d j).g = (s.mach.ctx d j).g ∧ (u.mach.ctx d j).status = (s.mach.ctx d j).status)
        ∧ ∀ h, h < 8 → (s.mach.part h).en = true → ∃ at_ rec, (at_, Event.faultRecordPerform h rec) ∈ u.mach.agenda
            ∧ rec.getD 0 0 = word (0x0A * 2 ^ 56))
    ∧ (temp < 105 → ∃ u, exec (.thermalHalt temp) s = .next u ∧ u.mach.boot.tHalt = b.tHalt ∧ u.mach.cores = s.mach.cores)
    ∧ (temp < 90 → b.tHalt = true → ∃ u, exec (.thermalRelease temp) s = .next u ∧ u.mem = s.mem ∧ u.mach.boot.tHalt = false
        ∧ (∀ c ∈ b.powerHalted, c < s.mach.cores.length →
            ((∀ w ∈ (s.mach.core c).haltCauses, w = .heat) → (u.mach.core c).halted = false)
            ∧ ((∃ w ∈ (s.mach.core c).haltCauses, w ≠ .heat) → (u.mach.core c).halted = (s.mach.core c).halted))
        ∧ (∀ c, c ∉ b.powerHalted → u.mach.core c = s.mach.core c)))
  ∧ (∀ m : Mach, m.mayIssue = true ↔ (m.cycle % 16 < 16 - m.boot.throt ∧ m.boot.state ≠ .recovery))

/-! ## Slots that are not triggers (spec/02_state.md, spec/07_encoding.md) -/

/-- R43, R44, R57, R136, R137, R178: a move or short immediate whose guard holds writes its value into its destination and changes nothing else of its
context (but the model's own notes of a flag's change and of the scales for the next mma): the named slices of a g register, a flag as value ≠ 0, every lane of a v register, or a latch with its hold bit; a window index beyond
NV and a reference to what is no latch raise ILLMOVE, and a v register with a write on its way makes the move wait; a move whose guard fails changes
nothing. -/
def Obligations.MovesWriteTheirDestination : Prop :=
  (∀ (gd : Option Guard) (src : Src) (imm : BitVec 9) (dst : Dst) (rot : Bool) (s : State) (v : Val) (m : Mach) (out : Out), m.Placed →
    ((out = exec (.move gd src dst rot) s ∧ operand s.mach gd (readSrc s.mem · src rot) = .ok (some (v, m)))
      ∨ (out = exec (.shortImmediate gd imm dst rot) s
        ∧ operand s.mach gd (fun m => .ok (.word (immValue m.issue.ext imm), m)) = .ok (some (v, m)))) →
    let x := m.me
    let gives (f : Ctx → Prop) : Prop := ∃ m2, out = .next (s.did m2) ∧ m.Kept m2 m.issue.core m.issue.ctx ∧ f m2.me
    let illegal : Prop := ∃ tr : Trap, tr.cause = .illMove ∧ out = .next (s.raised tr)
    (∀ w, v = .word w → dst = .none → gives fun y => y = x)
    ∧ (∀ w i mask, v = .word w → dst = .g i mask →
        gives fun y => y = { x with g := modifyAt (fun r => r.write mask w) (x.rename rot i.toNat) x.g })
    ∧ (∀ w i, v = .word w → dst = .p i → i.toNat < x.p.length → gives fun y =>
        y.p.getD i.toNat false = decide (w ≠ 0) ∧ (∀ j, j ≠ i.toNat → y.p.getD j false = x.p.getD j false)
          ∧ { y with p := x.p, waitChanged := x.waitChanged, reached := x.reached } = x)
    ∧ (∀ w i, v = .word w → dst = .v i → (x.v.length ≤ i.toNat → illegal)
        ∧ (i.toNat < x.v.length → x.outstanding (.ref .v i.toNat) = false →
          gives fun y => y = { x with v := modifyAt (fun _ => List.replicate 256 (w.setWidth 32)) i.toNat x.v })
        ∧ (i.toNat < x.v.length → x.outstanding (.ref .v i.toNat) = true → out = .next (s.held .stall)))
    ∧ (∀ w l hold, v = .word w → dst = .latch l hold → x.latch.length = 24 → gives fun y =>
        y.latchCell l = ⟨some (.word w), hold⟩ ∧ (∀ l', l' ≠ l → y.latchCell l' = x.latchCell l')
          ∧ { y with latch := x.latch, scales := x.scales } = x)
    ∧ (∀ k i, v = .ref k i → dst.isLatch = false → illegal))
  ∧ (∀ (gd : Option Guard) (src : Src) (imm : BitVec 9) (dst : Dst) (rot : Bool) (s : State), s.mach.issue.ready = none →
      s.mach.me.guardHolds gd = false →
      exec (.move gd src dst rot) s = .next (s.did s.mach) ∧ exec (.shortImmediate gd imm dst rot) s = .next (s.did s.mach))

/-- R41, R51: slot 0 reads slice c of a g register, slot 1 v, slot 2 m and slot 3 x, and the read is no fault; a move writes its value into each slice that its
mask names (bit 5 of the slot c, bit 4 v, bit 3 m, bit 2 x), into all four for an empty mask, and a slice reads as what was last written into it; a tl
reference moved into cu.a or cu.b leaves its geometry word, with RAW_OVF current, an fv reference its state word, and a v, vm or cb reference moved into
a cu or ax latch raises ILLMOVE. -/
def Obligations.SlicesAndLatchConversionsFollowTheirRules : Prop :=
  (∀ (mem : Memory) (m : Mach) (r : BitVec 6), let q := m.me.g.getD r.toNat ⟨0, 0, 0, 0⟩
      readSrc mem m (.g r) false = .ok (.word (match m.issue.slot with | 0 => q.c | 1 => q.v | 2 => q.m | _ => q.x), m))
  ∧ (∀ (w : BitVec 32) gd src (i : BitVec 6) (mask : BitVec 4) rot, decodeSlot w = .ok (.move gd src (.g i mask) rot) →
      ∀ j, j < 4 → mask.getLsbD j = w.getLsbD (j + 2))
  ∧ (∀ (q : Gpr) (w : Word) (mask : BitVec 4), let n := q.write mask w
      n.c = (if mask = 0 ∨ mask.getLsbD 3 = true then w else q.c) ∧ n.v = (if mask = 0 ∨ mask.getLsbD 2 = true then w else q.v)
      ∧ n.m = (if mask = 0 ∨ mask.getLsbD 1 = true then w else q.m) ∧ n.x = (if mask = 0 ∨ mask.getLsbD 0 = true then w else q.x))
  ∧ (∀ (gd : Option Guard) (src : Src) (dst : Dst) (rot : Bool) (s : State) (v : Val) (m : Mach), m.Placed →
      operand s.mach gd (readSrc s.mem · src rot) = .ok (some (v, m)) →
      (∀ w i mask, v = .word w → dst = .g i mask → rot = false → m.me.g.length = 64 → ∃ m2, exec (.move gd src dst rot) s = .next (s.did m2)
        ∧ m2.me.g.getD i.toNat ⟨0, 0, 0, 0⟩ = (m.me.g.getD i.toNat ⟨0, 0, 0, 0⟩).write mask w
        ∧ ∀ j, j ≠ i.toNat → m2.me.g.getD j ⟨0, 0, 0, 0⟩ = m.me.g.getD j ⟨0, 0, 0, 0⟩)
      ∧ (∀ i l hold, l = .cuA ∨ l = .cuB → dst = .latch l hold → m.me.latch.length = 24 →
        (v = .ref .tl i → let t := m.me.tl.getD i .unset
          ∃ m2, exec (.move gd src dst rot) s = .next (s.did m2) ∧ m2.me.latchCell l = ⟨some (.word (word
            ((if t.rawOvf then 2 ^ 30 else 0) + (match t.fmt with | .f32 => 0 | .f16 => 1 | .bf16 => 2 | .i32 => 3) * 2 ^ 28
              + t.ccnt * 2 ^ 25 + t.col0 * 2 ^ 19 + t.rows * 2 ^ 9 + t.row0))), hold⟩)
        ∧ (v = .ref .fv i → let f := m.me.fv.getD i .zero
          ∃ m2, exec (.move gd src dst rot) s = .next (s.did m2) ∧ m2.me.latchCell l = ⟨some (.word (match f.state with
            | .ready => 0
            | .pending => word (2 ^ 62 + (if f.nn then 2 ^ 61 else 0) + (match f.op with | .add => 0 | .max => 1 | .min => 2) * 2 ^ 59
                + f.remain * 2 ^ 32)
            | .void => word (2 ^ 63 + f.vcause))), hold⟩))
      ∧ (∀ i l hold, l = .cuA ∨ l = .cuB ∨ l = .axA → v = .ref .v i ∨ v = .ref .vm i ∨ v = .ref .cb i → dst = .latch l hold →
        ∃ tr : Trap, tr.cause = .illMove ∧ exec (.move gd src dst rot) s = .next (s.raised tr)))

/-- R147: the slot 0x00FF_FFC0 is the move zero -> none, which has no effect; the all-zero slot is the move g0 -> g0 with an empty mask, which in slot k
copies the slice of bus k into all four slices of g0. -/
def Obligations.TheEmptySlotHasNoEffect : Prop :=
  decodeSlot 0x00FFFFC0#32 = .ok (.move none .zero .none false) ∧ decodeSlot 0#32 = .ok (.move none (.g 0) (.g 0 0) false)
  ∧ ∀ s : State, s.mach.issue.ready = none → s.mach.Placed → s.mach.me.g.length = 64 → s.mach.out = [] →
    (∃ u, exec (.move none .zero .none false) s = .next u ∧ u.mem = s.mem ∧ u.mach.agenda = s.mach.agenda
      ∧ ∀ d j, u.mach.ctx d j = s.mach.ctx d j)
    ∧ (∃ u, exec (.move none (.g 0) (.g 0 0) false) s = .next u ∧ u.mem = s.mem
      ∧ (let q := s.mach.me.g.getD 0 ⟨0, 0, 0, 0⟩
        let w := match s.mach.issue.slot with | 0 => q.c | 1 => q.v | 2 => q.m | _ => q.x
        u.mach.me.g.getD 0 ⟨0, 0, 0, 0⟩ = ⟨w, w, w, w⟩)
      ∧ (∀ i, i ≠ 0 → u.mach.me.g.getD i ⟨0, 0, 0, 0⟩ = s.mach.me.g.getD i ⟨0, 0, 0, 0⟩)
      ∧ ∀ d j, (d ≠ s.mach.issue.core ∨ j ≠ s.mach.issue.ctx) → u.mach.ctx d j = s.mach.ctx d j)

/-- R15, R18, R117, R137, R138, R139, R157, R295, R296, R298, R301: a literal gives its 30 bits sign-extended and, with an extension byte, times 16 to the power of that; a header ends the bundle: the pc
moves on and the bundle counts towards WPMAX outside a handler; with Y a run ends, its context ready; with P and a waypoint record while the
engines are quiescent a pending pre-emption begins the save, a run of Q cycles or more ends, and the count restarts; a restored unit goes on
from the pc that was saved; a drain that still waits blocks the context behind the bundle. The model's own choices in it: logs 48, 54. -/
def Obligations.LiteralsAndHeadersAct : Prop :=
  (∀ (v : BitVec 30) (s : State),
    let n := match s.mach.issue.ext with | none => 0 | some e => e
    exec (.literal v) s = .next (s.did { s.mach with issue := { s.mach.issue with
      lit := some (BitVec.ofNat 64 ((v.signExtend 64).toNat * 16 ^ n)) } }))
  ∧ (∀ (e : Nat) (v : BitVec 9), e < 256 → immValue none v = v.signExtend 64
      ∧ immValue (some e) v = (BitVec.ofNat 17 (e * 512 + v.toNat)).signExtend 64)
  ∧ (∀ (y w p : Bool) (e3 e2 e1 : Byte) (s : State), s.mach.out = [] → s.mach.Placed → s.mach.issue.ended = false →
      s.mach.issue.keepLoop = false → s.mach.me.hold = none → s.mach.me.cancelled = false → s.mach.me.status = .running →
      let x := s.mach.me
      let c := s.mach.issue.core
      let k := s.mach.issue.ctx
      let h := partOf c
      ∃ u, exec (.header y w p e3 e2 e1) s = .next u ∧ u.mem = s.mem ∧ u.mach.me.g = x.g ∧ u.mach.me.bundleNo = x.bundleNo + 1
        ∧ u.mach.me.waitIssued = 0
        ∧ (p = false → s.mach.issue.next = none → u.mach.me.pc = x.advance.pc ∧ u.mach.me.loop = x.advance.loop
            ∧ u.mach.me.issueAt = s.mach.cycle + 1)
        ∧ (∀ t, p = false → s.mach.issue.next = some t → u.mach.me.pc = t ∧ u.mach.me.loop.active = false
            ∧ u.mach.me.issueAt = s.mach.cycle + 1 + s.mach.issue.bubble)
        ∧ (y = false → p = false → u.mach.me.status = .running
            ∧ u.mach.me.wpCount = if x.trap.active then x.wpCount else x.wpCount + 1)
        ∧ (y = true → p = false → u.mach.me.status = .ready ∧ (u.mach.core c).running ≠ some k ∧ u.mach.me.wpCount = 0)
        ∧ (y = false → p = true → x.trap.active = true → u.mach.me.status = .running ∧ u.mach.me.wpCount = x.wpCount)
        ∧ (∀ st, y = false → p = true → x.trap.active = false → x.stub = some st → u.mach.me.pc = st.pc ∧ u.mach.me.stub = none
            ∧ u.mach.me.wpCount = 0)
        ∧ (∀ r, y = false → p = true → x.trap.active = false → x.stub = none →
            (∀ m : Mach, m.parts = s.mach.parts → m.walks = s.mach.walks → m.out = [] → waypointRecord s.mem m h x.pc = some r) →
            (∀ q ∈ (s.mach.core c).mx, q.ctx ≠ k) → (∀ q ∈ (s.mach.core c).tf, q.ctx ≠ k) →
            (recordXjob r = true ∨ ∀ j ∈ (s.mach.core c).jobs, (s.mach.core c).ownsJob k j = false) →
            u.mach.me.wpCount = 0
            ∧ (x.preempt = true → x.frozen = false → u.mach.me.status = .saving ∧ u.mach.me.record = r)
            ∧ (x.preempt = false → (x.quantumOver = true ∨ x.quantum ≤ s.mach.cycle - x.runStart) → u.mach.me.status = .ready)
            ∧ (x.preempt = false → x.quantumOver = false → s.mach.cycle - x.runStart < x.quantum → u.mach.me.status = .running)))
  ∧ (∀ (y w : Bool) (e3 e2 e1 : Byte) (s : State) (mask : Nat), s.mach.out = [] → s.mach.Placed → s.mach.issue.ended = false →
      s.mach.issue.keepLoop = false → s.mach.me.hold = some (.drain mask) → s.mach.drainDone s.mach.issue.core s.mach.issue.ctx mask = false →
      s.mach.me.cancelled = false → s.mach.me.status = .running →
      ∃ u, exec (.header y w false e3 e2 e1) s = .next u ∧ u.mem = s.mem ∧ u.mach.me.status = .blocked (.drain mask)
        ∧ u.mach.me.hold = some (.drain mask) ∧ u.mach.me.g = s.mach.me.g)

/-- R136: a trigger whose guard fails has no effect at all: it takes no latch, reads no source and leaves every result port. -/
def Clauses.AFailingGuardHasNoEffect : Prop :=
  ∀ (i : Instr) (d : Nat) (o : TOp) (s : State), i.trigger = some (d, o) → s.mach.issue.ready = none →
    s.mach.me.guardHolds o.guard = false → exec i s = .next (s.did s.mach)

/-- R57, R144: a trigger of cu or ax that needs latch a and finds it empty raises LATCH_EMPTY with its own code as detail, and nothing of it takes
effect, and so does one that needs latch b and finds that empty; one whose T is a reference raises ILLMOVE. The privileged ones do so where their
privilege suffices. -/
def Clauses.EmptyLatchesAndReferencesRaise : Prop :=
  (∀ e ∈ ([(Instr.cuAdd, 0x102), (Instr.cuSub, 0x103), (Instr.cuMul, 0x104), (Instr.cuMulh, 0x105), (Instr.cuMulhn, 0x106), (Instr.cuDivi, 0x107),
      (Instr.cuDivn, 0x108), (Instr.cuRemi, 0x109), (Instr.cuRemn, 0x10A), (Instr.cuAnd, 0x10B), (Instr.cuOr, 0x10C), (Instr.cuXor, 0x10D),
      (Instr.cuAndn, 0x10E), (Instr.cuShl, 0x10F), (Instr.cuShr, 0x110), (Instr.cuSar, 0x111), (Instr.cuRol, 0x112), (Instr.cuMini, 0x116),
      (Instr.cuMaxi, 0x117), (Instr.cuMinn, 0x118), (Instr.cuMaxn, 0x119), (Instr.cuBfx, 0x120)]
    ++ [(Instr.cuBfi, 0x121), (Instr.cuSel, 0x122), (Instr.cuCeq, 0x123), (Instr.cuCne, 0x124), (Instr.cuClti, 0x125), (Instr.cuCltn, 0x126),
      (Instr.cuClei, 0x127), (Instr.cuClen, 0x128), (Instr.axAdd, 0x141), (Instr.axSub, 0x142), (Instr.axShl, 0x143), (Instr.axLea, 0x144),
      (Instr.axAnd, 0x145)] : List ((TOp → Instr) × Nat)),
    ∀ (o : TOp) (s : State) (m : Mach),
      (∀ t : Word, s.Moves o (.word t) m → (m.me.latchCell (if e.2 < 0x140 then .cuA else .axA)).val = none →
        ∃ tr : Trap, tr.cause = .latchEmpty ∧ tr.detail = e.2 ∧ exec (e.1 o) s = .next (s.raised tr))
      ∧ (∀ k i, s.Moves o (.ref k i) m → ∃ tr : Trap, tr.cause = .illMove ∧ exec (e.1 o) s = .next (s.raised tr)))
  ∧ (∀ e ∈ ([(Instr.cuBfi, 0x121), (Instr.cuSel, 0x122)] : List ((TOp → Instr) × Nat)), ∀ (o : TOp) (s : State) (m : Mach) (t a : Word),
      s.Moves o (.word t) m → m.Holds .cuA (.word a) → (m.me.latchCell .cuB).val = none →
      ∃ tr : Trap, tr.cause = .latchEmpty ∧ tr.detail = e.2 ∧ exec (e.1 o) s = .next (s.raised tr))
  ∧ (∀ e ∈ ([(Instr.cuSysWr, 0x132), (Instr.cuTlbinv, 0x134), (Instr.cuPorterLd, 0x137), (Instr.cuTtLd, 0x138), (Instr.cuHalt, 0x13C)]
      : List ((TOp → Instr) × Nat)), ∀ (o : TOp) (s : State) (m : Mach),
      (∀ t : Word, s.Moves o (.word t) m → m.CuReady → m.me.priv ≠ .task → (m.me.latchCell .cuA).val = none →
        ∃ tr : Trap, tr.cause = .latchEmpty ∧ tr.detail = e.2 ∧ exec (e.1 o) s = .next (s.raised tr))
      ∧ (∀ k i, s.Moves o (.ref k i) m → ∃ tr : Trap, tr.cause = .illMove ∧ exec (e.1 o) s = .next (s.raised tr)))

/-- R57, R144: in a context whose latches are all empty, a trigger of vu, mx, tf, lu or sy that needs a latch raises LATCH_EMPTY with its own code
as detail, and nothing of it takes effect: whatever T is where T cannot make the trigger illegal, and else for the words T named here, which are
legal control words of it (R176 to R194, R211, R223, R170). -/
def Clauses.EveryUnitRaisesOnEmptyLatches : Prop :=
  let raises (l : List ((TOp → Instr) × Nat)) (legal : Nat → Prop) : Prop :=
    ∀ e ∈ l, ∀ (o : TOp) (s : State) (t : Word) (m : Mach), s.Moves o (.word t) m → legal t.toNat → (∀ q, (m.me.latchCell q).val = none) →
      ∃ tr : Trap, tr.cause = .latchEmpty ∧ tr.detail = e.2 ∧ exec (e.1 o) s = .next (s.raised tr)
  raises ([(Instr.vuFadd, 0x14C), (Instr.vuFsub, 0x14D), (Instr.vuFmul, 0x14E), (Instr.vuFfma, 0x14F), (Instr.vuFmin, 0x150),
      (Instr.vuFmax, 0x151), (Instr.vuFabs, 0x152), (Instr.vuFneg, 0x153), (Instr.vuFexp2, 0x154), (Instr.vuFlog2, 0x155),
      (Instr.vuFrcp, 0x156), (Instr.vuFrsqrt, 0x157), (Instr.vuFeq, 0x167), (Instr.vuFlt, 0x168), (Instr.vuFle, 0x169),
      (Instr.vuVquant, 0x175)]) (· < 3)
  ∧ raises ([(Instr.vuIadd, 0x159), (Instr.vuIsub, 0x15A), (Instr.vuImul, 0x15B), (Instr.vuImulh, 0x15C), (Instr.vuIand, 0x15D),
      (Instr.vuIor, 0x15E), (Instr.vuIxor, 0x15F), (Instr.vuIshl, 0x160), (Instr.vuIshr, 0x161), (Instr.vuIsar, 0x162),
      (Instr.vuImin, 0x163), (Instr.vuImax, 0x164), (Instr.vuNmin, 0x165), (Instr.vuNmax, 0x166), (Instr.vuIeq, 0x16A),
      (Instr.vuIlt, 0x16B), (Instr.vuNlt, 0x16C)]) (fun t => t = 3 ∨ t = 4)
  ∧ raises [(Instr.vuVrsum, 0x171), (Instr.vuVrmax, 0x172), (Instr.vuVrmin, 0x173)] (· < 5)
  ∧ raises [(Instr.vuVscan, 0x174)] (· = 0)
  ∧ raises [(Instr.vuFcvt, 0x158), (Instr.vuVsel, 0x16D), (Instr.vuVbcast, 0x16E), (Instr.vuVperm, 0x16F), (Instr.vuVslide, 0x170),
      (Instr.vuVdq, 0x176), (Instr.vuVldf, 0x177), (Instr.vuVstf, 0x178), (Instr.vuVcnt, 0x179), (Instr.tfTquant, 0x1B6),
      (Instr.tfTdq, 0x1B7), (Instr.tfFvset, 0x1B9)] (· < 8)
  ∧ raises [(Instr.luAmo, 0x1D2), (Instr.luCas, 0x1D3), (Instr.luFamo, 0x1D4), (Instr.luRed, 0x1D5), (Instr.luHnd, 0x1D6)] (fun t => 1 ≤ t ∧ t ≤ 6)
  ∧ raises [(Instr.syCancel, 0x1FA), (Instr.syCtr, 0x1FB)] (fun t => t % 8 ≠ 5)
  ∧ raises ([(Instr.mxBloadS4, 0x188), (Instr.mxBloadE4, 0x189), (Instr.mxBloadE5, 0x18A), (Instr.mxBloadI8, 0x18B),
      (Instr.mxBloadBf, 0x18C), (Instr.mxBloadH, 0x18D), (Instr.mxMmaS4, 0x18E), (Instr.mxMmaE4, 0x18F),
      (Instr.mxMmaE5, 0x190), (Instr.mxMmaI8, 0x191), (Instr.mxMmaBf, 0x192), (Instr.mxMmaH, 0x193), (Instr.mxSpaS4, 0x194),
      (Instr.mxSpaE4, 0x195), (Instr.mxSpaI8, 0x196), (Instr.tfTzero, 0x19C), (Instr.tfTcopy, 0x19D), (Instr.tfTadd, 0x19E),
      (Instr.tfTsub, 0x19F), (Instr.tfTmul, 0x1A0)]
    ++ [(Instr.tfTmax, 0x1A1), (Instr.tfTmin, 0x1A2), (Instr.tfTsmul, 0x1A3), (Instr.tfTscr, 0x1A4), (Instr.tfTscc, 0x1A5),
      (Instr.tfTshr, 0x1A6), (Instr.tfTshc, 0x1A7), (Instr.tfTexp, 0x1A8), (Instr.tfTexpw, 0x1A9), (Instr.tfTcvt, 0x1AA),
      (Instr.tfTrmax, 0x1AB), (Instr.tfTrsum, 0x1AC), (Instr.tfTcmax, 0x1AD), (Instr.tfTcsum, 0x1AE),
      (Instr.tfTrmaxr, 0x1AF), (Instr.tfTrsumr, 0x1B0), (Instr.tfResolve, 0x1B1), (Instr.tfTdrop, 0x1B2),
      (Instr.tfTld, 0x1B3), (Instr.tfTst, 0x1B4)]
    ++ [(Instr.tfTstr, 0x1B5), (Instr.tfFvexp, 0x1B8), (Instr.tfFvst, 0x1BA), (Instr.tfTtrans, 0x1BB), (Instr.luLdb, 0x1C3),
      (Instr.luLdh, 0x1C4), (Instr.luLdw, 0x1C5), (Instr.luLdd, 0x1C6), (Instr.luLdsb, 0x1C7), (Instr.luLdsh, 0x1C8),
      (Instr.luLdsw, 0x1C9), (Instr.luStb, 0x1CA), (Instr.luSth, 0x1CB), (Instr.luStw, 0x1CC), (Instr.luStd, 0x1CD),
      (Instr.luLdq, 0x1CE), (Instr.luStq, 0x1CF), (Instr.luLdv, 0x1D0), (Instr.luStv, 0x1D1), (Instr.luPf, 0x1DA)]
    ++ [(Instr.syBinit, 0x1EA), (Instr.syBexp, 0x1EC), (Instr.syBarm, 0x1EE), (Instr.syViews, 0x1F7)]) (fun _ => True)

/-- R57, R136, R144: a trigger whose guard fails has no effect, and a trigger of any unit that finds its latch empty raises LATCH_EMPTY. -/
def Obligations.GuardsAndEmptyLatches : Prop :=
  Clauses.AFailingGuardHasNoEffect
  ∧ Clauses.EmptyLatchesAndReferencesRaise
  ∧ Clauses.EveryUnitRaisesOnEmptyLatches

/-! ## Frames -/

/-- R42, R151: a scalar or address trigger whose T the bundle has read changes, when it has its effect, only the latches and the result port of its
unit: every byte of memory, every other context, the core's own queues, rings and jobs, every other core, and the registers, flags, windows,
descriptors and special registers of its own context stay as they were. -/
def Obligations.ScalarTriggersChangeOnlyLatchesAndPorts : Prop :=
  ∀ e ∈ ([(Instr.cuAdd, .cu), (Instr.cuSub, .cu), (Instr.cuMul, .cu), (Instr.cuMulh, .cu), (Instr.cuMulhn, .cu), (Instr.cuAnd, .cu), (Instr.cuOr, .cu),
      (Instr.cuXor, .cu), (Instr.cuAndn, .cu), (Instr.cuShl, .cu), (Instr.cuShr, .cu), (Instr.cuSar, .cu), (Instr.cuRol, .cu),
      (Instr.cuClz, .cu), (Instr.cuCtz, .cu), (Instr.cuPopc, .cu), (Instr.cuMini, .cu), (Instr.cuMaxi, .cu), (Instr.cuMinn, .cu),
      (Instr.cuMaxn, .cu), (Instr.cuSxb, .cu), (Instr.cuSxh, .cu), (Instr.cuSxw, .cu), (Instr.cuZxb, .cu), (Instr.cuZxh, .cu)]
    ++ [(Instr.cuZxw, .cu), (Instr.cuBfx, .cu), (Instr.cuBfi, .cu), (Instr.cuSel, .cu), (Instr.cuCeq, .cu), (Instr.cuCne, .cu), (Instr.cuClti, .cu),
      (Instr.cuCltn, .cu), (Instr.cuClei, .cu), (Instr.cuClen, .cu), (Instr.axAdd, .ax), (Instr.axSub, .ax), (Instr.axShl, .ax),
      (Instr.axLea, .ax), (Instr.axAnd, .ax)] : List ((TOp → Instr) × PortName)),
    ∀ (o : TOp) (s u : State) (t : Word), s.mach.issue.ready = some (.word t) → s.mach.out = [] → exec (e.1 o) s = .next u →
      u.mach.issue.out = .done →
      u.mem = s.mem ∧ (∀ a, u.mem.read a = s.mem.read a) ∧ { u.mach with cores := s.mach.cores, issue := s.mach.issue } = s.mach
        ∧ (let c := s.mach.issue.core
          (∀ d, d ≠ c → u.mach.core d = s.mach.core d) ∧ { u.mach.core c with ctxs := (s.mach.core c).ctxs } = s.mach.core c)
        ∧ (∀ l : Latch, (if e.2 = .cu then l ≠ .cuA ∧ l ≠ .cuB else l ≠ .axA) → u.mach.me.latchCell l = s.mach.me.latchCell l)
        ∧ (∀ d j, (d ≠ s.mach.issue.core ∨ j ≠ s.mach.issue.ctx) → u.mach.ctx d j = s.mach.ctx d j)
        ∧ { u.mach.me with latch := s.mach.me.latch, ports := s.mach.me.ports } = s.mach.me
        ∧ ∀ n, n ≠ e.2 → u.mach.me.ports.get n = s.mach.me.ports.get n

/-! ## Encoding, bundles and the step (spec/07_encoding.md) -/

/-- R133 to R146: words written out from the encoding tables decode to the instructions that they stand for. -/
def Obligations.WordsOfTheTablesDecode : Prop :=
  decodeSlot 0b00_000000_000000101_100000000_0000_1_0#32 = .ok (.move none (.g 5) (.latch .cuA true) false)
  ∧ decodeSlot 0b00_100111_000000111_000001001_1010_0_1#32 = .ok (.move (some ⟨3, true⟩) (.g 7) (.g 9 10) true)
  ∧ decodeSlot 0b01_000000_111111101_011110010_0000_0_0#32 = .ok (.shortImmediate none 0x1FD (.p 2) false)
  ∧ decodeSlot 0b10_100000_000000000_000000000_0000_1_1#32 = .ok (.literal 0x20000003)
  ∧ decodeSlot 0b11_101000_00000001_00000010_00000011#32 = .ok (.header true false true 1 2 3)
  ∧ decodeSlot 0b01_000000_000000111_100000010_0000_0_0#32 = .ok (.cuAdd ⟨none, .imm 7, false⟩)
  ∧ decodeSlot 0b00_101010_000000001_101000001_0000_0_0#32 = .ok (.axAdd ⟨some ⟨5, false⟩, .src (.g 1), false⟩)
  ∧ decodeSlot 0b00_000000_001000011_101001100_0000_0_0#32 = .ok (.vuFadd ⟨none, .src (.v 3), false⟩)
  ∧ decodeSlot 0b00_000000_010000100_110001110_0000_0_0#32 = .ok (.mxMmaS4 ⟨none, .src (.tl 4), false⟩)
  ∧ decodeSlot 0b00_000000_010000001_110011100_0000_0_0#32 = .ok (.tfTzero ⟨none, .src (.tl 1), false⟩)
  ∧ decodeSlot 0b00_000000_000000010_111000011_0000_0_0#32 = .ok (.luLdb ⟨none, .src (.g 2), false⟩)
  ∧ decodeSlot 0b00_000000_111111110_111100000_0000_0_0#32 = .ok (.xeGo ⟨none, .src .literal, false⟩)
  ∧ decodeSlot 0b01_000000_000000000_111100101_0000_0_0#32 = .ok (.fqTxe ⟨none, .imm 0, false⟩)
  ∧ decodeSlot 0b00_000000_111111111_111101010_0000_0_0#32 = .ok (.syBinit ⟨none, .src .zero, false⟩)
  ∧ decodeSlot 0b00_000000_000000011_100110010_0000_0_0#32 = .ok (.cuSysWr ⟨none, .src (.g 3), false⟩)

/-- R135 to R146: every move, short immediate, literal, header and trigger has a word, and the word of a well-formed one decodes to that instruction,
with every operand at every value. -/
def Obligations.DecodeOfEncode : Prop :=
  (∀ (i : Instr) (w : BitVec 32), i.wf = true → encode i = some w → decodeSlot w = .ok i)
  ∧ (∀ (i : Instr) (d : Nat) (o : TOp), i.trigger = some (d, o) → (encode i).isSome = true)
  ∧ (∀ g s d r, (encode (.move g s d r)).isSome = true) ∧ (∀ g v d r, (encode (.shortImmediate g v d r)).isSome = true)
  ∧ (∀ v, (encode (.literal v)).isSome = true) ∧ (∀ y w p e3 e2 e1, (encode (.header y w p e3 e2 e1)).isSome = true)

/-- R148: no bit of a slot is dropped: a word that decodes is the word of the instruction that it decodes to, which is well formed; and no two words
decode to one instruction. -/
def Clauses.EncodeOfDecode : Prop :=
  (∀ (w : BitVec 32) (i : Instr), decodeSlot w = .ok i → i.wf = true ∧ encode i = some w)
  ∧ (∀ (w w' : BitVec 32) (i : Instr), decodeSlot w = .ok i → decodeSlot w' = .ok i → w = w')

/-- R135, R136, R137, R139, R141, R143, R148: which slots are refused: a header with bits 26:24 not zero; GE = 0 with bits 28:24 not zero; an unassigned source or destination
code; SLICE not zero without a g destination; HOLD without a latch destination; ROT without a g operand; a reference to what is neither latch nor
trigger; a short immediate to cu.loop. Every other slot decodes. -/
def Clauses.ReservedSlotsAreRefused : Prop :=
  ∀ w : BitVec 32,
    let n := w.toNat
    let form := n / 2 ^ 30
    let src := n / 2 ^ 15 % 512
    let dst := n / 2 ^ 6 % 512
    let latch : Prop := dst = 0x100 ∨ dst = 0x101 ∨ dst = 0x140 ∨ (0x148 ≤ dst ∧ dst ≤ 0x14B) ∨ (0x180 ≤ dst ∧ dst ≤ 0x187)
      ∨ (0x198 ≤ dst ∧ dst ≤ 0x19B) ∨ (0x1C0 ≤ dst ∧ dst ≤ 0x1C2) ∨ dst = 0x1E8 ∨ dst = 0x1E9
    let trig : Prop := (0x102 ≤ dst ∧ dst ≤ 0x13D) ∨ (0x141 ≤ dst ∧ dst ≤ 0x145) ∨ (0x14C ≤ dst ∧ dst ≤ 0x179) ∨ (0x188 ≤ dst ∧ dst ≤ 0x196)
      ∨ (0x19C ≤ dst ∧ dst ≤ 0x1BB) ∨ (0x1C3 ≤ dst ∧ dst ≤ 0x1DA) ∨ (0x1E0 ≤ dst ∧ dst ≤ 0x1E5) ∨ (0x1EA ≤ dst ∧ dst ≤ 0x1FE)
    let source : Prop := src ≤ 0x109 ∨ (0x140 ≤ src ∧ src ≤ 0x15E) ∨ 0x1FE ≤ src
    let ref : Prop := (0x40 ≤ src ∧ src ≤ 0xEF) ∨ (0x148 ≤ src ∧ src ≤ 0x14F)
    let rot : Prop := (form = 0 ∧ src < 0x40) ∨ dst < 0x40
    (form = 2 → ∃ v, decodeSlot w = .ok (.literal v))
    ∧ (form = 3 → ((∃ i, decodeSlot w = .ok i) ↔ n / 2 ^ 24 % 8 = 0))
    ∧ (form < 2 → ((∃ i, decodeSlot w = .ok i) ↔
        (n.testBit 29 = true ∨ n / 2 ^ 24 % 32 = 0) ∧ (form = 0 → source)
        ∧ (dst < 0xA0 ∨ (0xF0 ≤ dst ∧ dst ≤ 0xFF) ∨ dst = 0x1FF ∨ latch ∨ trig)
        ∧ (n / 4 % 16 = 0 ∨ dst < 0x40) ∧ (n.testBit 1 = false ∨ latch) ∧ (n.testBit 0 = false ∨ rot)
        ∧ (form = 0 → ref → latch ∨ trig) ∧ ¬ (form = 1 ∧ dst = 0x12D)))

/-- R45, R46, R133, R138, R139, R140, R148, R149: a bundle raises ILLBUNDLE exactly for a header outside slot 0 or with reserved bits, a literal without a consumer, in slot 0 or with an
extension byte above 15, a consumer without a literal, a cu.loop without a body length from 1 to 32, as an immediate or on a parameter window, another extension byte
that is not zero without a meaning, and two triggers of cu; and otherwise ILLMOVE exactly for a slot that the decoder refuses, a trigger on a bus that may
not carry it and a window index beyond its window; the bundle then has none of its effects. Outside a wait bundle an ILLMOVE of the encoding gives way
to the ILLBUNDLE that a value in another slot raises, and while a control word that may do so is still to be read the bundle waits, which is the
model's choice (log 18). -/
def Clauses.IllegalBundlesRaise : Prop :=
  ∀ (s : State) (c k : Nat) (ws : List Cell), ws.length = 4 →
    let x := s.mach.ctx c k
    let n (i : Nat) : Nat := (ws.getD i 0).toNat
    let form (i : Nat) : Nat := n i / 2 ^ 30
    let dst (i : Nat) : Nat := n i / 2 ^ 6 % 512
    let src (i : Nat) : Nat := n i / 2 ^ 15 % 512
    let hdr (i : Nat) : Prop := form 0 = 3 ∧ i ≠ 0
    let ext (i : Nat) : Nat := n 0 / 2 ^ (8 * (i - 1)) % 256
    let lit (i : Nat) : Prop := form i = 0 ∧ src i = 0x1FE
    let param (i : Nat) : Prop := form i = 0 ∧ 0x140 ≤ src i ∧ src i ≤ 0x147
    let bundle : Prop := (∃ i, i ≤ 3 ∧ ((form i = 3 ∧ (i ≠ 0 ∨ n 0 / 2 ^ 24 % 8 ≠ 0))
        ∨ (form i = 2 ∧ (i = 0 ∨ ¬ lit (i - 1) ∨ (hdr i ∧ 15 < ext i)))
        ∨ (lit i ∧ (i = 3 ∨ form (i + 1) ≠ 2))
        ∨ (form i < 2 ∧ dst i = 0x12D ∧ (form i = 1 ∨ param i ∨ ¬ hdr i ∨ ext i = 0 ∨ 32 < ext i))
        ∨ (form i = 0 ∧ dst i ≠ 0x12D ∧ ¬ param i ∧ hdr i ∧ ext i ≠ 0)))
      ∨ ∃ i j, i < j ∧ j ≤ 3 ∧ ∀ l, l = i ∨ l = j → form l < 2 ∧ 0x102 ≤ dst l ∧ dst l ≤ 0x13D
    let bus (d i : Nat) : Prop := (d ≤ 0x13F ∧ (i = 0 ∨ d < 0x131 ∨ d = 0x13D)) ∨ (0x140 ≤ d ∧ d ≤ 0x147 ∧ i = 3) ∨ (0x148 ≤ d ∧ d ≤ 0x17F ∧ i = 1)
      ∨ (0x180 ≤ d ∧ d ≤ 0x1BF ∧ i = 2) ∨ (0x1C0 ≤ d ∧ d ≤ 0x1DF ∧ i = 3) ∨ (0x1E0 ≤ d ∧ i = 0)
    let beyond (v : Src) : Prop := (∃ r, v = .v r ∧ x.v.length ≤ r.toNat) ∨ (∃ r, v = .fv r ∧ x.fv.length ≤ r.toNat)
      ∨ (∃ r, v = .cb r ∧ x.cb.length ≤ r.toNat) ∨ (∃ r, v = .vm r ∧ x.vm.length ≤ r.toNat)
    let move : Prop := ∃ i, i ≤ 3 ∧ ((∃ e, decodeSlot (ws.getD i 0) = .error e)
      ∨ (∃ q d o, decodeSlot (ws.getD i 0) = .ok q ∧ q.trigger = some (d, o) ∧ (¬ bus d i ∨ ∃ v, o.src = .src v ∧ beyond v))
      ∨ (∃ g v d r, decodeSlot (ws.getD i 0) = .ok (.move g v d r) ∧ (beyond v ∨ ∃ j, d = .v j ∧ x.v.length ≤ j.toNat))
      ∨ (∃ g v j r, decodeSlot (ws.getD i 0) = .ok (.shortImmediate g v (.v j) r) ∧ x.v.length ≤ j.toNat))
    (bundle → ∃ tr : Trap, tr.cause = .illBundle ∧ encodingTrap x ws = some tr)
    ∧ (¬ bundle → move → ∃ tr : Trap, tr.cause = .illMove ∧ encodingTrap x ws = some tr)
    ∧ (¬ bundle → ¬ move → encodingTrap x ws = none)
    ∧ (∀ tr, encodingTrap x ws = some tr → (bundle ∨ headerBit ws 28 = true ∨ (encodingWait s c k ws = none ∧ valueIllBundle exec s c k ws = none)) →
        runBundle exec s c k ws = .next (applyStop s c k (.raise tr) true))
    ∧ (∀ tr, ¬ bundle → move → headerBit ws 28 = false → encodingWait s c k ws = none → valueIllBundle exec s c k ws = some tr →
        tr.cls = 1 ∧ runBundle exec s c k ws = .next (applyStop s c k (.raise tr) true))
    ∧ (∀ e, ¬ bundle → move → headerBit ws 28 = false → encodingWait s c k ws = some e →
        e.waits = true ∧ runBundle exec s c k ws = .next (applyStop s c k e false))

/-- R45, R46: a geometry word moved into tl raises ILLMOVE where CCNT is 7, ROWS 0, ROW0 + ROWS above NACC or 4 COL0 + 4 2^CCNT above 256; otherwise the descriptor has its
fields, its factor slots empty, and RAW_OVF is cleared by a 1 and left by a 0; a move that carries a reference to an unset descriptor raises ILLMOVE. -/
def Clauses.GeometryWordsAreChecked : Prop :=
  (∀ (gd : Option Guard) (src : Src) (i : BitVec 5) (rot : Bool) (s : State) (w : Word) (m : Mach), m.Placed → m.me.tl.length = 32 →
    operand s.mach gd (readSrc s.mem · src rot) = .ok (some (.word w, m)) →
    let x := m.me
    let ccnt := w.toNat / 2 ^ 25 % 8
    let col0 := w.toNat / 2 ^ 19 % 64
    let rows := w.toNat / 2 ^ 9 % 1024
    let row0 := w.toNat % 512
    let bad : Prop := ccnt = 7 ∨ rows = 0 ∨ x.acc.length < row0 + rows ∨ 256 < 4 * col0 + 4 * 2 ^ ccnt
    (bad → ∃ tr : Trap, tr.cause = .illMove ∧ exec (.move gd src (.tl i) rot) s = .next (s.raised tr))
    ∧ (¬ bad → ∃ m2, exec (.move gd src (.tl i) rot) s = .next (s.did m2) ∧ m.Kept m2 m.issue.core m.issue.ctx
      ∧ (let t := m2.me.tl.getD i.toNat .unset
        t.isSet = true ∧ t.row0 = row0 ∧ t.rows = rows ∧ t.col0 = col0 ∧ t.ccnt = ccnt ∧ t.occupied = false
          ∧ t.fmt = (match w.toNat / 2 ^ 28 % 4 with | 0 => .f32 | 1 => .f16 | 2 => .bf16 | _ => .i32)
          ∧ t.rawOvf = ((x.tl.getD i.toNat .unset).rawOvf && !w.getLsbD 30))
      ∧ (∀ j, j ≠ i.toNat → m2.me.tl.getD j .unset = x.tl.getD j .unset) ∧ m2.me.g = x.g ∧ m2.me.acc = x.acc))
  ∧ (∀ (mem : Memory) (m : Mach) (r : BitVec 5) (rot : Bool), (m.me.tl.getD r.toNat .unset).isSet = false →
      ∃ tr : Trap, tr.cause = .illMove ∧ readSrc mem m (.tl r) rot = .error (.raise tr))

/-- R45, R46, R133, R135 to R141, R143, R148, R149: every 128-bit pattern is a bundle or raises ILLBUNDLE or ILLMOVE by the table of R148. The model's own choices in it: log 18. -/
def Obligations.EveryPatternIsABundleOrRaises : Prop :=
  Clauses.EncodeOfDecode
  ∧ Clauses.ReservedSlotsAreRefused
  ∧ Clauses.IllegalBundlesRaise
  ∧ Clauses.GeometryWordsAreChecked

/-- R42, R132, R149, R310, R342: a step runs what is decoded: a scheduled event that is due runs the meaning of the step of its name; otherwise the next core that issues fetches the four words at its
pc, little-endian and slot 0 first, and the bundle issues as its decoded moves: for one trigger with its source read, the step is exec of the decoded
instruction on the state that holds its slot, extension byte, literal and value; where no core issues, the clock moves. The model's own choices in it: log 3. -/
def Obligations.AStepRunsWhatIsDecoded : Prop :=
  (∀ (s : State) (t : Nat) (e : Event) (rest : List (Nat × Event)), s.mach.agenda = (t, e) :: rest → t ≤ s.mach.cycle →
    step s = afterEvent (runEvent e { s with mach := { s.mach with agenda := rest } }))
  ∧ (∀ p ∈ ([(.waitSlotIssue, .waitSlotIssue), (.tlbinvComplete, .tlbinvComplete), (.porterLoadInstall, .porterLoadInstall),
      (.cloakOutComplete, .cloakOutComplete), (.cloakInComplete, .cloakInComplete), (.haltComplete, .haltComplete), (.bloadStart, .bloadStart),
      (.bloadComplete, .bloadComplete), (.mmaLaunch, .mmaLaunch), (.aReadRetirement, .aReadRetirement), (.mmaRowWrite, .mmaRowWrite),
      (.tfCommandStart, .tfCommandStart), (.tfRowStep, .tfRowStep), (.tfCommandEnd, .tfCommandEnd), (.ffarSerialise, .ffarSerialise),
      (.ffarComplete, .ffarComplete), (.drainComplete, .drainComplete), (.storeEnter, .storeEnter), (.dictLoadComplete, .dictLoadComplete),
      (.jobComplete, .jobComplete), (.joinComplete, .joinComplete), (.mergeStep, .mergeStep), (.unitStopOnCancel, .unitStopOnCancel),
      (.promiseReached, .promiseReached), (.contextReady, .contextReady), (.priorityLift, .priorityLift),
      (.runQuantumExpiry, .runQuantumExpiry), (.unitStart, .unitStart), (.launchCounterDiscard, .launchCounterDiscard),
      (.unitSave, .unitSave), (.unitResume, .unitResume), (.flitSend, .flitSend), (.flitFillTimeout, .flitFillTimeout)]
      : List ((Nat → Nat → Event) × (Nat → Nat → Instr))), ∀ a b s, runEvent (p.1 a b) s = exec (p.2 a b) s)
  ∧ (∀ (s : State) (c k : Nat) (ws : List Cell), (∀ t e rest, s.mach.agenda = (t, e) :: rest → s.mach.cycle < t) → s.mach.mayIssue = true →
      s.mach.nextIssuer s.mach.turn (s.mach.cores.drop s.mach.turn) = some (c, k, none) → (s.mach.ctx c k).pastWpMax = false →
      (s.mach.ctx c k).heldBack = false → s.mach.heldFor c k = none →
      let s0 : State := { s with mach := Mach.holdBack { s.mach with turn := c + 1, issue := freshIssue c k } c k }
      nextBundle s0.mem s0.mach c k = .ok ws → encodingTrap (s0.mach.ctx c k) ws = none → headerBit ws 28 = false →
      (∀ e, issueTogether exec s0 c k (moveSlots ws) = .error e → step s = .next (applyStop s0 c k e false))
      ∧ (∀ s1, issueTogether exec s0 c k (moveSlots ws) = .ok (.next s1) → step s = retireBundle exec s1 c k ws))
  ∧ (∀ (s s1 : State) (c k : Nat) (sl : Slot) (d : Nat) (o : TOp) (v : Val) (m : Mach), sl.instr.trigger = some (d, o) →
      (s.mach.ctx c k).guardHolds o.guard = true → readSlot s.mem s.mach c k sl = .ok (v, m) →
      exec sl.instr ⟨s.mem, m.atSlot c k sl (some v)⟩ = .next s1 →
      (s1.mach.issue.out.stop = none → issueTogether exec s c k [sl] = .ok (.next s1))
      ∧ (∀ e, s1.mach.issue.out.stop = some e → issueTogether exec s c k [sl] = .error e))
  ∧ (∀ (ws : List Cell) (sl : Slot), sl ∈ moveSlots ws → decodeSlot (ws.getD sl.k 0) = .ok sl.instr ∧ sl.k < 4)
  ∧ (∀ (mem : Memory) (m : Mach) (c pc : Nat) (t : Tlb) (p : Priv), pc < 0x100000000 → lookupPage m c (partOf c) pc = .hit t →
      pageDenies t.pte p false true = none →
      fetchBundle mem m c p pc = .ok (slotsOf (peekAll mem m (upFrom (t.key pc) 16))))
  ∧ (∀ s : State, (∀ t e rest, s.mach.agenda = (t, e) :: rest → s.mach.cycle < t) →
      (s.mach.mayIssue = false ∨ s.mach.nextIssuer s.mach.turn (s.mach.cores.drop s.mach.turn) = none) →
      step s = .next (tick s))

/-! ## The whole machine -/

/-- The invariant (canonical memory, nothing a step wrote left uncommitted) holds at reset. Memory's form is the model's (log 2). -/
def Clauses.ResetKeepsTheInvariant : Prop := State.reset.Inv

/-- R6, R18, R282, R287, R300, R309, R318, R338: what reset leaves: every context free, the cycle counter and the domain time 0, no partition enabled or running, CEIL 3, GQUOTA 28,
WPMAX 16,384, every queue SIZE 0 with HEAD, TAIL and DROPPED 0, page-table roots off, no port enabled, STATE 0. That contexts are free and no launch exists
before any unit is the model's choice (log 1). -/
def Clauses.ResetGivesTheSpecsValues : Prop :=
  State.reset.mach.cycle = 0 ∧ State.reset.mach.fbTime = 0 ∧ State.reset.mach.boot.state = .reset ∧ State.reset.mach.boot.cause = 0
  ∧ State.reset.mach.boot.throt = 0 ∧ State.reset.mach.evqSize = 0 ∧ State.reset.mach.evqHead = 0 ∧ State.reset.mach.evqTail = 0
  ∧ State.reset.mach.evqDropped = 0
  ∧ (∀ c k, (State.reset.mach.ctx c k).status = .free) ∧ (∀ c, (State.reset.mach.core c).retired = false)
  ∧ (∀ p, (State.reset.mach.plane p).enable = false)
  ∧ (∀ h, (State.reset.mach.part h).en = false ∧ (State.reset.mach.part h).run = false ∧ (State.reset.mach.part h).ceil = 3
      ∧ (State.reset.mach.work h).gquota = 28 ∧ (State.reset.mach.work h).wpMax = 16384 ∧ (State.reset.mach.part h).fltqSize = 0
      ∧ (State.reset.mach.part h).fltqHead = 0 ∧ (State.reset.mach.part h).fltqTail = 0 ∧ (State.reset.mach.part h).fltqDropped = 0 ∧ (State.reset.mach.part h).brkFrz = false
      ∧ (∀ i, (State.reset.mach.part h).ptEn.getD i false = false) ∧ (State.reset.mach.part h).saved = false
      ∧ (State.reset.mach.work h).launches = [] ∧ (State.reset.mach.work h).subqSize = 0
      ∧ (State.reset.mach.work h).subqHead = 0 ∧ (State.reset.mach.work h).subqTail = 0)

/-- R6, R18, R282, R287, R300, R309, R318, R338: reset has the invariant and leaves the values the spec gives (log 2 for memory's form). The model's own choices in it: log 1. -/
def Obligations.ResetLeavesTheResetValues : Prop :=
  Clauses.ResetKeepsTheInvariant
  ∧ Clauses.ResetGivesTheSpecsValues

/-- The invariant is kept by every step from every state that has it: memory stays in canonical form whatever is written, and every byte that a step wrote has been
committed when it ends. Memory's form is the model's (log 2). -/
def Obligations.EveryStepKeepsTheInvariant : Prop := ∀ s u : State, s.Inv → step s = .next u → u.Inv

/-- R144, R148, R315: no instruction is refused, and none faults but a host access to a byte that the address map does not have (log 110); every step of the machine answers a next
state: what a program does wrong is a trap, and ordinary data never ends a run. The model's own choices in it: log 110. -/
def Obligations.EveryStepAnswersANextState : Prop :=
  (∀ (i : Instr) (s : State), (∀ key w bs, i ≠ .hostMemoryAccess key w bs) → ∃ u, exec i s = .next u)
  ∧ (∀ (key : Nat) (w : HostAccess) (bs : List Byte) (s : State), (∃ u, exec (.hostMemoryAccess key w bs) s = .next u)
      ∨ ∃ k, exec (.hostMemoryAccess key w bs) s = .fault (.noSuchMemory k))
  ∧ (∀ s : State, ∃ u, step s = .next u)
end

