-- ==== Sys2Proof/Laws/PerInstr.lean ====
section
/-!
SUPPORT. Per-instruction laws: the family TriggerCode (spec/07_encoding.md R145, R146), one lemma per constructor of Instr.
-/

namespace Sys2Proof.Laws.TriggerCode

/-- The destination code of a trigger belongs to that trigger: the opcode map gives back the constructor. -/
def Statement (i : Instr) : Prop := ∀ d o, i.trigger = some (d, o) → ∃ mk, trigOfCode d = some mk ∧ mk o = i


theorem move (guard : Option Guard) (src : Src) (dst : Dst) (rot : Bool) : Statement (Instr.move guard src dst rot) := by
  intro d o h; cases h

theorem shortImmediate (guard : Option Guard) (imm : BitVec 9) (dst : Dst) (rot : Bool) : Statement (Instr.shortImmediate guard imm dst rot) := by
  intro d o h; cases h

theorem literal (lit : BitVec 30) : Statement (Instr.literal lit) := by
  intro d o h; cases h

theorem header (yield : Bool) (wait : Bool) (waypoint : Bool) (e3 e2 e1 : Byte) : Statement (Instr.header yield wait waypoint e3 e2 e1) := by
  intro d o h; cases h

theorem cuAdd (op : TOp) : Statement (Instr.cuAdd op) := by
  intro d o h; cases h; exact ⟨_, rfl, rfl⟩

theorem cuSub (op : TOp) : Statement (Instr.cuSub op) := by
  intro d o h; cases h; exact ⟨_, rfl, rfl⟩

theorem cuMul (op : TOp) : Statement (Instr.cuMul op) := by
  intro d o h; cases h; exact ⟨_, rfl, rfl⟩

theorem cuMulh (op : TOp) : Statement (Instr.cuMulh op) := by
  intro d o h; cases h; exact ⟨_, rfl, rfl⟩

theorem cuMulhn (op : TOp) : Statement (Instr.cuMulhn op) := by
  intro d o h; cases h; exact ⟨_, rfl, rfl⟩

theorem cuDivi (op : TOp) : Statement (Instr.cuDivi op) := by
  intro d o h; cases h; exact ⟨_, rfl, rfl⟩

theorem cuDivn (op : TOp) : Statement (Instr.cuDivn op) := by
  intro d o h; cases h; exact ⟨_, rfl, rfl⟩

theorem cuRemi (op : TOp) : Statement (Instr.cuRemi op) := by
  intro d o h; cases h; exact ⟨_, rfl, rfl⟩

theorem cuRemn (op : TOp) : Statement (Instr.cuRemn op) := by
  intro d o h; cases h; exact ⟨_, rfl, rfl⟩

theorem cuAnd (op : TOp) : Statement (Instr.cuAnd op) := by
  intro d o h; cases h; exact ⟨_, rfl, rfl⟩

theorem cuOr (op : TOp) : Statement (Instr.cuOr op) := by
  intro d o h; cases h; exact ⟨_, rfl, rfl⟩

theorem cuXor (op : TOp) : Statement (Instr.cuXor op) := by
  intro d o h; cases h; exact ⟨_, rfl, rfl⟩

theorem cuAndn (op : TOp) : Statement (Instr.cuAndn op) := by
  intro d o h; cases h; exact ⟨_, rfl, rfl⟩

theorem cuShl (op : TOp) : Statement (Instr.cuShl op) := by
  intro d o h; cases h; exact ⟨_, rfl, rfl⟩

theorem cuShr (op : TOp) : Statement (Instr.cuShr op) := by
  intro d o h; cases h; exact ⟨_, rfl, rfl⟩

theorem cuSar (op : TOp) : Statement (Instr.cuSar op) := by
  intro d o h; cases h; exact ⟨_, rfl, rfl⟩

theorem cuRol (op : TOp) : Statement (Instr.cuRol op) := by
  intro d o h; cases h; exact ⟨_, rfl, rfl⟩

theorem cuClz (op : TOp) : Statement (Instr.cuClz op) := by
  intro d o h; cases h; exact ⟨_, rfl, rfl⟩

theorem cuCtz (op : TOp) : Statement (Instr.cuCtz op) := by
  intro d o h; cases h; exact ⟨_, rfl, rfl⟩

theorem cuPopc (op : TOp) : Statement (Instr.cuPopc op) := by
  intro d o h; cases h; exact ⟨_, rfl, rfl⟩

theorem cuMini (op : TOp) : Statement (Instr.cuMini op) := by
  intro d o h; cases h; exact ⟨_, rfl, rfl⟩

theorem cuMaxi (op : TOp) : Statement (Instr.cuMaxi op) := by
  intro d o h; cases h; exact ⟨_, rfl, rfl⟩

theorem cuMinn (op : TOp) : Statement (Instr.cuMinn op) := by
  intro d o h; cases h; exact ⟨_, rfl, rfl⟩

theorem cuMaxn (op : TOp) : Statement (Instr.cuMaxn op) := by
  intro d o h; cases h; exact ⟨_, rfl, rfl⟩

theorem cuSxb (op : TOp) : Statement (Instr.cuSxb op) := by
  intro d o h; cases h; exact ⟨_, rfl, rfl⟩

theorem cuSxh (op : TOp) : Statement (Instr.cuSxh op) := by
  intro d o h; cases h; exact ⟨_, rfl, rfl⟩

theorem cuSxw (op : TOp) : Statement (Instr.cuSxw op) := by
  intro d o h; cases h; exact ⟨_, rfl, rfl⟩

theorem cuZxb (op : TOp) : Statement (Instr.cuZxb op) := by
  intro d o h; cases h; exact ⟨_, rfl, rfl⟩

theorem cuZxh (op : TOp) : Statement (Instr.cuZxh op) := by
  intro d o h; cases h; exact ⟨_, rfl, rfl⟩

theorem cuZxw (op : TOp) : Statement (Instr.cuZxw op) := by
  intro d o h; cases h; exact ⟨_, rfl, rfl⟩

theorem cuBfx (op : TOp) : Statement (Instr.cuBfx op) := by
  intro d o h; cases h; exact ⟨_, rfl, rfl⟩

theorem cuBfi (op : TOp) : Statement (Instr.cuBfi op) := by
  intro d o h; cases h; exact ⟨_, rfl, rfl⟩

theorem cuSel (op : TOp) : Statement (Instr.cuSel op) := by
  intro d o h; cases h; exact ⟨_, rfl, rfl⟩

theorem cuCeq (op : TOp) : Statement (Instr.cuCeq op) := by
  intro d o h; cases h; exact ⟨_, rfl, rfl⟩

theorem cuCne (op : TOp) : Statement (Instr.cuCne op) := by
  intro d o h; cases h; exact ⟨_, rfl, rfl⟩

theorem cuClti (op : TOp) : Statement (Instr.cuClti op) := by
  intro d o h; cases h; exact ⟨_, rfl, rfl⟩

theorem cuCltn (op : TOp) : Statement (Instr.cuCltn op) := by
  intro d o h; cases h; exact ⟨_, rfl, rfl⟩

theorem cuClei (op : TOp) : Statement (Instr.cuClei op) := by
  intro d o h; cases h; exact ⟨_, rfl, rfl⟩

theorem cuClen (op : TOp) : Statement (Instr.cuClen op) := by
  intro d o h; cases h; exact ⟨_, rfl, rfl⟩

theorem cuBr (op : TOp) : Statement (Instr.cuBr op) := by
  intro d o h; cases h; exact ⟨_, rfl, rfl⟩

theorem cuJmp (op : TOp) : Statement (Instr.cuJmp op) := by
  intro d o h; cases h; exact ⟨_, rfl, rfl⟩

theorem cuCall (op : TOp) : Statement (Instr.cuCall op) := by
  intro d o h; cases h; exact ⟨_, rfl, rfl⟩

theorem cuRet (op : TOp) : Statement (Instr.cuRet op) := by
  intro d o h; cases h; exact ⟨_, rfl, rfl⟩

theorem cuLoop (op : TOp) : Statement (Instr.cuLoop op) := by
  intro d o h; cases h; exact ⟨_, rfl, rfl⟩

theorem cuRings (op : TOp) : Statement (Instr.cuRings op) := by
  intro d o h; cases h; exact ⟨_, rfl, rfl⟩

theorem cuTrap (op : TOp) : Statement (Instr.cuTrap op) := by
  intro d o h; cases h; exact ⟨_, rfl, rfl⟩

theorem cuBrk (op : TOp) : Statement (Instr.cuBrk op) := by
  intro d o h; cases h; exact ⟨_, rfl, rfl⟩

theorem cuSysRd (op : TOp) : Statement (Instr.cuSysRd op) := by
  intro d o h; cases h; exact ⟨_, rfl, rfl⟩

theorem cuSysWr (op : TOp) : Statement (Instr.cuSysWr op) := by
  intro d o h; cases h; exact ⟨_, rfl, rfl⟩

theorem cuTret (op : TOp) : Statement (Instr.cuTret op) := by
  intro d o h; cases h; exact ⟨_, rfl, rfl⟩

theorem cuTlbinv (op : TOp) : Statement (Instr.cuTlbinv op) := by
  intro d o h; cases h; exact ⟨_, rfl, rfl⟩

theorem cuFrz (op : TOp) : Statement (Instr.cuFrz op) := by
  intro d o h; cases h; exact ⟨_, rfl, rfl⟩

theorem cuThaw (op : TOp) : Statement (Instr.cuThaw op) := by
  intro d o h; cases h; exact ⟨_, rfl, rfl⟩

theorem cuPorterLd (op : TOp) : Statement (Instr.cuPorterLd op) := by
  intro d o h; cases h; exact ⟨_, rfl, rfl⟩

theorem cuTtLd (op : TOp) : Statement (Instr.cuTtLd op) := by
  intro d o h; cases h; exact ⟨_, rfl, rfl⟩

theorem cuCloakOut (op : TOp) : Statement (Instr.cuCloakOut op) := by
  intro d o h; cases h; exact ⟨_, rfl, rfl⟩

theorem cuCloakIn (op : TOp) : Statement (Instr.cuCloakIn op) := by
  intro d o h; cases h; exact ⟨_, rfl, rfl⟩

theorem cuPreempt (op : TOp) : Statement (Instr.cuPreempt op) := by
  intro d o h; cases h; exact ⟨_, rfl, rfl⟩

theorem cuHalt (op : TOp) : Statement (Instr.cuHalt op) := by
  intro d o h; cases h; exact ⟨_, rfl, rfl⟩

theorem cuCsw (op : TOp) : Statement (Instr.cuCsw op) := by
  intro d o h; cases h; exact ⟨_, rfl, rfl⟩

theorem axAdd (op : TOp) : Statement (Instr.axAdd op) := by
  intro d o h; cases h; exact ⟨_, rfl, rfl⟩

theorem axSub (op : TOp) : Statement (Instr.axSub op) := by
  intro d o h; cases h; exact ⟨_, rfl, rfl⟩

theorem axShl (op : TOp) : Statement (Instr.axShl op) := by
  intro d o h; cases h; exact ⟨_, rfl, rfl⟩

theorem axLea (op : TOp) : Statement (Instr.axLea op) := by
  intro d o h; cases h; exact ⟨_, rfl, rfl⟩

theorem axAnd (op : TOp) : Statement (Instr.axAnd op) := by
  intro d o h; cases h; exact ⟨_, rfl, rfl⟩

theorem vuFadd (op : TOp) : Statement (Instr.vuFadd op) := by
  intro d o h; cases h; exact ⟨_, rfl, rfl⟩

theorem vuFsub (op : TOp) : Statement (Instr.vuFsub op) := by
  intro d o h; cases h; exact ⟨_, rfl, rfl⟩

theorem vuFmul (op : TOp) : Statement (Instr.vuFmul op) := by
  intro d o h; cases h; exact ⟨_, rfl, rfl⟩

theorem vuFfma (op : TOp) : Statement (Instr.vuFfma op) := by
  intro d o h; cases h; exact ⟨_, rfl, rfl⟩

theorem vuFmin (op : TOp) : Statement (Instr.vuFmin op) := by
  intro d o h; cases h; exact ⟨_, rfl, rfl⟩

theorem vuFmax (op : TOp) : Statement (Instr.vuFmax op) := by
  intro d o h; cases h; exact ⟨_, rfl, rfl⟩

theorem vuFabs (op : TOp) : Statement (Instr.vuFabs op) := by
  intro d o h; cases h; exact ⟨_, rfl, rfl⟩

theorem vuFneg (op : TOp) : Statement (Instr.vuFneg op) := by
  intro d o h; cases h; exact ⟨_, rfl, rfl⟩

theorem vuFexp2 (op : TOp) : Statement (Instr.vuFexp2 op) := by
  intro d o h; cases h; exact ⟨_, rfl, rfl⟩

theorem vuFlog2 (op : TOp) : Statement (Instr.vuFlog2 op) := by
  intro d o h; cases h; exact ⟨_, rfl, rfl⟩

theorem vuFrcp (op : TOp) : Statement (Instr.vuFrcp op) := by
  intro d o h; cases h; exact ⟨_, rfl, rfl⟩

theorem vuFrsqrt (op : TOp) : Statement (Instr.vuFrsqrt op) := by
  intro d o h; cases h; exact ⟨_, rfl, rfl⟩

theorem vuFcvt (op : TOp) : Statement (Instr.vuFcvt op) := by
  intro d o h; cases h; exact ⟨_, rfl, rfl⟩

theorem vuIadd (op : TOp) : Statement (Instr.vuIadd op) := by
  intro d o h; cases h; exact ⟨_, rfl, rfl⟩

theorem vuIsub (op : TOp) : Statement (Instr.vuIsub op) := by
  intro d o h; cases h; exact ⟨_, rfl, rfl⟩

theorem vuImul (op : TOp) : Statement (Instr.vuImul op) := by
  intro d o h; cases h; exact ⟨_, rfl, rfl⟩

theorem vuImulh (op : TOp) : Statement (Instr.vuImulh op) := by
  intro d o h; cases h; exact ⟨_, rfl, rfl⟩

theorem vuIand (op : TOp) : Statement (Instr.vuIand op) := by
  intro d o h; cases h; exact ⟨_, rfl, rfl⟩

theorem vuIor (op : TOp) : Statement (Instr.vuIor op) := by
  intro d o h; cases h; exact ⟨_, rfl, rfl⟩

theorem vuIxor (op : TOp) : Statement (Instr.vuIxor op) := by
  intro d o h; cases h; exact ⟨_, rfl, rfl⟩

theorem vuIshl (op : TOp) : Statement (Instr.vuIshl op) := by
  intro d o h; cases h; exact ⟨_, rfl, rfl⟩

theorem vuIshr (op : TOp) : Statement (Instr.vuIshr op) := by
  intro d o h; cases h; exact ⟨_, rfl, rfl⟩

theorem vuIsar (op : TOp) : Statement (Instr.vuIsar op) := by
  intro d o h; cases h; exact ⟨_, rfl, rfl⟩

theorem vuImin (op : TOp) : Statement (Instr.vuImin op) := by
  intro d o h; cases h; exact ⟨_, rfl, rfl⟩

theorem vuImax (op : TOp) : Statement (Instr.vuImax op) := by
  intro d o h; cases h; exact ⟨_, rfl, rfl⟩

theorem vuNmin (op : TOp) : Statement (Instr.vuNmin op) := by
  intro d o h; cases h; exact ⟨_, rfl, rfl⟩

theorem vuNmax (op : TOp) : Statement (Instr.vuNmax op) := by
  intro d o h; cases h; exact ⟨_, rfl, rfl⟩

theorem vuFeq (op : TOp) : Statement (Instr.vuFeq op) := by
  intro d o h; cases h; exact ⟨_, rfl, rfl⟩

theorem vuFlt (op : TOp) : Statement (Instr.vuFlt op) := by
  intro d o h; cases h; exact ⟨_, rfl, rfl⟩

theorem vuFle (op : TOp) : Statement (Instr.vuFle op) := by
  intro d o h; cases h; exact ⟨_, rfl, rfl⟩

theorem vuIeq (op : TOp) : Statement (Instr.vuIeq op) := by
  intro d o h; cases h; exact ⟨_, rfl, rfl⟩

theorem vuIlt (op : TOp) : Statement (Instr.vuIlt op) := by
  intro d o h; cases h; exact ⟨_, rfl, rfl⟩

theorem vuNlt (op : TOp) : Statement (Instr.vuNlt op) := by
  intro d o h; cases h; exact ⟨_, rfl, rfl⟩

theorem vuVsel (op : TOp) : Statement (Instr.vuVsel op) := by
  intro d o h; cases h; exact ⟨_, rfl, rfl⟩

theorem vuVbcast (op : TOp) : Statement (Instr.vuVbcast op) := by
  intro d o h; cases h; exact ⟨_, rfl, rfl⟩

theorem vuVperm (op : TOp) : Statement (Instr.vuVperm op) := by
  intro d o h; cases h; exact ⟨_, rfl, rfl⟩

theorem vuVslide (op : TOp) : Statement (Instr.vuVslide op) := by
  intro d o h; cases h; exact ⟨_, rfl, rfl⟩

theorem vuVrsum (op : TOp) : Statement (Instr.vuVrsum op) := by
  intro d o h; cases h; exact ⟨_, rfl, rfl⟩

theorem vuVrmax (op : TOp) : Statement (Instr.vuVrmax op) := by
  intro d o h; cases h; exact ⟨_, rfl, rfl⟩

theorem vuVrmin (op : TOp) : Statement (Instr.vuVrmin op) := by
  intro d o h; cases h; exact ⟨_, rfl, rfl⟩

theorem vuVscan (op : TOp) : Statement (Instr.vuVscan op) := by
  intro d o h; cases h; exact ⟨_, rfl, rfl⟩

theorem vuVquant (op : TOp) : Statement (Instr.vuVquant op) := by
  intro d o h; cases h; exact ⟨_, rfl, rfl⟩

theorem vuVdq (op : TOp) : Statement (Instr.vuVdq op) := by
  intro d o h; cases h; exact ⟨_, rfl, rfl⟩

theorem vuVldf (op : TOp) : Statement (Instr.vuVldf op) := by
  intro d o h; cases h; exact ⟨_, rfl, rfl⟩

theorem vuVstf (op : TOp) : Statement (Instr.vuVstf op) := by
  intro d o h; cases h; exact ⟨_, rfl, rfl⟩

theorem vuVcnt (op : TOp) : Statement (Instr.vuVcnt op) := by
  intro d o h; cases h; exact ⟨_, rfl, rfl⟩

theorem mxBloadS4 (op : TOp) : Statement (Instr.mxBloadS4 op) := by
  intro d o h; cases h; exact ⟨_, rfl, rfl⟩

theorem mxBloadE4 (op : TOp) : Statement (Instr.mxBloadE4 op) := by
  intro d o h; cases h; exact ⟨_, rfl, rfl⟩

theorem mxBloadE5 (op : TOp) : Statement (Instr.mxBloadE5 op) := by
  intro d o h; cases h; exact ⟨_, rfl, rfl⟩

theorem mxBloadI8 (op : TOp) : Statement (Instr.mxBloadI8 op) := by
  intro d o h; cases h; exact ⟨_, rfl, rfl⟩

theorem mxBloadBf (op : TOp) : Statement (Instr.mxBloadBf op) := by
  intro d o h; cases h; exact ⟨_, rfl, rfl⟩

theorem mxBloadH (op : TOp) : Statement (Instr.mxBloadH op) := by
  intro d o h; cases h; exact ⟨_, rfl, rfl⟩

theorem mxMmaS4 (op : TOp) : Statement (Instr.mxMmaS4 op) := by
  intro d o h; cases h; exact ⟨_, rfl, rfl⟩

theorem mxMmaE4 (op : TOp) : Statement (Instr.mxMmaE4 op) := by
  intro d o h; cases h; exact ⟨_, rfl, rfl⟩

theorem mxMmaE5 (op : TOp) : Statement (Instr.mxMmaE5 op) := by
  intro d o h; cases h; exact ⟨_, rfl, rfl⟩

theorem mxMmaI8 (op : TOp) : Statement (Instr.mxMmaI8 op) := by
  intro d o h; cases h; exact ⟨_, rfl, rfl⟩

theorem mxMmaBf (op : TOp) : Statement (Instr.mxMmaBf op) := by
  intro d o h; cases h; exact ⟨_, rfl, rfl⟩

theorem mxMmaH (op : TOp) : Statement (Instr.mxMmaH op) := by
  intro d o h; cases h; exact ⟨_, rfl, rfl⟩

theorem mxSpaS4 (op : TOp) : Statement (Instr.mxSpaS4 op) := by
  intro d o h; cases h; exact ⟨_, rfl, rfl⟩

theorem mxSpaE4 (op : TOp) : Statement (Instr.mxSpaE4 op) := by
  intro d o h; cases h; exact ⟨_, rfl, rfl⟩

theorem mxSpaI8 (op : TOp) : Statement (Instr.mxSpaI8 op) := by
  intro d o h; cases h; exact ⟨_, rfl, rfl⟩

theorem tfTzero (op : TOp) : Statement (Instr.tfTzero op) := by
  intro d o h; cases h; exact ⟨_, rfl, rfl⟩

theorem tfTcopy (op : TOp) : Statement (Instr.tfTcopy op) := by
  intro d o h; cases h; exact ⟨_, rfl, rfl⟩

theorem tfTadd (op : TOp) : Statement (Instr.tfTadd op) := by
  intro d o h; cases h; exact ⟨_, rfl, rfl⟩

theorem tfTsub (op : TOp) : Statement (Instr.tfTsub op) := by
  intro d o h; cases h; exact ⟨_, rfl, rfl⟩

theorem tfTmul (op : TOp) : Statement (Instr.tfTmul op) := by
  intro d o h; cases h; exact ⟨_, rfl, rfl⟩

theorem tfTmax (op : TOp) : Statement (Instr.tfTmax op) := by
  intro d o h; cases h; exact ⟨_, rfl, rfl⟩

theorem tfTmin (op : TOp) : Statement (Instr.tfTmin op) := by
  intro d o h; cases h; exact ⟨_, rfl, rfl⟩

theorem tfTsmul (op : TOp) : Statement (Instr.tfTsmul op) := by
  intro d o h; cases h; exact ⟨_, rfl, rfl⟩

theorem tfTscr (op : TOp) : Statement (Instr.tfTscr op) := by
  intro d o h; cases h; exact ⟨_, rfl, rfl⟩

theorem tfTscc (op : TOp) : Statement (Instr.tfTscc op) := by
  intro d o h; cases h; exact ⟨_, rfl, rfl⟩

theorem tfTshr (op : TOp) : Statement (Instr.tfTshr op) := by
  intro d o h; cases h; exact ⟨_, rfl, rfl⟩

theorem tfTshc (op : TOp) : Statement (Instr.tfTshc op) := by
  intro d o h; cases h; exact ⟨_, rfl, rfl⟩

theorem tfTexp (op : TOp) : Statement (Instr.tfTexp op) := by
  intro d o h; cases h; exact ⟨_, rfl, rfl⟩

theorem tfTexpw (op : TOp) : Statement (Instr.tfTexpw op) := by
  intro d o h; cases h; exact ⟨_, rfl, rfl⟩

theorem tfTcvt (op : TOp) : Statement (Instr.tfTcvt op) := by
  intro d o h; cases h; exact ⟨_, rfl, rfl⟩

theorem tfTrmax (op : TOp) : Statement (Instr.tfTrmax op) := by
  intro d o h; cases h; exact ⟨_, rfl, rfl⟩

theorem tfTrsum (op : TOp) : Statement (Instr.tfTrsum op) := by
  intro d o h; cases h; exact ⟨_, rfl, rfl⟩

theorem tfTcmax (op : TOp) : Statement (Instr.tfTcmax op) := by
  intro d o h; cases h; exact ⟨_, rfl, rfl⟩

theorem tfTcsum (op : TOp) : Statement (Instr.tfTcsum op) := by
  intro d o h; cases h; exact ⟨_, rfl, rfl⟩

theorem tfTrmaxr (op : TOp) : Statement (Instr.tfTrmaxr op) := by
  intro d o h; cases h; exact ⟨_, rfl, rfl⟩

theorem tfTrsumr (op : TOp) : Statement (Instr.tfTrsumr op) := by
  intro d o h; cases h; exact ⟨_, rfl, rfl⟩

theorem tfResolve (op : TOp) : Statement (Instr.tfResolve op) := by
  intro d o h; cases h; exact ⟨_, rfl, rfl⟩

theorem tfTdrop (op : TOp) : Statement (Instr.tfTdrop op) := by
  intro d o h; cases h; exact ⟨_, rfl, rfl⟩

theorem tfTld (op : TOp) : Statement (Instr.tfTld op) := by
  intro d o h; cases h; exact ⟨_, rfl, rfl⟩

theorem tfTst (op : TOp) : Statement (Instr.tfTst op) := by
  intro d o h; cases h; exact ⟨_, rfl, rfl⟩

theorem tfTstr (op : TOp) : Statement (Instr.tfTstr op) := by
  intro d o h; cases h; exact ⟨_, rfl, rfl⟩

theorem tfTquant (op : TOp) : Statement (Instr.tfTquant op) := by
  intro d o h; cases h; exact ⟨_, rfl, rfl⟩

theorem tfTdq (op : TOp) : Statement (Instr.tfTdq op) := by
  intro d o h; cases h; exact ⟨_, rfl, rfl⟩

theorem tfFvexp (op : TOp) : Statement (Instr.tfFvexp op) := by
  intro d o h; cases h; exact ⟨_, rfl, rfl⟩

theorem tfFvset (op : TOp) : Statement (Instr.tfFvset op) := by
  intro d o h; cases h; exact ⟨_, rfl, rfl⟩

theorem tfFvst (op : TOp) : Statement (Instr.tfFvst op) := by
  intro d o h; cases h; exact ⟨_, rfl, rfl⟩

theorem tfTtrans (op : TOp) : Statement (Instr.tfTtrans op) := by
  intro d o h; cases h; exact ⟨_, rfl, rfl⟩

theorem luLdb (op : TOp) : Statement (Instr.luLdb op) := by
  intro d o h; cases h; exact ⟨_, rfl, rfl⟩

theorem luLdh (op : TOp) : Statement (Instr.luLdh op) := by
  intro d o h; cases h; exact ⟨_, rfl, rfl⟩

theorem luLdw (op : TOp) : Statement (Instr.luLdw op) := by
  intro d o h; cases h; exact ⟨_, rfl, rfl⟩

theorem luLdd (op : TOp) : Statement (Instr.luLdd op) := by
  intro d o h; cases h; exact ⟨_, rfl, rfl⟩

theorem luLdsb (op : TOp) : Statement (Instr.luLdsb op) := by
  intro d o h; cases h; exact ⟨_, rfl, rfl⟩

theorem luLdsh (op : TOp) : Statement (Instr.luLdsh op) := by
  intro d o h; cases h; exact ⟨_, rfl, rfl⟩

theorem luLdsw (op : TOp) : Statement (Instr.luLdsw op) := by
  intro d o h; cases h; exact ⟨_, rfl, rfl⟩

theorem luStb (op : TOp) : Statement (Instr.luStb op) := by
  intro d o h; cases h; exact ⟨_, rfl, rfl⟩

theorem luSth (op : TOp) : Statement (Instr.luSth op) := by
  intro d o h; cases h; exact ⟨_, rfl, rfl⟩

theorem luStw (op : TOp) : Statement (Instr.luStw op) := by
  intro d o h; cases h; exact ⟨_, rfl, rfl⟩

theorem luStd (op : TOp) : Statement (Instr.luStd op) := by
  intro d o h; cases h; exact ⟨_, rfl, rfl⟩

theorem luLdq (op : TOp) : Statement (Instr.luLdq op) := by
  intro d o h; cases h; exact ⟨_, rfl, rfl⟩

theorem luStq (op : TOp) : Statement (Instr.luStq op) := by
  intro d o h; cases h; exact ⟨_, rfl, rfl⟩

theorem luLdv (op : TOp) : Statement (Instr.luLdv op) := by
  intro d o h; cases h; exact ⟨_, rfl, rfl⟩

theorem luStv (op : TOp) : Statement (Instr.luStv op) := by
  intro d o h; cases h; exact ⟨_, rfl, rfl⟩

theorem luAmo (op : TOp) : Statement (Instr.luAmo op) := by
  intro d o h; cases h; exact ⟨_, rfl, rfl⟩

theorem luCas (op : TOp) : Statement (Instr.luCas op) := by
  intro d o h; cases h; exact ⟨_, rfl, rfl⟩

theorem luFamo (op : TOp) : Statement (Instr.luFamo op) := by
  intro d o h; cases h; exact ⟨_, rfl, rfl⟩

theorem luRed (op : TOp) : Statement (Instr.luRed op) := by
  intro d o h; cases h; exact ⟨_, rfl, rfl⟩

theorem luHnd (op : TOp) : Statement (Instr.luHnd op) := by
  intro d o h; cases h; exact ⟨_, rfl, rfl⟩

theorem luFown (op : TOp) : Statement (Instr.luFown op) := by
  intro d o h; cases h; exact ⟨_, rfl, rfl⟩

theorem luFfar (op : TOp) : Statement (Instr.luFfar op) := by
  intro d o h; cases h; exact ⟨_, rfl, rfl⟩

theorem luDrain (op : TOp) : Statement (Instr.luDrain op) := by
  intro d o h; cases h; exact ⟨_, rfl, rfl⟩

theorem luPf (op : TOp) : Statement (Instr.luPf op) := by
  intro d o h; cases h; exact ⟨_, rfl, rfl⟩

theorem xeGo (op : TOp) : Statement (Instr.xeGo op) := by
  intro d o h; cases h; exact ⟨_, rfl, rfl⟩

theorem xeStat (op : TOp) : Statement (Instr.xeStat op) := by
  intro d o h; cases h; exact ⟨_, rfl, rfl⟩

theorem xeCancel (op : TOp) : Statement (Instr.xeCancel op) := by
  intro d o h; cases h; exact ⟨_, rfl, rfl⟩

theorem xeDict (op : TOp) : Statement (Instr.xeDict op) := by
  intro d o h; cases h; exact ⟨_, rfl, rfl⟩

theorem fqTx (op : TOp) : Statement (Instr.fqTx op) := by
  intro d o h; cases h; exact ⟨_, rfl, rfl⟩

theorem fqTxe (op : TOp) : Statement (Instr.fqTxe op) := by
  intro d o h; cases h; exact ⟨_, rfl, rfl⟩

theorem syBinit (op : TOp) : Statement (Instr.syBinit op) := by
  intro d o h; cases h; exact ⟨_, rfl, rfl⟩

theorem syBarr (op : TOp) : Statement (Instr.syBarr op) := by
  intro d o h; cases h; exact ⟨_, rfl, rfl⟩

theorem syBexp (op : TOp) : Statement (Instr.syBexp op) := by
  intro d o h; cases h; exact ⟨_, rfl, rfl⟩

theorem syBtest (op : TOp) : Statement (Instr.syBtest op) := by
  intro d o h; cases h; exact ⟨_, rfl, rfl⟩

theorem syBarm (op : TOp) : Statement (Instr.syBarm op) := by
  intro d o h; cases h; exact ⟨_, rfl, rfl⟩

theorem syRinit (op : TOp) : Statement (Instr.syRinit op) := by
  intro d o h; cases h; exact ⟨_, rfl, rfl⟩

theorem syRclaim (op : TOp) : Statement (Instr.syRclaim op) := by
  intro d o h; cases h; exact ⟨_, rfl, rfl⟩

theorem syRtake (op : TOp) : Statement (Instr.syRtake op) := by
  intro d o h; cases h; exact ⟨_, rfl, rfl⟩

theorem syRgive (op : TOp) : Statement (Instr.syRgive op) := by
  intro d o h; cases h; exact ⟨_, rfl, rfl⟩

theorem syRfill (op : TOp) : Statement (Instr.syRfill op) := by
  intro d o h; cases h; exact ⟨_, rfl, rfl⟩

theorem syRstat (op : TOp) : Statement (Instr.syRstat op) := by
  intro d o h; cases h; exact ⟨_, rfl, rfl⟩

theorem syEnq (op : TOp) : Statement (Instr.syEnq op) := by
  intro d o h; cases h; exact ⟨_, rfl, rfl⟩

theorem sySpawn (op : TOp) : Statement (Instr.sySpawn op) := by
  intro d o h; cases h; exact ⟨_, rfl, rfl⟩

theorem syViews (op : TOp) : Statement (Instr.syViews op) := by
  intro d o h; cases h; exact ⟨_, rfl, rfl⟩

theorem syMerge (op : TOp) : Statement (Instr.syMerge op) := by
  intro d o h; cases h; exact ⟨_, rfl, rfl⟩

theorem syJoin (op : TOp) : Statement (Instr.syJoin op) := by
  intro d o h; cases h; exact ⟨_, rfl, rfl⟩

theorem syCancel (op : TOp) : Statement (Instr.syCancel op) := by
  intro d o h; cases h; exact ⟨_, rfl, rfl⟩

theorem syCtr (op : TOp) : Statement (Instr.syCtr op) := by
  intro d o h; cases h; exact ⟨_, rfl, rfl⟩

theorem syFarm (op : TOp) : Statement (Instr.syFarm op) := by
  intro d o h; cases h; exact ⟨_, rfl, rfl⟩

theorem syUntil (op : TOp) : Statement (Instr.syUntil op) := by
  intro d o h; cases h; exact ⟨_, rfl, rfl⟩

theorem syPrio (op : TOp) : Statement (Instr.syPrio op) := by
  intro d o h; cases h; exact ⟨_, rfl, rfl⟩

theorem waitSlotIssue (core : Nat) (ctx : Nat) : Statement (Instr.waitSlotIssue core ctx) := by
  intro d o h; cases h

theorem divisionComplete (core : Nat) (ctx : Nat) (tag : Nat) : Statement (Instr.divisionComplete core ctx tag) := by
  intro d o h; cases h

theorem tlbinvComplete (core : Nat) (ctx : Nat) : Statement (Instr.tlbinvComplete core ctx) := by
  intro d o h; cases h

theorem porterLoadInstall (core : Nat) (ctx : Nat) : Statement (Instr.porterLoadInstall core ctx) := by
  intro d o h; cases h

theorem cloakOutComplete (core : Nat) (ctx : Nat) : Statement (Instr.cloakOutComplete core ctx) := by
  intro d o h; cases h

theorem cloakInComplete (core : Nat) (ctx : Nat) : Statement (Instr.cloakInComplete core ctx) := by
  intro d o h; cases h

theorem haltComplete (core : Nat) (ctx : Nat) : Statement (Instr.haltComplete core ctx) := by
  intro d o h; cases h

theorem vuResultLand (core : Nat) (ctx : Nat) (tag : Nat) : Statement (Instr.vuResultLand core ctx tag) := by
  intro d o h; cases h

theorem bloadStart (core : Nat) (id : Nat) : Statement (Instr.bloadStart core id) := by
  intro d o h; cases h

theorem bloadComplete (core : Nat) (id : Nat) : Statement (Instr.bloadComplete core id) := by
  intro d o h; cases h

theorem mmaLaunch (core : Nat) (id : Nat) : Statement (Instr.mmaLaunch core id) := by
  intro d o h; cases h

theorem aReadRetirement (core : Nat) (id : Nat) : Statement (Instr.aReadRetirement core id) := by
  intro d o h; cases h

theorem mmaRowWrite (core : Nat) (id : Nat) : Statement (Instr.mmaRowWrite core id) := by
  intro d o h; cases h

theorem tfCommandStart (core : Nat) (id : Nat) : Statement (Instr.tfCommandStart core id) := by
  intro d o h; cases h

theorem tfRowStep (core : Nat) (id : Nat) : Statement (Instr.tfRowStep core id) := by
  intro d o h; cases h

theorem tfCommandEnd (core : Nat) (id : Nat) : Statement (Instr.tfCommandEnd core id) := by
  intro d o h; cases h

theorem ffarSerialise (core : Nat) (ctx : Nat) : Statement (Instr.ffarSerialise core ctx) := by
  intro d o h; cases h

theorem ffarComplete (core : Nat) (ctx : Nat) : Statement (Instr.ffarComplete core ctx) := by
  intro d o h; cases h

theorem drainComplete (core : Nat) (ctx : Nat) : Statement (Instr.drainComplete core ctx) := by
  intro d o h; cases h

theorem storeEnter (core : Nat) (ctx : Nat) : Statement (Instr.storeEnter core ctx) := by
  intro d o h; cases h

theorem storePerform (core : Nat) (ctx : Nat) (piece : Nat) : Statement (Instr.storePerform core ctx piece) := by
  intro d o h; cases h

theorem channelDeliver (id : Nat) : Statement (Instr.channelDeliver id) := by
  intro d o h; cases h

theorem loadResultArrive (core : Nat) (ctx : Nat) (tag : Nat) (value : Word) : Statement (Instr.loadResultArrive core ctx tag value) := by
  intro d o h; cases h

theorem pageWalkComplete (core : Nat) (part : Nat) (addr : Nat) : Statement (Instr.pageWalkComplete core part addr) := by
  intro d o h; cases h

theorem routerCombine (router : Nat) : Statement (Instr.routerCombine router) := by
  intro d o h; cases h

theorem routerWaitTimeout (router : Nat) (id : Nat) : Statement (Instr.routerWaitTimeout router id) := by
  intro d o h; cases h

theorem dictLoadComplete (core : Nat) (gen : Nat) : Statement (Instr.dictLoadComplete core gen) := by
  intro d o h; cases h

theorem xeResWrite (core : Nat) (ctx : Nat) (tag : Nat) (value : Word) : Statement (Instr.xeResWrite core ctx tag value) := by
  intro d o h; cases h

theorem jobBegin (core : Nat) : Statement (Instr.jobBegin core) := by
  intro d o h; cases h

theorem jobTransfer (core : Nat) (job : Nat) (idx : Nat) : Statement (Instr.jobTransfer core job idx) := by
  intro d o h; cases h

theorem jobComplete (core : Nat) (job : Nat) : Statement (Instr.jobComplete core job) := by
  intro d o h; cases h

theorem fqReplyArrive (id : Nat) : Statement (Instr.fqReplyArrive id) := by
  intro d o h; cases h

theorem fvContribution (id : Nat) : Statement (Instr.fvContribution id) := by
  intro d o h; cases h

theorem ringSlotFull (core : Nat) (base : Nat) (slot : Nat) : Statement (Instr.ringSlotFull core base slot) := by
  intro d o h; cases h

theorem ringSlotFree (core : Nat) (base : Nat) (slot : Nat) : Statement (Instr.ringSlotFree core base slot) := by
  intro d o h; cases h

theorem joinComplete (part : Nat) (parent : Nat) : Statement (Instr.joinComplete part parent) := by
  intro d o h; cases h

theorem mergeStep (part : Nat) (parent : Nat) : Statement (Instr.mergeStep part parent) := by
  intro d o h; cases h

theorem unitStopOnCancel (core : Nat) (ctx : Nat) : Statement (Instr.unitStopOnCancel core ctx) := by
  intro d o h; cases h

theorem deadlineReached (core : Nat) (ctx : Nat) (flag : Nat) : Statement (Instr.deadlineReached core ctx flag) := by
  intro d o h; cases h

theorem promiseReached (core : Nat) (ctx : Nat) : Statement (Instr.promiseReached core ctx) := by
  intro d o h; cases h

theorem contextReady (core : Nat) (ctx : Nat) : Statement (Instr.contextReady core ctx) := by
  intro d o h; cases h

theorem priorityLift (core : Nat) (ctx : Nat) : Statement (Instr.priorityLift core ctx) := by
  intro d o h; cases h

theorem runQuantumExpiry (core : Nat) (ctx : Nat) : Statement (Instr.runQuantumExpiry core ctx) := by
  intro d o h; cases h

theorem waypointDistance (core : Nat) (ctx : Nat) : Statement (Instr.waypointDistance core ctx) := by
  intro d o h; cases h

theorem queueEntryGrant (die : Nat) : Statement (Instr.queueEntryGrant die) := by
  intro d o h; cases h

theorem unitStart (part : Nat) (batch : Nat) : Statement (Instr.unitStart part batch) := by
  intro d o h; cases h

theorem launchCounterDiscard (part : Nat) (handle : Nat) : Statement (Instr.launchCounterDiscard part handle) := by
  intro d o h; cases h

theorem subqEntryTake (part : Nat) : Statement (Instr.subqEntryTake part) := by
  intro d o h; cases h

theorem unitSave (core : Nat) (ctx : Nat) : Statement (Instr.unitSave core ctx) := by
  intro d o h; cases h

theorem unitResume (part : Nat) (uid : Nat) : Statement (Instr.unitResume part uid) := by
  intro d o h; cases h

theorem dataError (code : Nat) (core : Nat) (met : ErrAt) : Statement (Instr.dataError code core met) := by
  intro d o h; cases h

theorem selfTestComplete (core : Nat) (pass : Bool) : Statement (Instr.selfTestComplete core pass) := by
  intro d o h; cases h

theorem faultRecordPerform (part : Nat) (record : List Word) : Statement (Instr.faultRecordPerform part record) := by
  intro d o h; cases h

theorem resume (part : Nat) (handle : Word) : Statement (Instr.resume part handle) := by
  intro d o h; cases h

theorem partCtlFresh (part : Nat) : Statement (Instr.partCtlFresh part) := by
  intro d o h; cases h

theorem fbCtlRevert (plane : Nat) : Statement (Instr.fbCtlRevert plane) := by
  intro d o h; cases h

theorem subqTailWrite (part : Nat) (tail : Nat) : Statement (Instr.subqTailWrite part tail) := by
  intro d o h; cases h

theorem evqCtlRead (core : Nat) (ctx : Nat) : Statement (Instr.evqCtlRead core ctx) := by
  intro d o h; cases h

theorem fltqCtlRead (core : Nat) (ctx : Nat) (part : Nat) : Statement (Instr.fltqCtlRead core ctx part) := by
  intro d o h; cases h

theorem systemRegisterWrite (core : Nat) (ctx : Nat) (number : Nat) (value : Word) : Statement (Instr.systemRegisterWrite core ctx number value) := by
  intro d o h; cases h

theorem timetableSlotBoundary (plane : Nat) (heard : BitVec 16) : Statement (Instr.timetableSlotBoundary plane heard) := by
  intro d o h; cases h

theorem flitSend (plane : Nat) (peer : Nat) : Statement (Instr.flitSend plane peer) := by
  intro d o h; cases h

theorem flitFillTimeout (plane : Nat) (peer : Nat) : Statement (Instr.flitFillTimeout plane peer) := by
  intro d o h; cases h

theorem flitReceive (plane : Nat) (src : Nat) (dst : Nat) (seq : Nat) (ack : Nat) (kind : Nat) (plen : Nat) (payload : Machine.Striped) (crc : BitVec 32) (msgs : List (Nat × Bool × Nat × Nat × List Word)) : Statement (Instr.flitReceive plane src dst seq ack kind plen payload crc msgs) := by
  intro d o h; cases h

theorem txLaneDark (plane : Nat) (lanes : BitVec 16) (laser : Nat) : Statement (Instr.txLaneDark plane lanes laser) := by
  intro d o h; cases h

theorem rxLaneDark (plane : Nat) (lanes : BitVec 16) : Statement (Instr.rxLaneDark plane lanes) := by
  intro d o h; cases h

theorem restripeHoldEnd (plane : Nat) : Statement (Instr.restripeHoldEnd plane) := by
  intro d o h; cases h

theorem laneRestored (plane : Nat) (tx : BitVec 16) (rx : BitVec 16) : Statement (Instr.laneRestored plane tx rx) := by
  intro d o h; cases h

theorem eventRecordPerform (record : List Word) : Statement (Instr.eventRecordPerform record) := by
  intro d o h; cases h

theorem packageReset (modules : Nat) (npkg : Nat) (pkg : Nat) (controls : List Word) : Statement (Instr.packageReset modules npkg pkg controls) := by
  intro d o h; cases h

theorem ucieModuleFailure (modules : Nat) : Statement (Instr.ucieModuleFailure modules) := by
  intro d o h; cases h

theorem bootGo : Statement Instr.bootGo := by
  intro d o h; cases h

theorem firmwareCheckComplete (controls : List Word) : Statement (Instr.firmwareCheckComplete controls) := by
  intro d o h; cases h

theorem powerFail : Statement Instr.powerFail := by
  intro d o h; cases h

theorem attest : Statement Instr.attest := by
  intro d o h; cases h

theorem attestReportComplete : Statement Instr.attestReportComplete := by
  intro d o h; cases h

theorem hostMemoryAccess (key : Nat) (what : Machine.HostAccess) (bytes : List Byte) :
    Statement (Instr.hostMemoryAccess key what bytes) := by
  intro d o h; cases h

theorem hostRegisterWrite (number : Nat) (value : Word) : Statement (Instr.hostRegisterWrite number value) := by
  intro d o h; cases h

theorem debuggerAccess (core : Nat) (ctx : Nat) (place : DbgPlace) (act : DbgAct) : Statement (Instr.debuggerAccess core ctx place act) := by
  intro d o h; cases h

theorem throttleStep (temp : Nat) : Statement (Instr.throttleStep temp) := by
  intro d o h; cases h

theorem thermalHalt (temp : Nat) : Statement (Instr.thermalHalt temp) := by
  intro d o h; cases h

theorem thermalRelease (temp : Nat) : Statement (Instr.thermalRelease temp) := by
  intro d o h; cases h

end Sys2Proof.Laws.TriggerCode
end

