-- ==== Sys2Proof/Laws/Decode.lean ====
section
/-!
SUPPORT. The laws of the encoding tables: each code gives back what it encodes, and each field of a packed slot reads as
what was packed.
-/

namespace Sys2Proof

open Sys2Proof.Machine (field)

/-! ## Codes -/

/-- A source's code has nine bits. -/
theorem Src.code_lt (s : Src) : s.code < 512 := by cases s <;> simp only [Src.code] <;> omega

/-- A destination's code has nine bits. -/
theorem Dst.code_lt (d : Dst) : d.code < 512 := by
  cases d with
  | latch l h => cases l <;> simp [Dst.code, Latch.code]
  | _ => simp only [Dst.code] <;> omega

/-- A source's code gives it back. -/
theorem srcOfCode_code (s : Src) : srcOfCode s.code = some s := by
  have h6 : ∀ i : BitVec 6, srcOfCode (Src.g i).code = some (.g i) ∧ srcOfCode (Src.v i).code = some (.v i)
      ∧ srcOfCode (Src.fv i).code = some (.fv i) := by decide +kernel
  have h5 : ∀ i : BitVec 5, srcOfCode (Src.tl i).code = some (.tl i) := by decide +kernel
  have h4 : ∀ i : BitVec 4, srcOfCode (Src.cb i).code = some (.cb i) ∧ srcOfCode (Src.p i).code = some (.p i) := by
    decide +kernel
  have h3 : ∀ i : BitVec 3, srcOfCode (Src.pw i).code = some (.pw i) ∧ srcOfCode (Src.vm i).code = some (.vm i) := by
    decide +kernel
  cases s with
  | g i => exact (h6 i).1
  | v i => exact (h6 i).2.1
  | fv i => exact (h6 i).2.2
  | tl i => exact h5 i
  | cb i => exact (h4 i).1
  | p i => exact (h4 i).2
  | pw i => exact (h3 i).1
  | vm i => exact (h3 i).2
  | _ => rfl

/-- A latch's code gives it back. -/
theorem latchOfCode_code (l : Latch) : latchOfCode l.code = some l := by cases l <;> rfl

/-- A destination's code, slices and hold bit give it back. -/
theorem dstOf_code (d : Dst) : dstOf d.code d.slices d.hold = .ok d := by
  cases d with
  | latch l h =>
    have h1 : 0x100 ≤ l.code := by cases l <;> decide
    have h2 : ¬ l.code < 0x40 := by omega
    simp [dstOf, Dst.code, Dst.slices, Dst.hold, h1, h2, latchOfCode_code]
  | none => simp [dstOf, Dst.code, Dst.slices, Dst.hold, latchOfCode]
  | g i m =>
    have h : i.toNat < 0x40 := i.isLt
    simp [dstOf, Dst.code, Dst.slices, Dst.hold, h]
  | v i =>
    have h : i.toNat < 64 := i.isLt
    have h1 : ¬ 256 ≤ 64 + i.toNat := by omega
    have h2 : 64 + i.toNat < 128 := by omega
    simp [dstOf, Dst.code, Dst.slices, Dst.hold, h1, h2]
  | tl i =>
    have h : i.toNat < 32 := i.isLt
    have h0 : ¬ 128 + i.toNat < 64 := by omega
    have h1 : ¬ 256 ≤ 128 + i.toNat := by omega
    have h2 : ¬ 128 + i.toNat < 128 := by omega
    have h3 : 128 + i.toNat < 160 := by omega
    simp [dstOf, Dst.code, Dst.slices, Dst.hold, h0, h1, h3]
  | p i =>
    have h : i.toNat < 16 := i.isLt
    have h0 : ¬ 240 + i.toNat < 64 := by omega
    have h1 : ¬ 256 ≤ 240 + i.toNat := by omega
    have h2 : ¬ 240 + i.toNat < 128 := by omega
    have h3 : ¬ 240 + i.toNat < 160 := by omega
    have h4 : 240 + i.toNat < 256 := by omega
    simp [dstOf, Dst.code, Dst.slices, Dst.hold, h0, h1, h2, h3, h4]

/-- The code of a destination that is no trigger names no trigger. -/
theorem trigOfCode_dst (d : Dst) : trigOfCode d.code = none := by
  have low : ∀ c, c < 0x102 → trigOfCode c = none := fun c h => if_pos h
  cases d with
  | latch l h => cases l <;> rfl
  | none => rfl
  | g i m => exact low _ (Nat.lt_trans i.isLt (by decide))
  | v i => have := i.isLt; exact low _ (by simp only [Dst.code]; omega)
  | tl i => have := i.isLt; exact low _ (by simp only [Dst.code]; omega)
  | p i => have := i.isLt; exact low _ (by simp only [Dst.code]; omega)

/-! ## Fields -/

/-- The guard bits are six. -/
theorem guardBits_lt (g : Option Guard) : guardBits g < 64 := by
  cases g with
  | none => decide
  | some g => have h := g.flag.isLt; simp only [guardBits]; split <;> omega

/-- GE, GF and GI give back the guard. -/
theorem guardOf_guardBits (g : Option Guard) :
    guardOf (guardBits g / 32) (guardBits g / 2 % 16) (guardBits g % 2) = .ok g := by
  cases g with
  | none => rfl
  | some g =>
    obtain ⟨f, i⟩ := g
    have h := f.isLt
    have h1 : (32 + 2 * f.toNat + (if i then 1 else 0)) / 32 = 1 := by split <;> omega
    have h2 : (32 + 2 * f.toNat + (if i then 1 else 0)) / 2 % 16 = f.toNat := by split <;> omega
    have h3 : (32 + 2 * f.toNat + (if i then 1 else 0)) % 2 = if i then 1 else 0 := by split <;> omega
    simp only [guardBits, h1, h2, h3, guardOf, if_true, BitVec.ofNat_toNat, BitVec.setWidth_eq]
    cases i <;> rfl

/-- Every field of a packed slot reads as what was packed. -/
theorem fields_pack (form guard s d slices : Nat) (hold rot : Bool) (hf : form < 4) (hg : guard < 64) (hs : s < 512)
    (hd : d < 512) (hm : slices < 16) :
    let w := (pack form guard s d slices hold rot).toNat
    field w 31 30 = form ∧ field w 29 29 = guard / 32 ∧ field w 28 25 = guard / 2 % 16 ∧ field w 24 24 = guard % 2
      ∧ field w 23 15 = s ∧ field w 14 6 = d ∧ field w 5 2 = slices ∧ (field w 1 1 == 1) = hold
      ∧ (field w 0 0 == 1) = rot := by
  have h0 : (pack form guard s d slices hold rot).toNat = form * 2 ^ 30 + guard * 2 ^ 24 + s * 2 ^ 15 + d * 2 ^ 6
      + slices * 2 ^ 2 + (if hold then 2 else 0) + (if rot then 1 else 0) := by
    simp only [pack, BitVec.toNat_ofNat]
    apply Nat.mod_eq_of_lt
    cases hold <;> cases rot <;> simp <;> omega
  have hb : ∀ b : Bool, (if b then (2 : Nat) else 0) = 2 * (if b then 1 else 0) := by decide
  have h1 : ∀ b : Bool, (if b then (1 : Nat) else 0) ≤ 1 := by decide
  have e1 : ∀ b : Bool, ((if b then (1 : Nat) else 0) == 1) = b := by decide
  have hh := h1 hold
  have hr := h1 rot
  simp only [h0, field, hb]
  generalize hH : (if hold then (1 : Nat) else 0) = H at *
  generalize hR : (if rot then (1 : Nat) else 0) = R at *
  refine ⟨by omega, by omega, by omega, by omega, by omega, by omega, by omega, ?_, ?_⟩
  · rw [show (form * 2 ^ 30 + guard * 2 ^ 24 + s * 2 ^ 15 + d * 2 ^ 6 + slices * 2 ^ 2 + 2 * H + R) / 2 ^ 1 % 2 ^ (1 + 1 - 1) = H
      by omega, ← hH, e1]
  · rw [show (form * 2 ^ 30 + guard * 2 ^ 24 + s * 2 ^ 15 + d * 2 ^ 6 + slices * 2 ^ 2 + 2 * H + R) / 2 ^ 0 % 2 ^ (0 + 1 - 0) = R
      by omega, ← hR, e1]

end Sys2Proof
end

