-- ==== Sys2Proof/Laws/Memory.lean ====
section
/-!
SUPPORT. The laws of the byte store: every operation on it keeps the canonical form, and a byte that has been written
reads as what was written while every other byte reads as before.
-/

namespace Sys2Proof.Machine

/-! ## The canonical form -/

/-- A list that rises from a bound rises from every lower one. -/
theorem risingFrom_mono {mem : Memory} {low low' : Nat} (h : risingFrom low mem = true) (hl : low' ≤ low) :
    risingFrom low' mem = true := by
  cases mem with
  | nil => rfl
  | cons c rest =>
    obtain ⟨k, b⟩ := c
    simp only [risingFrom, Bool.and_eq_true, decide_eq_true_eq] at h ⊢
    exact ⟨⟨Nat.le_trans hl h.1.1, h.1.2⟩, h.2⟩

/-- A write at or above the bound keeps a list rising from it. -/
theorem risingFrom_write {mem : Memory} {low key : Nat} (v : Byte) (h : risingFrom low mem = true) (hk : low ≤ key) :
    risingFrom low (mem.write key v) = true := by
  induction mem generalizing low with
  | nil =>
    simp only [Memory.write]
    split
    · rfl
    · simp_all [risingFrom]
  | cons c rest ih =>
    obtain ⟨k, b⟩ := c
    simp only [risingFrom, Bool.and_eq_true, decide_eq_true_eq] at h
    obtain ⟨⟨hlow, hb⟩, hr⟩ := h
    simp only [Memory.write]
    split
    · split
      · simp [risingFrom, hlow, hr]; simpa using hb
      · rename_i hlt hv
        have h1 : key + 1 ≤ k := hlt
        simp [risingFrom, hk, h1, hr, hv]; simpa using hb
    · split
      · split
        · exact risingFrom_mono hr (by omega)
        · rename_i _ heq hv
          subst heq
          simp [risingFrom, hk, hr, hv]
      · have := ih hr (by omega : k + 1 ≤ key)
        simp [risingFrom, hlow, this]; simpa using hb

/-- A write keeps the canonical form. -/
theorem Memory.wf_write {mem : Memory} (key : Nat) (v : Byte) (h : mem.wf = true) : (mem.write key v).wf = true :=
  risingFrom_write v h (Nat.zero_le key)

/-- Writes keep the canonical form. -/
theorem Memory.wf_writeAll {mem : Memory} (cells : List (Nat × Byte)) (h : mem.wf = true) :
    (mem.writeAll cells).wf = true := by
  induction cells generalizing mem with
  | nil => exact h
  | cons c rest ih => exact ih (Memory.wf_write c.1 c.2 h)

/-- Memory with nothing listed is in canonical form. -/
theorem Memory.wf_nil : Memory.wf [] = true := rfl

/-! ## Reads after writes -/

/-- Below the first key of a rising list every byte is blank. -/
theorem Memory.read_below {mem : Memory} {low key : Nat} (h : risingFrom low mem = true) (hk : key < low) :
    mem.read key = blank := by
  cases mem with
  | nil => rfl
  | cons c rest =>
    obtain ⟨k, b⟩ := c
    simp only [risingFrom, Bool.and_eq_true, decide_eq_true_eq] at h
    have h1 : key ≠ k := by omega
    have h2 : key < k := by omega
    simp [Memory.read, h1, h2]

/-- The byte written into a rising list reads as what was written. -/
theorem risingFrom_read_write_same {mem : Memory} {low : Nat} (key : Nat) (v : Byte) (h : risingFrom low mem = true) :
    (mem.write key v).read key = v := by
  induction mem generalizing low with
  | nil => simp only [Memory.write]; split <;> simp_all [Memory.read]
  | cons c rest ih =>
    obtain ⟨k, b⟩ := c
    simp only [risingFrom, Bool.and_eq_true, decide_eq_true_eq] at h
    simp only [Memory.write]
    split
    · rename_i hlt
      have hne : key ≠ k := by omega
      split
      · simp_all [Memory.read]
      · simp [Memory.read]
    · split
      · rename_i _ heq
        split
        · rename_i hv
          rw [hv]
          exact Memory.read_below h.2 (by omega)
        · simp [Memory.read]
      · rename_i h1 h2
        simp only [Memory.read, h1, h2, if_false]
        exact ih h.2

/-- Every other byte of a rising list reads as before. -/
theorem risingFrom_read_write_other {mem : Memory} {low key other : Nat} (v : Byte) (h : risingFrom low mem = true)
    (hne : other ≠ key) : (mem.write key v).read other = mem.read other := by
  induction mem generalizing low with
  | nil => simp only [Memory.write]; split <;> simp [Memory.read, hne]
  | cons c rest ih =>
    obtain ⟨k, b⟩ := c
    simp only [risingFrom, Bool.and_eq_true, decide_eq_true_eq] at h
    simp only [Memory.write]
    split
    · rename_i hlt
      split
      · rfl
      · simp only [Memory.read, hne, if_false]
        split
        · rename_i h1
          have h2 : other ≠ k := by omega
          have h3 : other < k := by omega
          simp [h2, h3]
        · rfl
    · split
      · rename_i _ heq
        subst heq
        split
        · simp only [Memory.read, hne, if_false]
          split
          · rename_i h1
            exact Memory.read_below h.2 (by omega)
          · rfl
        · simp [Memory.read, hne]
      · rename_i h1 h2
        simp only [Memory.read]
        split
        · rfl
        · split
          · rfl
          · exact ih h.2

/-- The byte written reads as what was written. -/
theorem Memory.read_write_same {mem : Memory} (key : Nat) (v : Byte) (h : mem.wf = true) :
    (mem.write key v).read key = v := risingFrom_read_write_same key v h

/-- Every other byte reads as before. -/
theorem Memory.read_write_other {mem : Memory} {key other : Nat} (v : Byte) (h : mem.wf = true) (hne : other ≠ key) :
    (mem.write key v).read other = mem.read other := risingFrom_read_write_other v h hne

/-- A byte that none of the writes names reads as before. -/
theorem Memory.read_writeAll_other {mem : Memory} {other : Nat} (cells : List (Nat × Byte)) (h : mem.wf = true)
    (hne : ∀ c ∈ cells, c.1 ≠ other) : (mem.writeAll cells).read other = mem.read other := by
  induction cells generalizing mem with
  | nil => rfl
  | cons c rest ih =>
    rw [Memory.writeAll, ih (Memory.wf_write c.1 c.2 h) fun d hd => hne d (List.mem_cons_of_mem _ hd)]
    exact Memory.read_write_other c.2 h fun e => hne c List.mem_cons_self e.symm

end Sys2Proof.Machine
end

