-- ==== Sys2Proof/Laws/State.lean ====
section
/-!
SUPPORT. What the named updates of the state change: one lemma per field per update, and what a part of the state reads as
after one of its kind has been changed.
-/

namespace Sys2Proof.Machine

/-! ## Lists changed at one place -/

@[simp] theorem length_modifyAt {α : Type} (f : α → α) (i : Nat) (l : List α) : (modifyAt f i l).length = l.length := by
  induction l generalizing i with
  | nil => cases i <;> rfl
  | cons a l ih => cases i <;> simp [modifyAt, ih]

theorem getElem?_modifyAt {α : Type} (f : α → α) (i j : Nat) (l : List α) :
    (modifyAt f i l)[j]? = if j = i then l[j]?.map f else l[j]? := by
  induction l generalizing i j with
  | nil => cases i <;> simp [modifyAt]
  | cons a l ih =>
    cases i with
    | zero => cases j <;> simp [modifyAt]
    | succ i => cases j <;> simp [modifyAt, ih]

theorem getD_modifyAt_same {α : Type} (f : α → α) (i : Nat) (l : List α) (d : α) (h : i < l.length) :
    (modifyAt f i l).getD i d = f (l.getD i d) := by
  rw [List.getD_eq_getElem?_getD, getElem?_modifyAt]
  simp [h]

theorem getD_modifyAt_other {α : Type} (f : α → α) (i j : Nat) (l : List α) (d : α) (h : j ≠ i) :
    (modifyAt f i l).getD j d = l.getD j d := by
  simp [List.getD_eq_getElem?_getD, getElem?_modifyAt, h]

/-! ## Fields of the machine after a named update -/

@[simp] theorem onCore_parts (m : Mach) (c : Nat) (f : Core → Core) : (m.onCore c f).parts = m.parts := rfl
@[simp] theorem onCore_dies (m : Mach) (c : Nat) (f : Core → Core) : (m.onCore c f).dies = m.dies := rfl
@[simp] theorem onCore_planes (m : Mach) (c : Nat) (f : Core → Core) : (m.onCore c f).planes = m.planes := rfl
@[simp] theorem onCore_boot (m : Mach) (c : Nat) (f : Core → Core) : (m.onCore c f).boot = m.boot := rfl
@[simp] theorem onCore_cycle (m : Mach) (c : Nat) (f : Core → Core) : (m.onCore c f).cycle = m.cycle := rfl
@[simp] theorem onCore_fbTime (m : Mach) (c : Nat) (f : Core → Core) : (m.onCore c f).fbTime = m.fbTime := rfl
@[simp] theorem onCore_npkg (m : Mach) (c : Nat) (f : Core → Core) : (m.onCore c f).npkg = m.npkg := rfl
@[simp] theorem onCore_pkg (m : Mach) (c : Nat) (f : Core → Core) : (m.onCore c f).pkg = m.pkg := rfl
@[simp] theorem onCore_evqBase (m : Mach) (c : Nat) (f : Core → Core) : (m.onCore c f).evqBase = m.evqBase := rfl
@[simp] theorem onCore_evqDropped (m : Mach) (c : Nat) (f : Core → Core) : (m.onCore c f).evqDropped = m.evqDropped := rfl
@[simp] theorem onCore_evqHead (m : Mach) (c : Nat) (f : Core → Core) : (m.onCore c f).evqHead = m.evqHead := rfl
@[simp] theorem onCore_evqTail (m : Mach) (c : Nat) (f : Core → Core) : (m.onCore c f).evqTail = m.evqTail := rfl
@[simp] theorem onCore_evqSize (m : Mach) (c : Nat) (f : Core → Core) : (m.onCore c f).evqSize = m.evqSize := rfl
@[simp] theorem onCore_porterOwn (m : Mach) (c : Nat) (f : Core → Core) : (m.onCore c f).porterOwn = m.porterOwn := rfl
@[simp] theorem onCore_handlers (m : Mach) (c : Nat) (f : Core → Core) : (m.onCore c f).handlers = m.handlers := rfl
@[simp] theorem onCore_heldReqs (m : Mach) (c : Nat) (f : Core → Core) : (m.onCore c f).heldReqs = m.heldReqs := rfl
@[simp] theorem onCore_xin (m : Mach) (c : Nat) (f : Core → Core) : (m.onCore c f).xin = m.xin := rfl
@[simp] theorem onCore_net (m : Mach) (c : Nat) (f : Core → Core) : (m.onCore c f).net = m.net := rfl
@[simp] theorem onCore_host (m : Mach) (c : Nat) (f : Core → Core) : (m.onCore c f).host = m.host := rfl
@[simp] theorem onCore_sent (m : Mach) (c : Nat) (f : Core → Core) : (m.onCore c f).sent = m.sent := rfl
@[simp] theorem onCore_parked (m : Mach) (c : Nat) (f : Core → Core) : (m.onCore c f).parked = m.parked := rfl
@[simp] theorem onCore_leaving (m : Mach) (c : Nat) (f : Core → Core) : (m.onCore c f).leaving = m.leaving := rfl
@[simp] theorem onCore_ingress (m : Mach) (c : Nat) (f : Core → Core) : (m.onCore c f).ingress = m.ingress := rfl
@[simp] theorem onCore_asked (m : Mach) (c : Nat) (f : Core → Core) : (m.onCore c f).asked = m.asked := rfl
@[simp] theorem onCore_replies (m : Mach) (c : Nat) (f : Core → Core) : (m.onCore c f).replies = m.replies := rfl
@[simp] theorem onCore_contribs (m : Mach) (c : Nat) (f : Core → Core) : (m.onCore c f).contribs = m.contribs := rfl
@[simp] theorem onCore_bars (m : Mach) (c : Nat) (f : Core → Core) : (m.onCore c f).bars = m.bars := rfl
@[simp] theorem onCore_cached (m : Mach) (c : Nat) (f : Core → Core) : (m.onCore c f).cached = m.cached := rfl
@[simp] theorem onCore_walks (m : Mach) (c : Nat) (f : Core → Core) : (m.onCore c f).walks = m.walks := rfl
@[simp] theorem onCore_records (m : Mach) (c : Nat) (f : Core → Core) : (m.onCore c f).records = m.records := rfl
@[simp] theorem onCore_tests (m : Mach) (c : Nat) (f : Core → Core) : (m.onCore c f).tests = m.tests := rfl
@[simp] theorem onCore_agenda (m : Mach) (c : Nat) (f : Core → Core) : (m.onCore c f).agenda = m.agenda := rfl
@[simp] theorem onCore_turn (m : Mach) (c : Nat) (f : Core → Core) : (m.onCore c f).turn = m.turn := rfl
@[simp] theorem onCore_issue (m : Mach) (c : Nat) (f : Core → Core) : (m.onCore c f).issue = m.issue := rfl
@[simp] theorem onCore_out (m : Mach) (c : Nat) (f : Core → Core) : (m.onCore c f).out = m.out := rfl
@[simp] theorem onCore_fresh (m : Mach) (c : Nat) (f : Core → Core) : (m.onCore c f).fresh = m.fresh := rfl
@[simp] theorem onCore_ids (m : Mach) (c : Nat) (f : Core → Core) : (m.onCore c f).ids = m.ids := rfl

@[simp] theorem onPart_cores (m : Mach) (h : Nat) (f : Part → Part) : (m.onPart h f).cores = m.cores := rfl
@[simp] theorem onPart_dies (m : Mach) (h : Nat) (f : Part → Part) : (m.onPart h f).dies = m.dies := rfl
@[simp] theorem onPart_planes (m : Mach) (h : Nat) (f : Part → Part) : (m.onPart h f).planes = m.planes := rfl
@[simp] theorem onPart_boot (m : Mach) (h : Nat) (f : Part → Part) : (m.onPart h f).boot = m.boot := rfl
@[simp] theorem onPart_cycle (m : Mach) (h : Nat) (f : Part → Part) : (m.onPart h f).cycle = m.cycle := rfl
@[simp] theorem onPart_fbTime (m : Mach) (h : Nat) (f : Part → Part) : (m.onPart h f).fbTime = m.fbTime := rfl
@[simp] theorem onPart_npkg (m : Mach) (h : Nat) (f : Part → Part) : (m.onPart h f).npkg = m.npkg := rfl
@[simp] theorem onPart_pkg (m : Mach) (h : Nat) (f : Part → Part) : (m.onPart h f).pkg = m.pkg := rfl
@[simp] theorem onPart_evqBase (m : Mach) (h : Nat) (f : Part → Part) : (m.onPart h f).evqBase = m.evqBase := rfl
@[simp] theorem onPart_evqDropped (m : Mach) (h : Nat) (f : Part → Part) : (m.onPart h f).evqDropped = m.evqDropped := rfl
@[simp] theorem onPart_evqHead (m : Mach) (h : Nat) (f : Part → Part) : (m.onPart h f).evqHead = m.evqHead := rfl
@[simp] theorem onPart_evqTail (m : Mach) (h : Nat) (f : Part → Part) : (m.onPart h f).evqTail = m.evqTail := rfl
@[simp] theorem onPart_evqSize (m : Mach) (h : Nat) (f : Part → Part) : (m.onPart h f).evqSize = m.evqSize := rfl
@[simp] theorem onPart_porterOwn (m : Mach) (h : Nat) (f : Part → Part) : (m.onPart h f).porterOwn = m.porterOwn := rfl
@[simp] theorem onPart_handlers (m : Mach) (h : Nat) (f : Part → Part) : (m.onPart h f).handlers = m.handlers := rfl
@[simp] theorem onPart_heldReqs (m : Mach) (h : Nat) (f : Part → Part) : (m.onPart h f).heldReqs = m.heldReqs := rfl
@[simp] theorem onPart_xin (m : Mach) (h : Nat) (f : Part → Part) : (m.onPart h f).xin = m.xin := rfl
@[simp] theorem onPart_net (m : Mach) (h : Nat) (f : Part → Part) : (m.onPart h f).net = m.net := rfl
@[simp] theorem onPart_host (m : Mach) (h : Nat) (f : Part → Part) : (m.onPart h f).host = m.host := rfl
@[simp] theorem onPart_sent (m : Mach) (h : Nat) (f : Part → Part) : (m.onPart h f).sent = m.sent := rfl
@[simp] theorem onPart_parked (m : Mach) (h : Nat) (f : Part → Part) : (m.onPart h f).parked = m.parked := rfl
@[simp] theorem onPart_leaving (m : Mach) (h : Nat) (f : Part → Part) : (m.onPart h f).leaving = m.leaving := rfl
@[simp] theorem onPart_ingress (m : Mach) (h : Nat) (f : Part → Part) : (m.onPart h f).ingress = m.ingress := rfl
@[simp] theorem onPart_asked (m : Mach) (h : Nat) (f : Part → Part) : (m.onPart h f).asked = m.asked := rfl
@[simp] theorem onPart_replies (m : Mach) (h : Nat) (f : Part → Part) : (m.onPart h f).replies = m.replies := rfl
@[simp] theorem onPart_contribs (m : Mach) (h : Nat) (f : Part → Part) : (m.onPart h f).contribs = m.contribs := rfl
@[simp] theorem onPart_bars (m : Mach) (h : Nat) (f : Part → Part) : (m.onPart h f).bars = m.bars := rfl
@[simp] theorem onPart_cached (m : Mach) (h : Nat) (f : Part → Part) : (m.onPart h f).cached = m.cached := rfl
@[simp] theorem onPart_walks (m : Mach) (h : Nat) (f : Part → Part) : (m.onPart h f).walks = m.walks := rfl
@[simp] theorem onPart_records (m : Mach) (h : Nat) (f : Part → Part) : (m.onPart h f).records = m.records := rfl
@[simp] theorem onPart_tests (m : Mach) (h : Nat) (f : Part → Part) : (m.onPart h f).tests = m.tests := rfl
@[simp] theorem onPart_agenda (m : Mach) (h : Nat) (f : Part → Part) : (m.onPart h f).agenda = m.agenda := rfl
@[simp] theorem onPart_turn (m : Mach) (h : Nat) (f : Part → Part) : (m.onPart h f).turn = m.turn := rfl
@[simp] theorem onPart_issue (m : Mach) (h : Nat) (f : Part → Part) : (m.onPart h f).issue = m.issue := rfl
@[simp] theorem onPart_out (m : Mach) (h : Nat) (f : Part → Part) : (m.onPart h f).out = m.out := rfl
@[simp] theorem onPart_fresh (m : Mach) (h : Nat) (f : Part → Part) : (m.onPart h f).fresh = m.fresh := rfl
@[simp] theorem onPart_ids (m : Mach) (h : Nat) (f : Part → Part) : (m.onPart h f).ids = m.ids := rfl

@[simp] theorem onDie_cores (m : Mach) (d : Nat) (f : Die → Die) : (m.onDie d f).cores = m.cores := rfl
@[simp] theorem onDie_parts (m : Mach) (d : Nat) (f : Die → Die) : (m.onDie d f).parts = m.parts := rfl
@[simp] theorem onDie_planes (m : Mach) (d : Nat) (f : Die → Die) : (m.onDie d f).planes = m.planes := rfl
@[simp] theorem onDie_boot (m : Mach) (d : Nat) (f : Die → Die) : (m.onDie d f).boot = m.boot := rfl
@[simp] theorem onDie_cycle (m : Mach) (d : Nat) (f : Die → Die) : (m.onDie d f).cycle = m.cycle := rfl
@[simp] theorem onDie_fbTime (m : Mach) (d : Nat) (f : Die → Die) : (m.onDie d f).fbTime = m.fbTime := rfl
@[simp] theorem onDie_npkg (m : Mach) (d : Nat) (f : Die → Die) : (m.onDie d f).npkg = m.npkg := rfl
@[simp] theorem onDie_pkg (m : Mach) (d : Nat) (f : Die → Die) : (m.onDie d f).pkg = m.pkg := rfl
@[simp] theorem onDie_evqBase (m : Mach) (d : Nat) (f : Die → Die) : (m.onDie d f).evqBase = m.evqBase := rfl
@[simp] theorem onDie_evqDropped (m : Mach) (d : Nat) (f : Die → Die) : (m.onDie d f).evqDropped = m.evqDropped := rfl
@[simp] theorem onDie_evqHead (m : Mach) (d : Nat) (f : Die → Die) : (m.onDie d f).evqHead = m.evqHead := rfl
@[simp] theorem onDie_evqTail (m : Mach) (d : Nat) (f : Die → Die) : (m.onDie d f).evqTail = m.evqTail := rfl
@[simp] theorem onDie_evqSize (m : Mach) (d : Nat) (f : Die → Die) : (m.onDie d f).evqSize = m.evqSize := rfl
@[simp] theorem onDie_porterOwn (m : Mach) (d : Nat) (f : Die → Die) : (m.onDie d f).porterOwn = m.porterOwn := rfl
@[simp] theorem onDie_handlers (m : Mach) (d : Nat) (f : Die → Die) : (m.onDie d f).handlers = m.handlers := rfl
@[simp] theorem onDie_heldReqs (m : Mach) (d : Nat) (f : Die → Die) : (m.onDie d f).heldReqs = m.heldReqs := rfl
@[simp] theorem onDie_xin (m : Mach) (d : Nat) (f : Die → Die) : (m.onDie d f).xin = m.xin := rfl
@[simp] theorem onDie_net (m : Mach) (d : Nat) (f : Die → Die) : (m.onDie d f).net = m.net := rfl
@[simp] theorem onDie_host (m : Mach) (d : Nat) (f : Die → Die) : (m.onDie d f).host = m.host := rfl
@[simp] theorem onDie_sent (m : Mach) (d : Nat) (f : Die → Die) : (m.onDie d f).sent = m.sent := rfl
@[simp] theorem onDie_parked (m : Mach) (d : Nat) (f : Die → Die) : (m.onDie d f).parked = m.parked := rfl
@[simp] theorem onDie_leaving (m : Mach) (d : Nat) (f : Die → Die) : (m.onDie d f).leaving = m.leaving := rfl
@[simp] theorem onDie_ingress (m : Mach) (d : Nat) (f : Die → Die) : (m.onDie d f).ingress = m.ingress := rfl
@[simp] theorem onDie_asked (m : Mach) (d : Nat) (f : Die → Die) : (m.onDie d f).asked = m.asked := rfl
@[simp] theorem onDie_replies (m : Mach) (d : Nat) (f : Die → Die) : (m.onDie d f).replies = m.replies := rfl
@[simp] theorem onDie_contribs (m : Mach) (d : Nat) (f : Die → Die) : (m.onDie d f).contribs = m.contribs := rfl
@[simp] theorem onDie_bars (m : Mach) (d : Nat) (f : Die → Die) : (m.onDie d f).bars = m.bars := rfl
@[simp] theorem onDie_cached (m : Mach) (d : Nat) (f : Die → Die) : (m.onDie d f).cached = m.cached := rfl
@[simp] theorem onDie_walks (m : Mach) (d : Nat) (f : Die → Die) : (m.onDie d f).walks = m.walks := rfl
@[simp] theorem onDie_records (m : Mach) (d : Nat) (f : Die → Die) : (m.onDie d f).records = m.records := rfl
@[simp] theorem onDie_tests (m : Mach) (d : Nat) (f : Die → Die) : (m.onDie d f).tests = m.tests := rfl
@[simp] theorem onDie_agenda (m : Mach) (d : Nat) (f : Die → Die) : (m.onDie d f).agenda = m.agenda := rfl
@[simp] theorem onDie_turn (m : Mach) (d : Nat) (f : Die → Die) : (m.onDie d f).turn = m.turn := rfl
@[simp] theorem onDie_issue (m : Mach) (d : Nat) (f : Die → Die) : (m.onDie d f).issue = m.issue := rfl
@[simp] theorem onDie_out (m : Mach) (d : Nat) (f : Die → Die) : (m.onDie d f).out = m.out := rfl
@[simp] theorem onDie_fresh (m : Mach) (d : Nat) (f : Die → Die) : (m.onDie d f).fresh = m.fresh := rfl
@[simp] theorem onDie_ids (m : Mach) (d : Nat) (f : Die → Die) : (m.onDie d f).ids = m.ids := rfl

@[simp] theorem onPlane_cores (m : Mach) (p : Nat) (f : Plane → Plane) : (m.onPlane p f).cores = m.cores := rfl
@[simp] theorem onPlane_parts (m : Mach) (p : Nat) (f : Plane → Plane) : (m.onPlane p f).parts = m.parts := rfl
@[simp] theorem onPlane_dies (m : Mach) (p : Nat) (f : Plane → Plane) : (m.onPlane p f).dies = m.dies := rfl
@[simp] theorem onPlane_boot (m : Mach) (p : Nat) (f : Plane → Plane) : (m.onPlane p f).boot = m.boot := rfl
@[simp] theorem onPlane_cycle (m : Mach) (p : Nat) (f : Plane → Plane) : (m.onPlane p f).cycle = m.cycle := rfl
@[simp] theorem onPlane_fbTime (m : Mach) (p : Nat) (f : Plane → Plane) : (m.onPlane p f).fbTime = m.fbTime := rfl
@[simp] theorem onPlane_npkg (m : Mach) (p : Nat) (f : Plane → Plane) : (m.onPlane p f).npkg = m.npkg := rfl
@[simp] theorem onPlane_pkg (m : Mach) (p : Nat) (f : Plane → Plane) : (m.onPlane p f).pkg = m.pkg := rfl
@[simp] theorem onPlane_evqBase (m : Mach) (p : Nat) (f : Plane → Plane) : (m.onPlane p f).evqBase = m.evqBase := rfl
@[simp] theorem onPlane_evqDropped (m : Mach) (p : Nat) (f : Plane → Plane) : (m.onPlane p f).evqDropped = m.evqDropped := rfl
@[simp] theorem onPlane_evqHead (m : Mach) (p : Nat) (f : Plane → Plane) : (m.onPlane p f).evqHead = m.evqHead := rfl
@[simp] theorem onPlane_evqTail (m : Mach) (p : Nat) (f : Plane → Plane) : (m.onPlane p f).evqTail = m.evqTail := rfl
@[simp] theorem onPlane_evqSize (m : Mach) (p : Nat) (f : Plane → Plane) : (m.onPlane p f).evqSize = m.evqSize := rfl
@[simp] theorem onPlane_porterOwn (m : Mach) (p : Nat) (f : Plane → Plane) : (m.onPlane p f).porterOwn = m.porterOwn := rfl
@[simp] theorem onPlane_handlers (m : Mach) (p : Nat) (f : Plane → Plane) : (m.onPlane p f).handlers = m.handlers := rfl
@[simp] theorem onPlane_heldReqs (m : Mach) (p : Nat) (f : Plane → Plane) : (m.onPlane p f).heldReqs = m.heldReqs := rfl
@[simp] theorem onPlane_xin (m : Mach) (p : Nat) (f : Plane → Plane) : (m.onPlane p f).xin = m.xin := rfl
@[simp] theorem onPlane_net (m : Mach) (p : Nat) (f : Plane → Plane) : (m.onPlane p f).net = m.net := rfl
@[simp] theorem onPlane_host (m : Mach) (p : Nat) (f : Plane → Plane) : (m.onPlane p f).host = m.host := rfl
@[simp] theorem onPlane_sent (m : Mach) (p : Nat) (f : Plane → Plane) : (m.onPlane p f).sent = m.sent := rfl
@[simp] theorem onPlane_parked (m : Mach) (p : Nat) (f : Plane → Plane) : (m.onPlane p f).parked = m.parked := rfl
@[simp] theorem onPlane_leaving (m : Mach) (p : Nat) (f : Plane → Plane) : (m.onPlane p f).leaving = m.leaving := rfl
@[simp] theorem onPlane_ingress (m : Mach) (p : Nat) (f : Plane → Plane) : (m.onPlane p f).ingress = m.ingress := rfl
@[simp] theorem onPlane_asked (m : Mach) (p : Nat) (f : Plane → Plane) : (m.onPlane p f).asked = m.asked := rfl
@[simp] theorem onPlane_replies (m : Mach) (p : Nat) (f : Plane → Plane) : (m.onPlane p f).replies = m.replies := rfl
@[simp] theorem onPlane_contribs (m : Mach) (p : Nat) (f : Plane → Plane) : (m.onPlane p f).contribs = m.contribs := rfl
@[simp] theorem onPlane_bars (m : Mach) (p : Nat) (f : Plane → Plane) : (m.onPlane p f).bars = m.bars := rfl
@[simp] theorem onPlane_cached (m : Mach) (p : Nat) (f : Plane → Plane) : (m.onPlane p f).cached = m.cached := rfl
@[simp] theorem onPlane_walks (m : Mach) (p : Nat) (f : Plane → Plane) : (m.onPlane p f).walks = m.walks := rfl
@[simp] theorem onPlane_records (m : Mach) (p : Nat) (f : Plane → Plane) : (m.onPlane p f).records = m.records := rfl
@[simp] theorem onPlane_tests (m : Mach) (p : Nat) (f : Plane → Plane) : (m.onPlane p f).tests = m.tests := rfl
@[simp] theorem onPlane_agenda (m : Mach) (p : Nat) (f : Plane → Plane) : (m.onPlane p f).agenda = m.agenda := rfl
@[simp] theorem onPlane_turn (m : Mach) (p : Nat) (f : Plane → Plane) : (m.onPlane p f).turn = m.turn := rfl
@[simp] theorem onPlane_issue (m : Mach) (p : Nat) (f : Plane → Plane) : (m.onPlane p f).issue = m.issue := rfl
@[simp] theorem onPlane_out (m : Mach) (p : Nat) (f : Plane → Plane) : (m.onPlane p f).out = m.out := rfl
@[simp] theorem onPlane_fresh (m : Mach) (p : Nat) (f : Plane → Plane) : (m.onPlane p f).fresh = m.fresh := rfl
@[simp] theorem onPlane_ids (m : Mach) (p : Nat) (f : Plane → Plane) : (m.onPlane p f).ids = m.ids := rfl

@[simp] theorem post_cores (m : Mach) (t : Nat) (e : Event) : (m.post t e).cores = m.cores := rfl
@[simp] theorem post_parts (m : Mach) (t : Nat) (e : Event) : (m.post t e).parts = m.parts := rfl
@[simp] theorem post_dies (m : Mach) (t : Nat) (e : Event) : (m.post t e).dies = m.dies := rfl
@[simp] theorem post_planes (m : Mach) (t : Nat) (e : Event) : (m.post t e).planes = m.planes := rfl
@[simp] theorem post_boot (m : Mach) (t : Nat) (e : Event) : (m.post t e).boot = m.boot := rfl
@[simp] theorem post_cycle (m : Mach) (t : Nat) (e : Event) : (m.post t e).cycle = m.cycle := rfl
@[simp] theorem post_fbTime (m : Mach) (t : Nat) (e : Event) : (m.post t e).fbTime = m.fbTime := rfl
@[simp] theorem post_npkg (m : Mach) (t : Nat) (e : Event) : (m.post t e).npkg = m.npkg := rfl
@[simp] theorem post_pkg (m : Mach) (t : Nat) (e : Event) : (m.post t e).pkg = m.pkg := rfl
@[simp] theorem post_evqBase (m : Mach) (t : Nat) (e : Event) : (m.post t e).evqBase = m.evqBase := rfl
@[simp] theorem post_evqDropped (m : Mach) (t : Nat) (e : Event) : (m.post t e).evqDropped = m.evqDropped := rfl
@[simp] theorem post_evqHead (m : Mach) (t : Nat) (e : Event) : (m.post t e).evqHead = m.evqHead := rfl
@[simp] theorem post_evqTail (m : Mach) (t : Nat) (e : Event) : (m.post t e).evqTail = m.evqTail := rfl
@[simp] theorem post_evqSize (m : Mach) (t : Nat) (e : Event) : (m.post t e).evqSize = m.evqSize := rfl
@[simp] theorem post_porterOwn (m : Mach) (t : Nat) (e : Event) : (m.post t e).porterOwn = m.porterOwn := rfl
@[simp] theorem post_handlers (m : Mach) (t : Nat) (e : Event) : (m.post t e).handlers = m.handlers := rfl
@[simp] theorem post_heldReqs (m : Mach) (t : Nat) (e : Event) : (m.post t e).heldReqs = m.heldReqs := rfl
@[simp] theorem post_xin (m : Mach) (t : Nat) (e : Event) : (m.post t e).xin = m.xin := rfl
@[simp] theorem post_net (m : Mach) (t : Nat) (e : Event) : (m.post t e).net = m.net := rfl
@[simp] theorem post_host (m : Mach) (t : Nat) (e : Event) : (m.post t e).host = m.host := rfl
@[simp] theorem post_sent (m : Mach) (t : Nat) (e : Event) : (m.post t e).sent = m.sent := rfl
@[simp] theorem post_parked (m : Mach) (t : Nat) (e : Event) : (m.post t e).parked = m.parked := rfl
@[simp] theorem post_leaving (m : Mach) (t : Nat) (e : Event) : (m.post t e).leaving = m.leaving := rfl
@[simp] theorem post_ingress (m : Mach) (t : Nat) (e : Event) : (m.post t e).ingress = m.ingress := rfl
@[simp] theorem post_asked (m : Mach) (t : Nat) (e : Event) : (m.post t e).asked = m.asked := rfl
@[simp] theorem post_replies (m : Mach) (t : Nat) (e : Event) : (m.post t e).replies = m.replies := rfl
@[simp] theorem post_contribs (m : Mach) (t : Nat) (e : Event) : (m.post t e).contribs = m.contribs := rfl
@[simp] theorem post_bars (m : Mach) (t : Nat) (e : Event) : (m.post t e).bars = m.bars := rfl
@[simp] theorem post_cached (m : Mach) (t : Nat) (e : Event) : (m.post t e).cached = m.cached := rfl
@[simp] theorem post_walks (m : Mach) (t : Nat) (e : Event) : (m.post t e).walks = m.walks := rfl
@[simp] theorem post_records (m : Mach) (t : Nat) (e : Event) : (m.post t e).records = m.records := rfl
@[simp] theorem post_tests (m : Mach) (t : Nat) (e : Event) : (m.post t e).tests = m.tests := rfl
@[simp] theorem post_turn (m : Mach) (t : Nat) (e : Event) : (m.post t e).turn = m.turn := rfl
@[simp] theorem post_issue (m : Mach) (t : Nat) (e : Event) : (m.post t e).issue = m.issue := rfl
@[simp] theorem post_out (m : Mach) (t : Nat) (e : Event) : (m.post t e).out = m.out := rfl
@[simp] theorem post_fresh (m : Mach) (t : Nat) (e : Event) : (m.post t e).fresh = m.fresh := rfl
@[simp] theorem post_ids (m : Mach) (t : Nat) (e : Event) : (m.post t e).ids = m.ids := rfl

@[simp] theorem write_cores (m : Mach) (l : List (Nat × Byte)) : (m.write l).cores = m.cores := rfl
@[simp] theorem write_parts (m : Mach) (l : List (Nat × Byte)) : (m.write l).parts = m.parts := rfl
@[simp] theorem write_dies (m : Mach) (l : List (Nat × Byte)) : (m.write l).dies = m.dies := rfl
@[simp] theorem write_planes (m : Mach) (l : List (Nat × Byte)) : (m.write l).planes = m.planes := rfl
@[simp] theorem write_boot (m : Mach) (l : List (Nat × Byte)) : (m.write l).boot = m.boot := rfl
@[simp] theorem write_cycle (m : Mach) (l : List (Nat × Byte)) : (m.write l).cycle = m.cycle := rfl
@[simp] theorem write_fbTime (m : Mach) (l : List (Nat × Byte)) : (m.write l).fbTime = m.fbTime := rfl
@[simp] theorem write_npkg (m : Mach) (l : List (Nat × Byte)) : (m.write l).npkg = m.npkg := rfl
@[simp] theorem write_pkg (m : Mach) (l : List (Nat × Byte)) : (m.write l).pkg = m.pkg := rfl
@[simp] theorem write_evqBase (m : Mach) (l : List (Nat × Byte)) : (m.write l).evqBase = m.evqBase := rfl
@[simp] theorem write_evqDropped (m : Mach) (l : List (Nat × Byte)) : (m.write l).evqDropped = m.evqDropped := rfl
@[simp] theorem write_evqHead (m : Mach) (l : List (Nat × Byte)) : (m.write l).evqHead = m.evqHead := rfl
@[simp] theorem write_evqTail (m : Mach) (l : List (Nat × Byte)) : (m.write l).evqTail = m.evqTail := rfl
@[simp] theorem write_evqSize (m : Mach) (l : List (Nat × Byte)) : (m.write l).evqSize = m.evqSize := rfl
@[simp] theorem write_porterOwn (m : Mach) (l : List (Nat × Byte)) : (m.write l).porterOwn = m.porterOwn := rfl
@[simp] theorem write_handlers (m : Mach) (l : List (Nat × Byte)) : (m.write l).handlers = m.handlers := rfl
@[simp] theorem write_heldReqs (m : Mach) (l : List (Nat × Byte)) : (m.write l).heldReqs = m.heldReqs := rfl
@[simp] theorem write_xin (m : Mach) (l : List (Nat × Byte)) : (m.write l).xin = m.xin := rfl
@[simp] theorem write_net (m : Mach) (l : List (Nat × Byte)) : (m.write l).net = m.net := rfl
@[simp] theorem write_host (m : Mach) (l : List (Nat × Byte)) : (m.write l).host = m.host := rfl
@[simp] theorem write_sent (m : Mach) (l : List (Nat × Byte)) : (m.write l).sent = m.sent := rfl
@[simp] theorem write_parked (m : Mach) (l : List (Nat × Byte)) : (m.write l).parked = m.parked := rfl
@[simp] theorem write_leaving (m : Mach) (l : List (Nat × Byte)) : (m.write l).leaving = m.leaving := rfl
@[simp] theorem write_ingress (m : Mach) (l : List (Nat × Byte)) : (m.write l).ingress = m.ingress := rfl
@[simp] theorem write_asked (m : Mach) (l : List (Nat × Byte)) : (m.write l).asked = m.asked := rfl
@[simp] theorem write_replies (m : Mach) (l : List (Nat × Byte)) : (m.write l).replies = m.replies := rfl
@[simp] theorem write_contribs (m : Mach) (l : List (Nat × Byte)) : (m.write l).contribs = m.contribs := rfl
@[simp] theorem write_bars (m : Mach) (l : List (Nat × Byte)) : (m.write l).bars = m.bars := rfl
@[simp] theorem write_cached (m : Mach) (l : List (Nat × Byte)) : (m.write l).cached = m.cached := rfl
@[simp] theorem write_walks (m : Mach) (l : List (Nat × Byte)) : (m.write l).walks = m.walks := rfl
@[simp] theorem write_records (m : Mach) (l : List (Nat × Byte)) : (m.write l).records = m.records := rfl
@[simp] theorem write_tests (m : Mach) (l : List (Nat × Byte)) : (m.write l).tests = m.tests := rfl
@[simp] theorem write_agenda (m : Mach) (l : List (Nat × Byte)) : (m.write l).agenda = m.agenda := rfl
@[simp] theorem write_turn (m : Mach) (l : List (Nat × Byte)) : (m.write l).turn = m.turn := rfl
@[simp] theorem write_issue (m : Mach) (l : List (Nat × Byte)) : (m.write l).issue = m.issue := rfl
@[simp] theorem write_fresh (m : Mach) (l : List (Nat × Byte)) : (m.write l).fresh = m.fresh := rfl
@[simp] theorem write_ids (m : Mach) (l : List (Nat × Byte)) : (m.write l).ids = m.ids := rfl

/-! ## Fields of a core after a change of one context -/

@[simp] theorem core_onCtx_running (co : Core) (k : Nat) (f : Ctx → Ctx) : (co.onCtx k f).running = co.running := rfl
@[simp] theorem core_onCtx_lastChosen (co : Core) (k : Nat) (f : Ctx → Ctx) : (co.onCtx k f).lastChosen = co.lastChosen := rfl
@[simp] theorem core_onCtx_mx (co : Core) (k : Nat) (f : Ctx → Ctx) : (co.onCtx k f).mx = co.mx := rfl
@[simp] theorem core_onCtx_bufs (co : Core) (k : Nat) (f : Ctx → Ctx) : (co.onCtx k f).bufs = co.bufs := rfl
@[simp] theorem core_onCtx_tf (co : Core) (k : Nat) (f : Ctx → Ctx) : (co.onCtx k f).tf = co.tf := rfl
@[simp] theorem core_onCtx_tfEnd (co : Core) (k : Nat) (f : Ctx → Ctx) : (co.onCtx k f).tfEnd = co.tfEnd := rfl
@[simp] theorem core_onCtx_rings (co : Core) (k : Nat) (f : Ctx → Ctx) : (co.onCtx k f).rings = co.rings := rfl
@[simp] theorem core_onCtx_resv (co : Core) (k : Nat) (f : Ctx → Ctx) : (co.onCtx k f).resv = co.resv := rfl
@[simp] theorem core_onCtx_waiters (co : Core) (k : Nat) (f : Ctx → Ctx) : (co.onCtx k f).waiters = co.waiters := rfl
@[simp] theorem core_onCtx_jobs (co : Core) (k : Nat) (f : Ctx → Ctx) : (co.onCtx k f).jobs = co.jobs := rfl
@[simp] theorem core_onCtx_nextJob (co : Core) (k : Nat) (f : Ctx → Ctx) : (co.onCtx k f).nextJob = co.nextJob := rfl
@[simp] theorem core_onCtx_rr (co : Core) (k : Nat) (f : Ctx → Ctx) : (co.onCtx k f).rr = co.rr := rfl
@[simp] theorem core_onCtx_jobsFrozen (co : Core) (k : Nat) (f : Ctx → Ctx) : (co.onCtx k f).jobsFrozen = co.jobsFrozen := rfl
@[simp] theorem core_onCtx_jobsHalted (co : Core) (k : Nat) (f : Ctx → Ctx) : (co.onCtx k f).jobsHalted = co.jobsHalted := rfl
@[simp] theorem core_onCtx_vuNext (co : Core) (k : Nat) (f : Ctx → Ctx) : (co.onCtx k f).vuNext = co.vuNext := rfl
@[simp] theorem core_onCtx_dicts (co : Core) (k : Nat) (f : Ctx → Ctx) : (co.onCtx k f).dicts = co.dicts := rfl
@[simp] theorem core_onCtx_curDict (co : Core) (k : Nat) (f : Ctx → Ctx) : (co.onCtx k f).curDict = co.curDict := rfl
@[simp] theorem core_onCtx_tlb (co : Core) (k : Nat) (f : Ctx → Ctx) : (co.onCtx k f).tlb = co.tlb := rfl
@[simp] theorem core_onCtx_nextIssue (co : Core) (k : Nat) (f : Ctx → Ctx) : (co.onCtx k f).nextIssue = co.nextIssue := rfl
@[simp] theorem core_onCtx_halted (co : Core) (k : Nat) (f : Ctx → Ctx) : (co.onCtx k f).halted = co.halted := rfl
@[simp] theorem core_onCtx_haltCauses (co : Core) (k : Nat) (f : Ctx → Ctx) : (co.onCtx k f).haltCauses = co.haltCauses := rfl
@[simp] theorem core_onCtx_retired (co : Core) (k : Nat) (f : Ctx → Ctx) : (co.onCtx k f).retired = co.retired := rfl

/-! ## Parts after a change -/

/-- The core changed. -/
theorem core_onCore_same (m : Mach) (c : Nat) (f : Core → Core) (h : c < m.cores.length) :
    (m.onCore c f).core c = f (m.core c) := getD_modifyAt_same f c m.cores .reset h

/-- Every other core is as before. -/
theorem core_onCore_other (m : Mach) (c d : Nat) (f : Core → Core) (h : d ≠ c) : (m.onCore c f).core d = m.core d :=
  getD_modifyAt_other f c d m.cores .reset h

/-- The context changed. -/
theorem ctx_onCtx_same (m : Mach) (c k : Nat) (f : Ctx → Ctx) (hc : c < m.cores.length)
    (hk : k < (m.core c).ctxs.length) : (m.onCtx c k f).ctx c k = f (m.ctx c k) := by
  unfold Mach.ctx Mach.onCtx
  rw [core_onCore_same m c _ hc]
  exact getD_modifyAt_same f k (m.core c).ctxs .reset hk

/-- Every other context is as before. -/
theorem ctx_onCtx_other (m : Mach) (c k d j : Nat) (f : Ctx → Ctx) (h : d ≠ c ∨ j ≠ k) :
    (m.onCtx c k f).ctx d j = m.ctx d j := by
  unfold Mach.ctx Mach.onCtx
  by_cases hd : d = c
  · subst hd
    have hj : j ≠ k := h.resolve_left (· rfl)
    by_cases hl : d < m.cores.length
    · rw [core_onCore_same m d _ hl]
      exact getD_modifyAt_other f k j (m.core d).ctxs .reset hj
    · have : (m.onCore d (·.onCtx k f)).core d = m.core d := by
        simp [Mach.core, Mach.onCore, List.getD_eq_getElem?_getD, hl]
      rw [this]
  · rw [core_onCore_other m c d _ hd]

/-- A partition changed. -/
theorem part_onPart_same (m : Mach) (h : Nat) (f : Part → Part) (hl : h < m.parts.length) :
    (m.onPart h f).part h = f (m.part h) := getD_modifyAt_same f h m.parts .reset hl

/-- Every other partition is as before. -/
theorem part_onPart_other (m : Mach) (h g : Nat) (f : Part → Part) (hn : g ≠ h) : (m.onPart h f).part g = m.part g :=
  getD_modifyAt_other f h g m.parts .reset hn

/-- A change of a core leaves the partitions. -/
@[simp] theorem part_onCore (m : Mach) (c h : Nat) (f : Core → Core) : (m.onCore c f).part h = m.part h := rfl
/-- Posting leaves the cores. -/
@[simp] theorem core_post (m : Mach) (t c : Nat) (e : Event) : (m.post t e).core c = m.core c := rfl
/-- Posting leaves the contexts. -/
@[simp] theorem ctx_post (m : Mach) (t c k : Nat) (e : Event) : (m.post t e).ctx c k = m.ctx c k := rfl
/-- Posting leaves the partitions. -/
@[simp] theorem part_post (m : Mach) (t h : Nat) (e : Event) : (m.post t e).part h = m.part h := rfl

/-! ## Latches and ports -/

/-- A latch that has been set. -/
theorem latchCell_setLatch_same (x : Ctx) (l : Latch) (c : LatchCell) (h : latchIndex l < x.latch.length) :
    (x.setLatch l c).latchCell l = c := getD_modifyAt_same _ _ _ _ h

/-- No two latches have one place. -/
theorem latchIndex_inj {l l' : Latch} (h : latchIndex l = latchIndex l') : l = l' := by
  cases l <;> cases l' <;> first | rfl | exact absurd h (by decide)

/-- Every other latch is as before. -/
theorem latchCell_setLatch_other (x : Ctx) (l l' : Latch) (c : LatchCell) (h : l' ≠ l) :
    (x.setLatch l c).latchCell l' = x.latchCell l' :=
  getD_modifyAt_other _ _ _ _ _ fun e => h (latchIndex_inj e)

/-- The port that has been replaced. -/
@[simp] theorem ports_get_set_same (p : Ports) (n : PortName) (v : Port) : (p.set n v).get n = v := by cases n <;> rfl

/-- Every other port is as before. -/
theorem ports_get_set_other (p : Ports) (n n' : PortName) (v : Port) (h : n' ≠ n) : (p.set n v).get n' = p.get n' := by
  cases n <;> cases n' <;> first | rfl | exact absurd rfl h

end Sys2Proof.Machine
end

