-- ==== Sys2Proof/Laws/Ops.lean ====
section
/-!
SUPPORT. One lemma for each shared operation: how a slot and an event end, what a trigger's frame does with its operand, and
what becomes of the latches.
-/

namespace Sys2Proof.Machine

/-- A check that succeeds goes on. -/
@[simp] theorem ok_bind {ε α β : Type} (a : α) (f : α → Except ε β) : (Except.ok a >>= f) = f a := rfl

/-- A check that stops, stops. -/
@[simp] theorem error_bind {ε α β : Type} (e : ε) (f : α → Except ε β) : (Except.error e >>= f) = Except.error e := rfl

/-! ## Ends -/

/-- A slot ends in a next state. -/
theorem endSlot_ok (s : State) (m : Mach) : endSlot s (.ok m) = .next (s.did m) := rfl

/-- A slot that raises ends in the state after its trap. -/
theorem endSlot_raise (s : State) (t : Trap) : endSlot s (.error (.raise t)) = .next (s.raised t) := rfl

/-- A slot that stops ends in the state after its stop. -/
theorem endSlot_error (s : State) (e : Stop) : endSlot s (.error e) = .next (s.held e) := rfl

/-- A slot always answers a next state, with the bytes it wrote committed. -/
theorem endSlot_commits (s : State) (r : Except Stop Mach) : ∃ m, endSlot s r = .next (commit s m) := by
  cases r <;> exact ⟨_, rfl⟩

/-- A commit keeps the invariant. -/
theorem commit_inv {s : State} (m : Mach) (h : s.Inv) : (commit s m).Inv := ⟨Memory.wf_writeAll m.out h.1, rfl⟩

/-- A slot keeps the invariant. -/
theorem endSlot_inv {s s' : State} {r : Except Stop Mach} (h : s.Inv) (e : endSlot s r = .next s') : s'.Inv := by
  obtain ⟨m, hm⟩ := endSlot_commits s r
  rw [hm] at e
  cases e
  exact commit_inv m h

/-- An event keeps the invariant. -/
theorem endEvent_inv {s s' : State} {m : Mach} (h : s.Inv) (e : endEvent s m = .next s') : s'.Inv := by
  cases e
  exact commit_inv m h

/-- Where nothing is written memory stays. -/
theorem commit_mem (s : State) (m : Mach) (h : m.out = []) : (commit s m).mem = s.mem := by simp [commit, h, Memory.writeAll]

/-- A byte that the commit does not write reads as before. -/
theorem commit_read_other (s : State) (m : Mach) (a : Nat) (h : s.mem.wf = true) (hn : ∀ c ∈ m.out, c.1 ≠ a) :
    (commit s m).mem.read a = s.mem.read a := Memory.read_writeAll_other m.out h hn

/-! ## The frame of a trigger -/

/-- A trigger whose T has been read does its operation. -/
theorem trigger_moves {o : TOp} {s : State} {v : Val} {m : Mach} (f : Memory → Mach → Val → Except Stop Mach)
    (h : s.Moves o v m) : trigger o s f = endSlot s (f s.mem m v) := by
  unfold State.Moves at h
  simp only [trigger, h]

/-- A trigger whose T is a value does its operation. -/
theorem triggerW_moves {o : TOp} {s : State} {t : Word} {m : Mach} (f : Memory → Mach → Word → Except Stop Mach)
    (h : s.Moves o (.word t) m) : triggerW o s f = endSlot s (f s.mem m t) := trigger_moves _ h

/-- A trigger that needs a value raises ILLMOVE on a reference (R144). -/
theorem triggerW_reference {o : TOp} {s : State} {k : RefKind} {i : Nat} {m : Mach}
    (f : Memory → Mach → Word → Except Stop Mach) (h : s.Moves o (.ref k i) m) :
    triggerW o s f = endSlot s illMove := trigger_moves _ h

/-- A trigger whose guard fails has no effect (R136). -/
theorem trigger_guarded {o : TOp} {s : State} (f : Memory → Mach → Val → Except Stop Mach)
    (hr : s.mach.issue.ready = none) (h : s.mach.me.guardHolds o.guard = false) :
    trigger o s f = .next (s.did s.mach) := by
  simp [trigger, operand, hr, h, endSlot, State.did]

/-! ## Latches -/

/-- What a change of a context leaves of it, it leaves of the context whose slot is being executed. -/
theorem me_onMe_same {α : Type} (m : Mach) (φ : Ctx → α) (f : Ctx → Ctx) (h : ∀ x, φ (f x) = φ x) :
    φ (m.onMe f).me = φ m.me := by
  simp only [Mach.me, Mach.onMe]
  rw [show (m.onCtx m.issue.core m.issue.ctx f).issue = m.issue from rfl]
  by_cases hc : m.issue.core < m.cores.length
  · by_cases hk : m.issue.ctx < (m.core m.issue.core).ctxs.length
    · rw [ctx_onCtx_same m _ _ _ hc hk, h]
    · unfold Mach.ctx Mach.onCtx
      rw [core_onCore_same m _ _ hc]
      simp [Core.onCtx, List.getD_eq_getElem?_getD, hk]
  · unfold Mach.ctx Mach.onCtx
    simp [Mach.core, Mach.onCore, List.getD_eq_getElem?_getD, hc]

/-- What taking a latch leaves of the context: all that emptying the latch leaves. -/
theorem takeIf_same {α : Type} (l : Latch) (m : Mach) (φ : Ctx → α) (h : ∀ x, φ (x.setLatch l .empty) = φ x) :
    φ (takeIf l m).2.me = φ m.me := by
  simp only [takeIf]
  split
  · rfl
  · simp only
    split
    · rfl
    · exact me_onMe_same m φ _ h

/-- Taking one latch leaves every other. -/
theorem takeIf_other (m : Mach) {l l' : Latch} (h : l' ≠ l) :
    (takeIf l m).2.me.latchCell l' = m.me.latchCell l' :=
  takeIf_same l m (·.latchCell l') fun _ => latchCell_setLatch_other _ _ _ _ h

/-- Taking a latch does not move the clock. -/
theorem takeIf_cycle (l : Latch) (m : Mach) : (takeIf l m).2.cycle = m.cycle := by
  simp only [takeIf]
  split
  · rfl
  · simp only
    split <;> rfl

/-- Taking latches keeps a cu trigger free to act. -/
theorem cuReady_taken (ls : List Latch) : ∀ {m : Mach}, m.CuReady → (m.taken ls).CuReady := by
  induction ls with
  | nil => exact fun h => h
  | cons l ls ih =>
    intro m h
    refine ih (m := (takeIf l m).2) ?_
    unfold Mach.CuReady at *
    rw [takeIf_same l m (·.privOp) (fun x => by cases l <;> rfl), takeIf_same l m (·.cuUntil) (fun x => by cases l <;> rfl),
      takeIf_cycle]
    exact h

/-- A latch that holds a value is taken with it. -/
theorem take_holds {m : Mach} {l : Latch} {v : Val} (code : Nat) (h : m.Holds l v) :
    take code l m = .ok (v, (takeIf l m).2) := by
  unfold Mach.Holds at h
  simp only [take, takeIf, h]

/-- A latch that is empty raises LATCH_EMPTY with the trigger's code (R57). -/
theorem take_empty {m : Mach} {l : Latch} (code : Nat) (h : (m.me.latchCell l).val = none) :
    take code l m = .error (.raise ⟨.latchEmpty, code, 0, 4, false, false⟩) := by
  simp only [take, h]

/-- Taking one latch leaves what another holds. -/
theorem holds_takeIf {m : Mach} {l l' : Latch} {v : Val} (h : m.Holds l' v) (hne : l' ≠ l) : (takeIf l m).2.Holds l' v := by
  unfold Mach.Holds at *
  rw [takeIf_other m hne, h]

/-- A trigger on one latch. -/
theorem with1_holds {m : Mach} {a : Latch} {v : Val} {okA : Val → Bool} (code : Nat) (f : Val → Mach → Except Stop Mach)
    (h : m.Holds a v) (hok : okA v = true) : with1 code a okA m f = f v (m.taken [a]) := by
  have h' := h
  unfold Mach.Holds at h'
  simp [with1, checkKinds, h', hok, take_holds code h, Mach.taken]

/-- A trigger on two latches. -/
theorem with2_holds {m : Mach} {a b : Latch} {va vb : Val} {okA okB : Val → Bool} (code : Nat)
    (f : Val → Val → Mach → Except Stop Mach) (ha : m.Holds a va) (hb : m.Holds b vb) (hne : b ≠ a) (hoka : okA va = true)
    (hokb : okB vb = true) : with2 code a b okA okB m f = f va vb (m.taken [a, b]) := by
  have ha' := ha
  have hb' := hb
  unfold Mach.Holds at ha' hb'
  simp [with2, checkKinds, ha', hb', hoka, hokb, take_holds code ha, take_holds code (holds_takeIf hb hne), Mach.taken]

/-- A trigger on three latches. -/
theorem with3_holds {m : Mach} {a b d : Latch} {va vb vd : Val} {okA okB okD : Val → Bool} (code : Nat)
    (f : Val → Val → Val → Mach → Except Stop Mach) (ha : m.Holds a va) (hb : m.Holds b vb) (hd : m.Holds d vd)
    (hba : b ≠ a) (hda : d ≠ a) (hdb : d ≠ b) (hoka : okA va = true) (hokb : okB vb = true) (hokd : okD vd = true) :
    with3 code a b d okA okB okD m f = f va vb vd (m.taken [a, b, d]) := by
  have ha' := ha
  have hb' := hb
  have hd' := hd
  unfold Mach.Holds at ha' hb' hd'
  simp [with3, checkKinds, ha', hb', hd', hoka, hokb, hokd, take_holds code ha, take_holds code (holds_takeIf hb hba),
    take_holds code (holds_takeIf (holds_takeIf hd hda) hdb), Mach.taken]

/-- A cu trigger that nothing keeps waiting. -/
theorem cuFree_ready {m : Mach} (h : m.CuReady) : cuFree m = .ok () := by
  have : ¬ m.cycle < m.me.cuUntil := Nat.not_lt.mpr h.2
  simp [cuFree, h.1, this]

end Sys2Proof.Machine
end

