-- ==== Sys2Proof/Laws/Scalar.lean ====
section
/-!
SUPPORT. One lemma for each operation that scalar triggers share (spec/08_ops_control.md R150-R155, R173).
-/

namespace Sys2Proof.Machine

variable {o : TOp} {s : State} {m : Mach} {a b t : Word}

/-- A cu operation on T alone. -/
theorem cuUnary_moves (n : Nat) (f : Word → Word) (h : s.Moves o (.word t) m) (hc : m.CuReady) :
    cuUnary n f o s = .next (s.did (m.result .cu (f t) n)) := by
  rw [cuUnary, triggerW_moves _ h, cuFree_ready hc]
  rfl

/-- A cu operation on latch a and T. -/
theorem cuBinary_moves (code n : Nat) (f : Word → Word → Word) (h : s.Moves o (.word t) m) (hc : m.CuReady)
    (ha : m.Holds .cuA (.word a)) :
    cuBinary code n f o s = .next (s.did ((m.taken [.cuA]).result .cu (f a t) n)) := by
  rw [cuBinary, triggerW_moves _ h, with1_holds code _ ha (show Val.isWord (.word a) = true from rfl)]
  simp only [cuFree_ready (cuReady_taken [.cuA] hc)]
  rfl

/-- A cu operation on latches a and b and T. -/
theorem cuTernary_moves (code : Nat) (f : Word → Word → Word → Word) (h : s.Moves o (.word t) m) (hc : m.CuReady)
    (ha : m.Holds .cuA (.word a)) (hb : m.Holds .cuB (.word b)) :
    cuTernary code f o s = .next (s.did ((m.taken [.cuA, .cuB]).result .cu (f a b t) 1)) := by
  rw [cuTernary, triggerW_moves _ h, with2_holds code _ ha hb (show Latch.cuB ≠ .cuA by decide)
    (show Val.isWord (.word a) = true from rfl) (show Val.isWord (.word b) = true from rfl)]
  simp only [cuFree_ready (cuReady_taken [.cuA, .cuB] hc)]
  rfl

/-- An ax operation. -/
theorem axBinary_moves (code : Nat) (f : Word → Word → Word) (h : s.Moves o (.word t) m) (ha : m.Holds .axA (.word a)) :
    axBinary code f o s = .next (s.did ((m.taken [.axA]).result .ax (f a t) 1)) := by
  rw [axBinary, triggerW_moves _ h]
  simp only [with1_holds code _ ha (show Val.isWord (.word a) = true from rfl)]
  rfl

/-- A privileged trigger below its privilege raises PROT (R173). -/
theorem privTrigger_below {need : Priv} (f : Memory → Mach → Word → Except Stop Mach) (h : s.Moves o (.word t) m)
    (hp : m.me.priv.rank < need.rank) :
    privTrigger need o s f = .next (s.raised ⟨.prot, 1, 0, 3, false, false⟩) := by
  rw [privTrigger, triggerW_moves _ h]
  simp only [if_pos hp]
  rfl

/-- A privileged trigger with its privilege does its operation. -/
theorem privTrigger_moves {need : Priv} (f : Memory → Mach → Word → Except Stop Mach) (h : s.Moves o (.word t) m)
    (hc : m.CuReady) (hp : need.rank ≤ m.me.priv.rank) :
    privTrigger need o s f = endSlot s (f s.mem m t) := by
  rw [privTrigger, triggerW_moves _ h]
  simp only [if_neg (Nat.not_lt.mpr hp), cuFree_ready hc]
  rfl

end Sys2Proof.Machine
end

