-- ==== Sys2Proof/Tests/Slice0.lean ====
section
/-!
SUPPORT. Tests: words written out from the encoding tables, ill-formed instructions that the check refuses, single steps with
results worked out from the spec, and for each statement a state that meets its hypotheses. Expected results come from the
rules named.
-/

namespace Sys2Proof.Tests
open Sys2Proof.Machine

set_option Elab.async false

/-! ## Small states -/

/-- A unit of launch 1, job 1, depth 0. -/
def unit0 : UnitId := { (default : UnitId) with uid := 1, handle := 1, job := 1 }
/-- A context that runs it at privilege S. -/
def ctx0 : Ctx := { Ctx.reset with status := .running, priv := .s, unit := some unit0, pc := 0x1000 }
/-- Context x with latch l holding v. -/
def put (l : Latch) (v : Val) (x : Ctx) : Ctx := x.setLatch l ⟨some v, false⟩
/-- A machine whose core 0 has context x, which runs, and one free context. -/
def mach0 (x : Ctx) : Mach := { Mach.reset with cores := [{ Core.reset with ctxs := [x, .reset], running := some 0 }], cycle := 1000, ids := 9 }
/-- The state in which a slot of context x, whose operand v the bundle has read, is at issue. -/
def at_ (x : Ctx) (v : Val) : State := ⟨[], { mach0 x with issue := { Issue.idle with ready := some v } }⟩
/-- The state in which an event is to run. -/
def ev (x : Ctx) : State := ⟨[], mach0 x⟩
/-- An unguarded trigger from zero. -/
def op0 : TOp := ⟨none, .src .zero, false⟩
/-- The result port of cu after a step. -/
def cuRes (r : Host.Outcome State Fault Refusal) : Option (Word × Nat) :=
  match r with
  | .next s => some (s.mach.me.ports.cu.val, s.mach.me.ports.cu.readyAt)
  | _ => none
/-- Whether a step answers a next state of which p holds. -/
def answers (r : Host.Outcome State Fault Refusal) (p : State → Bool) : Bool :=
  match r with
  | .next s => p s
  | _ => false
/-- Whether an operation succeeds with a result of which p holds. -/
def okWith {α : Type} (r : Except Stop α) (p : α → Bool) : Bool :=
  match r with
  | .ok a => p a
  | .error _ => false
/-- The trap that a slot has raised. -/
def trapOf (r : Host.Outcome State Fault Refusal) : Option (Cause × Nat) :=
  match r with
  | .next s => match s.mach.issue.out with
    | .stopped (.raise t) => some (t.cause, t.detail)
    | _ => none
  | _ => none

/-! ## Decoding: words written bit by bit from R135 to R146 (form, guard, source, destination, slice mask, hold, rotate) -/

theorem test_decode_move_to_latch : decodeSlot 0b00_000000_000000101_100000000_0000_1_0#32 = .ok (.move none (.g 5) (.latch .cuA true) false) := rfl
theorem test_decode_guard_mask_rot :
    decodeSlot 0b00_100111_000000111_000001001_1010_0_1#32 = .ok (.move (some ⟨3, true⟩) (.g 7) (.g 9 10) true) := rfl
theorem test_decode_short : decodeSlot 0b01_000000_111111101_011110010_0000_0_0#32 = .ok (.shortImmediate none 0x1FD (.p 2) false) := rfl
theorem test_decode_literal : decodeSlot 0b10_000000000000000000000100001100#32 = .ok (.literal 0x10C) := rfl
theorem test_decode_header : decodeSlot 0b11_1_0_1_000_00000110_00000000_00000011#32 = .ok (.header true false true 6 0 3) := rfl
theorem test_decode_cu : decodeSlot 0b00_000000_100000000_100000011_0000_0_0#32 = .ok (.cuSub ⟨none, .src .cuRes, false⟩) := rfl
theorem test_decode_priv : decodeSlot 0b00_000000_000000011_100111100_0000_0_0#32 = .ok (.cuHalt ⟨none, .src (.g 3), false⟩) := rfl
theorem test_decode_ax : decodeSlot 0b00_101010_000000001_101000100_0000_0_0#32 = .ok (.axLea ⟨some ⟨5, false⟩, .src (.g 1), false⟩) := rfl
theorem test_decode_vu : decodeSlot 0b01_000000_000000011_101111001_0000_0_0#32 = .ok (.vuVcnt ⟨none, .imm 3, false⟩) := rfl
theorem test_decode_mx : decodeSlot 0b01_000000_000000010_110010110_0000_0_0#32 = .ok (.mxSpaI8 ⟨none, .imm 2, false⟩) := rfl
theorem test_decode_tf : decodeSlot 0b01_000000_000000000_110111011_0000_0_0#32 = .ok (.tfTtrans ⟨none, .imm 0, false⟩) := rfl
theorem test_decode_lu : decodeSlot 0b00_000000_000000010_111011010_0000_0_0#32 = .ok (.luPf ⟨none, .src (.g 2), false⟩) := rfl
theorem test_decode_xe : decodeSlot 0b00_000000_111111110_111100000_0000_0_0#32 = .ok (.xeGo ⟨none, .src .literal, false⟩) := rfl
theorem test_decode_fq : decodeSlot 0b01_000000_000000000_111100101_0000_0_0#32 = .ok (.fqTxe ⟨none, .imm 0, false⟩) := rfl
theorem test_decode_sy : decodeSlot 0b00_000000_111111111_111111110_0000_0_0#32 = .ok (.syPrio ⟨none, .src .zero, false⟩) := rfl
/-- R147. -/
theorem test_decode_empty : decodeSlot 0x00FFFFC0#32 = .ok (.move none .zero .none false) := rfl
/-- The worked encoding of spec/07_encoding.md: 0xE006_0003. -/
theorem test_decode_worked_header : decodeSlot 0xE0060003#32 = .ok (.header true false false 6 0 3) := rfl
/-- The other words of that table: pw1[3] -> g10:v, #-3 -> g12, g10 -> v7, g11 -> p4. -/
theorem test_decode_worked_moves : decodeSlot 0x00A08290#32 = .ok (.move none (.pw 1) (.g 10 4) false)
    ∧ decodeSlot 0x40FE8300#32 = .ok (.shortImmediate none 0x1FD (.g 12 0) false)
    ∧ decodeSlot 0x000511C0#32 = .ok (.move none (.g 10) (.v 7) false) ∧ decodeSlot 0x0005BD00#32 = .ok (.move none (.g 11) (.p 4) false) :=
  ⟨rfl, rfl, rfl, rfl⟩
/-- R136: GE = 0 with a bit of GF set. -/
theorem test_decode_refuses_guard : (decodeSlot 0b00_000001_000000101_100000000_0000_0_0#32).toOption = none := by decide
/-- R146: 0x197 is unassigned. -/
theorem test_decode_refuses_code : (decodeSlot 0b00_000000_000000101_110010111_0000_0_0#32).toOption = none := by decide

/-! ## Ill-formed instructions -/

theorem test_wf_rot_without_g : (Instr.move none (.p 1) .none true).wf = false := by decide
theorem test_wf_reference_to_g : (Instr.move none (.v 1) (.g 2 0) false).wf = false := by decide
theorem test_wf_short_rot : (Instr.shortImmediate none 1 (.p 1) true).wf = false := by decide
theorem test_wf_trigger_rot : (Instr.cuAdd ⟨none, .src (.p 1), true⟩).wf = false := by decide
theorem test_wf_trigger_immediate_rot : (Instr.axAdd ⟨none, .imm 1, true⟩).wf = false := by decide
theorem test_wf_loop_immediate : (Instr.cuLoop ⟨none, .imm 1, false⟩).wf = false := by decide
theorem test_wf_loop_rot : (Instr.cuLoop ⟨none, .src .zero, true⟩).wf = false := by decide
theorem test_wf_core : (Instr.haltComplete 160 0).wf = false := by decide
theorem test_wf_ctx : (Instr.contextReady 0 8).wf = false := by decide
theorem test_wf_good : (Instr.move none (.v 1) (.latch .vuA true) false).wf = true := by decide

/-! ## cu and ax -/

/-- A cu trigger with a and T. -/
def sCu (a t : Word) : State := at_ (put .cuA (.word a) ctx0) (.word t)
theorem test_add_wraps : cuRes (exec (.cuAdd op0) (sCu 0xFFFFFFFFFFFFFFFF 2)) = some (1, 1001) := by decide
theorem test_sub_order : cuRes (exec (.cuSub op0) (sCu 2 5)) = some (0xFFFFFFFFFFFFFFFD, 1001) := by decide
theorem test_mulh_signed : cuRes (exec (.cuMulh op0) (sCu 0xFFFFFFFFFFFFFFFF 2)) = some (0xFFFFFFFFFFFFFFFF, 1003) := by decide
theorem test_mulhn : cuRes (exec (.cuMulhn op0) (sCu 0xFFFFFFFFFFFFFFFF 2)) = some (1, 1003) := by decide
theorem test_sar_sign : cuRes (exec (.cuSar op0) (sCu 0x8000000000000000 65)) = some (0xC000000000000000, 1001) := by decide
theorem test_rol : cuRes (exec (.cuRol op0) (sCu 0x8000000000000001 1)) = some (3, 1001) := by decide
/-- The example of R154. -/
theorem test_bfx : cuRes (exec (.cuBfx op0) (sCu 0xABCD00 0x208)) = some (0xCD, 1001) := by decide
theorem test_clz_zero : cuRes (exec (.cuClz op0) (sCu 0 0)) = some (64, 1001) := by decide
theorem test_clti_signed : cuRes (exec (.cuClti op0) (sCu 0xFFFFFFFFFFFFFFFF 0)) = some (1, 1001) := by decide
theorem test_cltn_unsigned : cuRes (exec (.cuCltn op0) (sCu 0xFFFFFFFFFFFFFFFF 0)) = some (0, 1001) := by decide
/-- R153: the quotient by 0 is all ones, 24 cycles later. -/
theorem test_div_zero : answers (exec (.cuDivi op0) (sCu 7 0)) (fun s => s.mach.me.ports.cu.val == 0xFFFFFFFFFFFFFFFF
    && s.mach.agenda.map (·.1) == [1024]) = true := by decide
theorem test_div_min : answers (exec (.cuDivi op0) (sCu 0x8000000000000000 0xFFFFFFFFFFFFFFFF))
    (fun s => s.mach.me.ports.cu.val == 0x8000000000000000) = true := by decide
theorem test_latch_empty : trapOf (exec (.cuAdd op0) (at_ ctx0 (.word 1))) = some (.latchEmpty, 0x102) := by decide
theorem test_jmp_align : trapOf (exec (.cuJmp op0) (at_ ctx0 (.word 8))) = some (.align, 0) := by decide
theorem test_call_link : answers (exec (.cuCall op0) (at_ ctx0 (.word 0x2000)))
    (fun s => s.mach.issue.next == some 0x2000 && s.mach.me.ports.lnk.val == 0x1010) = true := by decide
theorem test_trap_enters : answers (exec (.cuTrap op0) (at_ ctx0 (.word 0x12345)))
    (fun s => s.mach.me.trap.pc == 0x1010 && s.mach.me.trap.detail == 0x2345 && s.mach.me.trap.cause == 0x0E) = true := by decide
theorem test_loop_skips : answers (exec (.cuLoop op0) (let s := at_ ctx0 (.word 0x100000000)
      { s with mach := { s.mach with issue := { s.mach.issue with ext := some 3 } } })) (fun s => s.mach.issue.next == some 0x1040) = true := by decide
theorem test_lea : answers (exec (.axLea op0) (at_ (put .axA (.word 0xFFFFFFFFFFFFFFF0) ctx0) (.word 0x0300000000000004)))
    (fun s => s.mach.me.ports.ax.val == 0x10) = true := by decide

/-- IntegerTriggersGiveTheirResults, AddressTriggersGiveTheirResults, BranchesLoopsAndRingRanges. -/
theorem witness_cu_binary : (sCu 5 7).Moves op0 (.word 7) (sCu 5 7).mach ∧ (sCu 5 7).mach.CuReady ∧ (sCu 5 7).mach.Holds .cuA (.word 5) :=
  ⟨rfl, ⟨rfl, by decide⟩, rfl⟩
theorem witness_cu_select : let s := at_ (put .cuB (.word 9) (put .cuA (.word 5) ctx0)) (.word 0)
    s.Moves op0 (.word 0) s.mach ∧ s.mach.CuReady ∧ s.mach.Holds .cuA (.word 5) ∧ s.mach.Holds .cuB (.word 9) :=
  ⟨rfl, ⟨rfl, by decide⟩, rfl, rfl⟩
theorem witness_division_waits : let s := at_ { put .cuA (.word 5) ctx0 with divUntil := 1001 } (.word 0)
    s.Moves op0 (.word 0) s.mach ∧ s.mach.CuReady ∧ s.mach.Holds .cuA (.word 5) ∧ s.mach.cycle < s.mach.me.divUntil :=
  ⟨rfl, ⟨rfl, by decide⟩, rfl, by decide⟩
theorem witness_division_issues : (sCu 5 0).mach.me.divUntil ≤ (sCu 5 0).mach.cycle := by decide
theorem witness_division_complete : let s := ev { ctx0 with ports := { Ports.zero with cu := ⟨3, 0, some 4⟩ } }
    s.mach.out = [] ∧ 0 < s.mach.cores.length ∧ 0 < (s.mach.core 0).ctxs.length ∧ (s.mach.ctx 0 0).ports.cu.tag = some 4 := by decide
theorem witness_ax : let s := at_ (put .axA (.word 5) ctx0) (.word 1)
    s.Moves op0 (.word 1) s.mach ∧ s.mach.Holds .axA (.word 5) := ⟨rfl, rfl⟩
theorem witness_branch : let s := at_ ctx0 (.word 32)
    s.Moves op0 (.word 32) s.mach ∧ s.mach.CuReady ∧ (32 : Word).toNat % 16 = 0 ∧ (8 : Word).toNat % 16 ≠ 0 :=
  ⟨rfl, ⟨rfl, by decide⟩, by decide, by decide⟩
theorem witness_loop_active : let s := at_ { ctx0 with loop := ⟨true, 0x1000, 1, 2, 0, []⟩ } (.word 1)
    s.Moves op0 (.word 1) s.mach ∧ s.mach.CuReady ∧ s.mach.me.loop.active = true := ⟨rfl, ⟨rfl, by decide⟩, rfl⟩
theorem witness_loop_skips : let s := at_ ctx0 (.word 0x100000000)
    s.Moves op0 (.word 0x100000000) s.mach ∧ s.mach.CuReady ∧ s.mach.me.loop.active = false ∧ (0x100000000 : Word).toNat % 2 ^ 32 = 0 :=
  ⟨rfl, ⟨rfl, by decide⟩, rfl, by decide⟩
/-- A machine whose code page 0 is cached: page of 1 MiB at virtual 0, physical 0, for code. -/
def coded (s : State) : State :=
  { s with mach := (s.mach.onCore 0 fun co => { co with tlb := [⟨0, 0, 0, 0x100000, 0x8200000000000000⟩] }).onPart 0 fun p =>
      { p with ptEn := [true, true, true] } }
theorem witness_loop_captures : let s := coded (at_ ctx0 (.word 2))
    s.Moves op0 (.word 2) s.mach ∧ s.mach.CuReady ∧ s.mach.me.loop.active = false ∧ (2 : Word).toNat % 2 ^ 32 ≠ 0
    ∧ (fetchBody s.mem s.mach 0 s.mach.me.priv 0x1010 1).toOption.isSome = true := ⟨rfl, ⟨rfl, by decide⟩, rfl, by decide, by decide⟩
theorem witness_replay : (⟨true, 0x1000, 1, 2, 0, []⟩ : Loop).active = true
    ∧ (0x1010 : Nat) = (0x1000 + 16 * 1) % 2 ^ 48 ∧ (0x1000 : Nat) ≠ (0x1000 + 16 * 1) % 2 ^ 48 := by decide
theorem witness_rings : let s := at_ ctx0 (.word 0x800000)
    s.Moves op0 (.word 0x800000) s.mach ∧ s.mach.CuReady ∧ s.mach.me.ranges.length = 8 := ⟨rfl, ⟨rfl, by decide⟩, rfl⟩
/-- R158: LEN = 0 with EN = 1 is invalid, LEN = 64 from 0 is valid, 65 is not. -/
theorem test_rings_bounds : cuRes (exec (.cuRings op0) (at_ ctx0 (.word 0x800000))) = some (0, 1001)
    ∧ cuRes (exec (.cuRings op0) (at_ ctx0 (.word 0xC00000))) = some (1, 1001)
    ∧ cuRes (exec (.cuRings op0) (at_ ctx0 (.word 0xC00100))) = some (0, 1001) := by decide

/-! ## Traps, privilege and the privileged operations -/

/-- TrapsAreEnteredAndReturnedFrom. -/
theorem witness_trap : let s := at_ ctx0 (.word 7)
    s.Moves op0 (.word 7) s.mach ∧ s.mach.CuReady ∧ s.mach.issue.core < s.mach.cores.length
    ∧ s.mach.issue.ctx < (s.mach.core s.mach.issue.core).ctxs.length ∧ s.mach.me.trap.active = false ∧ s.mach.me.loop.active = false
    ∧ s.mach.out = [] ∧ (s.mach.part 0).brkFrz = false :=
  ⟨rfl, ⟨rfl, by decide⟩, by decide, by decide, rfl, rfl, rfl, rfl⟩
/-- The state with DBG_CTL's BRKFRZ set. -/
def frzState : State := let s := at_ ctx0 (.word 7)
  { s with mach := s.mach.onPart 0 fun p => { p with brkFrz := true } }
theorem witness_break_freezes : frzState.Moves op0 (.word 7) frzState.mach ∧ frzState.mach.CuReady
    ∧ frzState.mach.me.trap.active = false ∧ (frzState.mach.part (partOf frzState.mach.issue.core)).brkFrz = true :=
  ⟨rfl, ⟨rfl, by decide⟩, rfl, rfl⟩
/-- A context in its handler. -/
def handling : Ctx := { ctx0 with trap := { TrapRegs.reset with active := true, pc := 0x2000 }, bank := some ⟨noLatches, [], .zero, .idle, none, none, 0x2000⟩ }
theorem witness_tret : let s := at_ handling (.word 0)
    s.Moves op0 (.word 0) s.mach ∧ s.mach.CuReady ∧ s.mach.me.priv ≠ .task ∧ s.mach.Placed ∧ s.mach.me.trap.active = true
    ∧ s.mach.me.bank = some ⟨noLatches, [], .zero, .idle, none, none, 0x2000⟩ := ⟨rfl, ⟨rfl, by decide⟩, by decide, by decide, rfl, rfl⟩
theorem test_tret_returns : answers (exec (.cuTret op0) (at_ handling (.word 0)))
    (fun s => s.mach.me.priv == .task && s.mach.issue.next == some 0x2000 && !s.mach.me.trap.active) = true := by decide

/-- PrivilegeIsCheckedAndProtFreezes. -/
theorem witness_prot : let s := at_ { ctx0 with priv := .task } (.word 0)
    s.Moves op0 (.word 0) s.mach ∧ s.mach.me.priv.rank < Priv.s.rank ∧ s.mach.me.priv.rank < Priv.f.rank := ⟨rfl, by decide, by decide⟩
theorem witness_firmware_only : (at_ ctx0 (.word 0)).mach.me.priv.rank < Priv.f.rank := by decide
theorem test_prot_detail : trapOf (exec (.cuHalt op0) (at_ { ctx0 with priv := .task } (.word 0))) = some (.prot, 1) := by decide
theorem witness_double_fault : let m := (ev handling).mach
    m.Has 0 0 ∧ (m.ctx 0 0).trap.active = true := by decide

/-- SystemRegistersAreReadAndWritten: a register of the own partition at S, one that needs F, an unassigned one. -/
theorem witness_sysreg : let s := at_ (put .cuA (.word 3) ctx0) (.word 0x018)
    s.Moves op0 (.word 0x018) s.mach ∧ s.mach.CuReady ∧ s.mach.me.priv ≠ .task ∧ s.mach.Holds .cuA (.word 3) ∧ s.mach.Placed
    ∧ ¬ s.mach.me.priv.rank < (regLevel s.mach.myPart 0x018 true).rank := ⟨rfl, ⟨rfl, by decide⟩, by decide, rfl, by decide, by decide⟩
theorem witness_sysreg_firmware : let m := (at_ ctx0 (.word 0x400)).mach
    m.me.priv.rank < (regLevel m.myPart 0x400 false).rank ∧ m.me.priv.rank < (regLevel m.myPart 0x019 true).rank := by decide
theorem witness_scratch : let m := (ev ctx0).mach
    0 < m.cores.length ∧ 0 < (m.core 0).ctxs.length ∧ (3 : Nat) < 4 ∧ (m.ctx 0 0).trap.scratch.length = 4 := by decide
theorem test_sysrd_late : answers (exec (.cuSysRd op0) (at_ { ctx0 with trap := { TrapRegs.reset with pc := 0x40 } } (.word 1)))
    (fun s => s.mach.me.ports.cu.val == 0x40 && s.mach.me.ports.cu.readyAt == 1004) = true := by decide
theorem test_csw_w1c : answers (exec (.cuCsw op0) (at_ { ctx0 with csw := 0xC } (.word 0x4))) (fun s => s.mach.me.csw == 8) = true := by decide
theorem witness_register_write : let s := ev ctx0
    s.mach.Has 0 0 ∧ s.mach.out = [] ∧ s.mach.parts.length = 8 ∧ (s.mach.part 0).ptEn.length = 3 ∧ 0 < (s.mach.part 0).ptBase.length
    ∧ ¬ (s.mach.ctx 0 0).priv.rank < (regLevel 0 0x300 true).rank ∧ (s.mach.ctx 0 0).priv.rank < (regLevel 0 0x400 true).rank := by decide

/-- MastersAreFrozenThawedPreemptedAndHalted: core 0 is in the partition, core 5 are not. -/
theorem witness_master : let s := at_ (put .cuA (.word 0) ctx0) (.word 0)
    s.Moves op0 (.word 0) s.mach ∧ s.mach.CuReady ∧ s.mach.me.priv ≠ .task ∧ s.mach.Holds .cuA (.word 0) ∧ s.mach.Placed
    ∧ partOf 0 = partOf s.mach.issue.core ∧ 0 < s.mach.cores.length ∧ 0 < (s.mach.core 0).ctxs.length ∧ partOf 5 ≠ partOf s.mach.issue.core :=
  ⟨rfl, ⟨rfl, by decide⟩, by decide, rfl, by decide, by decide, by decide, by decide, by decide⟩
theorem test_halt_core : answers (exec (.cuHalt op0) (at_ (put .cuA (.word 0) ctx0) (.word 0x3000))) (fun s => (s.mach.core 0).halted) = true := by decide
theorem test_halt_bad_kind : cuRes (exec (.cuHalt op0) (at_ (put .cuA (.word 0) ctx0) (.word 0x1000))) = some (1, 1001) := by decide
theorem test_frz_other_partition : trapOf (exec (.cuFrz op0) (at_ ctx0 (.word 0x50000))) = some (.prot, 2) := by decide
theorem witness_halt_complete : let s := ev { ctx0 with privOp := some (.halt 0 (some 1)) }
    s.mach.Has 0 0 ∧ (0 : Nat) ≠ 8 ∧ (s.mach.ctx 0 0).privOp = some (.halt 0 (some 1)) ∧ s.mach.ctxStill 0 1 = true := by decide
/-- A context whose mx command is still queued. -/
def mxBusy : Mach := (ev { ctx0 with privOp := some (.halt 0 (some 1)) }).mach.onCore 0 fun co =>
  { co with mx := [{ (default : MxCmd) with id := 3, ctx := 1 }], ctxs := co.ctxs.map fun x => { x with halted := true } }
theorem witness_halt_waits : mxBusy.Has 0 0 ∧ (mxBusy.ctx 0 1).halted = true ∧ mxBusy.ctxStill 0 1 = false := by decide

/-- TranslationsHandlersAndTablesAreLoaded. -/
theorem witness_tlbinv : let s := at_ (put .cuA (.word 2) ctx0) (.word 0x10000000000)
    s.Moves op0 (.word 0x10000000000) s.mach ∧ s.mach.CuReady ∧ s.mach.me.priv ≠ .task ∧ s.mach.Holds .cuA (.word 2) ∧ s.mach.Placed
    ∧ s.mach.me.priv ≠ .f := ⟨rfl, ⟨rfl, by decide⟩, by decide, rfl, by decide, by decide⟩
theorem witness_tlbinv_page : windowOf 0x10000000000 ≠ .vault ∧ windowOf 0x10000000000 ≠ .unassigned ∧ windowOf 0x100000000 = .vault := by decide
theorem witness_tlbinv_complete : let s := ev { ctx0 with privOp := some (.tlbinv 9 false 1 0 []) }
    s.mach.Has 0 0 ∧ (s.mach.ctx 0 0).privOp = some (.tlbinv 9 false 1 0 []) ∧ s.mach.storesDone 0 0 9 = true := by decide
/-- Core 0's vault begins with the image of a handler of one step. -/
def imaged (a : Word) : State := { at_ (put .cuA (.word a) ctx0) (.word 24) with mem := [(0x100000000, 1)] }
theorem witness_porter : let s := imaged 0x100000000
    let m1 := s.mach.taken [.cuA]
    s.Moves op0 (.word 24) s.mach ∧ s.mach.Holds .cuA (.word 0x100000000) ∧ imageStands 0x100000000 32 32 = true ∧ imageStands 0x100000010 32 32 = false
    ∧ (m1.handler 24).held = false ∧ ((readImageAt s.mem m1 0x100000000 32).toOption.map fun r => badHandler (wordsOfBytes r.1)) = some false
    ∧ ((readImageAt [] m1 0x100000000 32).toOption.map fun r => badHandler (wordsOfBytes r.1)) = some true
    ∧ m1.porterOwn.toNat / 2 ^ (3 * (24 - 24)) % 8 = m1.myPart ∧ m1.handlers.length = 8 :=
  ⟨rfl, rfl, by decide, by decide, rfl, by decide, by decide, by decide, by decide⟩
theorem test_porter_range : cuRes (exec (.cuPorterLd op0) (at_ (put .cuA (.word 0) ctx0) (.word 23))) = some (1, 1001)
    ∧ cuRes (exec (.cuPorterLd op0) (at_ (put .cuA (.word 0x100000010) ctx0) (.word 31))) = some (0x11, 1001) := by decide
theorem witness_porter_install : let s := ev { ctx0 with privOp := some (.porterLd 24 []) }
    (s.mach.ctx 0 0).privOp = some (.porterLd 24 []) ∧ s.mach.net.any (·.names 24) = false ∧ s.mach.portHolds 24 = false
    ∧ s.mach.foldUses 24 = false := by decide
/-- Core 0's vault begins with a table of one entry. -/
def tabled (a : Word) : State := { at_ (put .cuA (.word a) ctx0) (.word 0x100000000) with mem := [(0x100000006, 1)] }
theorem witness_table : let s := tabled 0
    let m1 := s.mach.taken [.cuA]
    s.Moves op0 (.word 0x100000000) s.mach ∧ imageStands 0x100000000 64 64 = true ∧ imageStands 0x100000000 (64 + 48 * 1) 64 = true
    ∧ ((readImageAt s.mem m1 0x100000000 64).toOption.map fun r => natLE (r.1.take 8) / 2 ^ 48 % 256) = some 1
    ∧ (readImageAt s.mem m1 0x100000000 112).toOption.isSome = true ∧ imageStands 0x100000020 64 64 = false :=
  ⟨rfl, by decide, by decide, by decide +kernel, by decide +kernel, by decide⟩
theorem test_table_plane : cuRes (exec (.cuTtLd op0) (tabled 4)) = some (1, 1001) := by decide

/-- CloakroomSavesAndRestoresAPartition. -/
theorem witness_cloak : let s := at_ { ctx0 with priv := .f } (.word 1)
    s.Moves op0 (.word 1) s.mach ∧ s.mach.CuReady ∧ s.mach.me.priv = .f ∧ s.mach.Placed ∧ (1 : Word).toNat ≠ partOf s.mach.issue.core
    ∧ partOf 40 ≠ 0 ∧ HaltCause.order ∉ (s.mach.core 40).haltCauses := ⟨rfl, ⟨rfl, by decide⟩, rfl, by decide, by decide, by decide, by decide⟩
/-- Every core but core 0 halted. -/
def stopped (m : Mach) : Mach := { m with cores := m.cores.take 1 ++ List.replicate 159 { Core.reset with halted := true, haltCauses := [.order], ctxs := [.reset] } }
/-- Nothing of partition 1 is busy or pending; with other values of its bank CLOAK_IN is turned away. -/
theorem witness_cloak_begins : let m := stopped (at_ { ctx0 with priv := .f } (.word 1)).mach
    (m.part 1).run = false ∧ (m.part 1).work.saves = [] ∧ ((m.part 1).valid.getD 1 false = false) ∧ (m.part 1).res = 0
    ∧ ∀ c, c < 160 → partOf c = 1 → HaltCause.order ∈ (m.core c).haltCauses ∧ m.coreStill c = true
      ∧ ∀ x ∈ (m.core c).ctxs, ∀ q ∈ x.fv, q.state ≠ .pending := by decide +kernel
theorem witness_cloak_pending : ∃ x : Ctx, ∃ q ∈ x.fv, q.state = .pending := ⟨{ ctx0 with fv := [{ FactorVec.zero with state := .pending }] }, _, .head _, rfl⟩
theorem witness_cloak_banks : let m := (ev ctx0).mach.onPart 1 fun p => { p with valid := [true, true], saved := true }
    (m.part 1).valid.getD (1 - (m.part 1).res) false = true ∧ (m.part 1).saved = true
    ∧ (((ev ctx0).mach.onPart 1 fun p => { p with valid := [true, true] }).part 1).saved = false := by decide
theorem test_cloak_statuses : cuRes (exec (.cuCloakOut op0) (at_ { ctx0 with priv := .f } (.word 8))) = some (1, 1001)
    ∧ cuRes (exec (.cuCloakIn op0) (at_ { ctx0 with priv := .f } (.word 0))) = some (2, 1001) := by decide
theorem witness_cloak_out : let s := ev { ctx0 with privOp := some (.cloakOut 1), ports := { Ports.zero with cu := ⟨0, 0, some 4⟩ } }
    s.mach.out = [] ∧ s.mach.Has 0 0 ∧ partOf 0 ≠ 1 ∧ (s.mach.ctx 0 0).ports.cu.tag.isSome = true ∧ 1 < s.mach.parts.length ∧ (s.mach.ctx 0 0).privOp = some (.cloakOut 1) ∧ s.mach.partSettled 1 = true ∧ (s.mach.part 1).images.length = 2
    ∧ (s.mach.part 1).valid.length = 2 ∧ (s.mach.part 1).res < 2 := by decide +kernel
theorem witness_cloak_in : let s := ev { ctx0 with privOp := some (.cloakIn 1), ports := { Ports.zero with cu := ⟨0, 0, some 4⟩ } }
    let im : Image := ⟨List.replicate 20 Core.reset, .reset, []⟩
    let s : State := { s with mach := { stopped (s.mach.onPart 1 fun p => { p with images := [none, some im] }) with out := [] } }
    s.mach.out = [] ∧ s.mach.Has 0 0 ∧ 1 < s.mach.parts.length ∧ (s.mach.ctx 0 0).ports.cu.tag.isSome = true
    ∧ (s.mach.ctx 0 0).privOp = some (.cloakIn 1) ∧ (s.mach.part 1).images.getD (1 - (s.mach.part 1).res) none = some im ∧ s.mach.cores.length = 160
    ∧ (∀ c, c < 160 → (s.mach.core c).retired = false) ∧ im.cores.length = 20 ∧ im.struck = [] := by decide +kernel

/-! ## Vector operations -/

/-- A context with four v registers, two masks and two factor vectors. -/
def ctxV : Ctx := { ctx0 with v := [List.replicate 256 3, List.replicate 256 0xFFFFFFFF, List.replicate 256 0, List.replicate 256 7],
                              vm := [BitVec.allOnes 256, 5], fv := [.zero, .zero] }
/-- vu.a, vu.b and vu.d name v0, v1 and v2, vu.m names vm1. -/
def sVu (t : Word) : State := at_ (put .vuM (.ref .vm 1) (put .vuD (.ref .v 2) (put .vuB (.ref .v 1) (put .vuA (.ref .v 0) ctxV)))) (.word t)
/-- The lanes that the results of a step are to write in v2. -/
def landed (r : Host.Outcome State Fault Refusal) : List (Option Cell) :=
  match r with
  | .next s => s.mach.me.landing.flatMap fun l => match l.dst with
    | .v 2 lanes => lanes
    | _ => []
  | _ => []
theorem test_iadd_wraps : (landed (exec (.vuIadd op0) (sVu 3))).getD 255 none = some 2 := by decide +kernel
theorem test_iadd_saturates_n32 : (landed (exec (.vuIadd op0) (sVu 0x24))).getD 0 none = some 0xFFFFFFFF := by decide +kernel
/-- Under MASK with vm1 = 5, lane 1 is not written. -/
theorem test_masked_lane : (landed (exec (.vuIsub op0) (sVu 0xB))).take 3 = [some 4, none, some 4] := by decide +kernel
theorem test_imulh_signed : (landed (exec (.vuImulh op0) (sVu 3))).getD 0 none = some 0xFFFFFFFF := by decide +kernel
/-- 1.5 + 2.25 = 3.75 in f32. -/
theorem test_fadd : (landed (exec (.vuFadd op0) (let s := sVu 0
    { s with mach := s.mach.onMe fun x => { x with v := [List.replicate 256 0x3FC00000, List.replicate 256 0x40100000, []] } }))).getD 0 none
      = some 0x40700000 := by decide +kernel
/-- vslide by 1 reads lane 1 of a into lane 0, and lane 0 of b into lane 255. -/
theorem test_vslide : let l := landed (exec (.vuVslide op0) (sVu 0x100000000))
    l.getD 0 none = some 3 ∧ l.getD 255 none = some 0xFFFFFFFF := by decide +kernel
theorem test_vrsum_n32 : answers (exec (.vuVrsum op0) (sVu 4)) (fun s => s.mach.me.landing.map (·.dst) == [.res 768]) = true := by decide +kernel
theorem test_vcnt : answers (exec (.vuVcnt op0) (at_ (put .vuA (.ref .vm 1) ctxV) (.word 0))) (fun s => s.mach.me.landing.map (·.dst) == [.res 2]) = true := by
  decide +kernel

/-- The vu triggers: an unmasked and a masked one, both with two sources. -/
theorem witness_vu : (sVu 3).Moves op0 (.word 3) (sVu 3).mach ∧ laneSource (.ref .v 0) = true
    ∧ (sVu 3).mach.VuReady 3 [(.vuA, .ref .v 0), (.vuB, .ref .v 1), (.vuD, .ref .v 2)] (BitVec.allOnes 256) ((sVu 3).mach.taken [.vuA, .vuB, .vuD]) :=
  ⟨rfl, rfl, by decide, by decide, .inl ⟨by decide, rfl, rfl⟩⟩
theorem witness_vu_masked : (sVu 0x2C).Moves op0 (.word 0x2C) (sVu 0x2C).mach
    ∧ (sVu 0x2C).mach.VuReady 0x2C [(.vuA, .ref .v 0), (.vuB, .ref .v 1), (.vuD, .ref .v 2)] 5 ((sVu 0x2C).mach.taken [.vuA, .vuB, .vuD, .vuM]) :=
  ⟨rfl, by decide, by decide, .inr ⟨by decide, 1, by decide, by decide, by decide, rfl⟩⟩
theorem witness_vu_one_source : (sVu 0).Moves op0 (.word 0) (sVu 0).mach ∧ ∀ t ∈ ([0, 0x100, 0x200, 0x400, 0x1200] : List Word),
    (sVu 0).mach.VuReady t [(.vuA, .ref .v 0), (.vuD, .ref .v 2)] (BitVec.allOnes 256) ((sVu 0).mach.taken [.vuA, .vuD]) :=
  ⟨rfl, fun t h => ⟨by decide, by decide, .inl ⟨by simp at h; rcases h with rfl | rfl | rfl | rfl | rfl <;> rfl, rfl, rfl⟩⟩⟩
theorem witness_vu_reduce : (sVu 4).mach.VuReady 4 [(.vuA, .ref .v 0)] (BitVec.allOnes 256) ((sVu 4).mach.taken [.vuA]) :=
  ⟨by decide, by decide, .inl ⟨by decide, rfl, rfl⟩⟩
theorem witness_vu_compare : let s := at_ (put .vuD (.ref .vm 0) (put .vuB (.ref .v 1) (put .vuA (.ref .v 0) ctxV))) (.word 0x1001)
    s.Moves op0 (.word 0x1001) s.mach ∧ (0x1001 : Word).toNat % 8 = 1 ∧ (0x1001 : Word).toNat / 2 ^ 12 % 16 < 2
    ∧ s.mach.VuReady 0x1001 [(.vuA, .ref .v 0), (.vuB, .ref .v 1), (.vuD, .ref .vm 0)] (BitVec.allOnes 256) (s.mach.taken [.vuA, .vuB, .vuD]) :=
  ⟨rfl, by decide, by decide, by decide, by decide, .inl ⟨by decide, rfl, rfl⟩⟩
theorem witness_vsel : (sVu 0).Moves op0 (.word 0) (sVu 0).mach ∧ (sVu 0).mach.myCore.vuNext ≤ (sVu 0).mach.cycle
    ∧ ∀ p ∈ [(Latch.vuA, Val.ref .v 0), (.vuB, .ref .v 1), (.vuM, .ref .vm 1), (.vuD, .ref .v 2)],
      (sVu 0).mach.Holds p.1 p.2 ∧ (sVu 0).mach.me.outstanding p.2 = false := ⟨rfl, by decide, by decide⟩
theorem witness_vcnt : let s := at_ (put .vuA (.ref .vm 1) ctxV) (.word 0)
    s.Moves op0 (.word 0) s.mach ∧ s.mach.VuReady 0 [(.vuA, .ref .vm 1)] (BitVec.allOnes 256) (s.mach.taken [.vuA]) :=
  ⟨rfl, by decide, by decide, .inl ⟨by decide, rfl, rfl⟩⟩
/-- vfcvt, vdq and vquant with one source take the witness above; the delayed forms take a block of scales in vu.b, last. -/
theorem witness_fcvt : cvtOk 0x100 = true ∧ delayedCvt 0x100 = false := by decide
theorem witness_vdq : (0x1200 : Word).getLsbD 3 = false ∧ (0x1200 : Word).toNat / 2 ^ 8 % 16 < 3 ∧ (0x1200 : Word).toNat / 2 ^ 12 % 16 < 2 := by decide
theorem witness_vquant : quantOk 0x400 = true ∧ (0x400 : Word).getLsbD 6 = false ∧ quantOk 0x200 = true := by decide
theorem witness_delayed : let m := (sVu 0x540).mach
    m.VuReady 0x540 [(.vuA, .ref .v 0), (.vuD, .ref .v 2), (.vuB, .ref .v 1)] (BitVec.allOnes 256) (m.taken [.vuA, .vuD, .vuB])
    ∧ m.VuReady 0x440 [(.vuA, .ref .v 0), (.vuD, .ref .v 2), (.vuB, .ref .v 1)] (BitVec.allOnes 256) (m.taken [.vuA, .vuD, .vuB])
    ∧ (sVu 0x540).Moves op0 (.word 0x540) m ∧ cvtOk 0x540 = true ∧ delayedCvt 0x540 = true ∧ quantOk 0x440 = true
    ∧ (0x440 : Word).getLsbD 6 = true :=
  ⟨⟨by decide, by decide, .inl ⟨by decide, rfl, rfl⟩⟩, ⟨by decide, by decide, .inl ⟨by decide, rfl, rfl⟩⟩, rfl, by decide, by decide, by decide, by decide⟩
/-- A factor vector in vu.a, or in vu.d. -/
theorem witness_vldf : let s := at_ (put .vuD (.ref .v 2) (put .vuA (.ref .fv 1) ctxV)) (.word 0x1000)
    s.Moves op0 (.word 0x1000) s.mach ∧ (0x1000 : Word).toNat / 2 ^ 12 % 16 < 2 ∧ ((s.mach.taken [.vuA, .vuD]).me.fv.getD 1 .zero).state = .ready
    ∧ s.mach.VuReady 0x1000 [(.vuA, .ref .fv 1), (.vuD, .ref .v 2)] (BitVec.allOnes 256) (s.mach.taken [.vuA, .vuD])
    ∧ ∀ q ∈ (s.mach.taken [.vuA, .vuD]).myCore.tf, q.ctx = (s.mach.taken [.vuA, .vuD]).issue.ctx → q.ended = false → q.usesFv 1 = false :=
  ⟨rfl, by decide, by decide, ⟨by decide, by decide, .inl ⟨by decide, rfl, rfl⟩⟩, by decide⟩
theorem witness_vstf : let s := at_ (put .vuD (.ref .fv 1) (put .vuA (.ref .v 0) ctxV)) (.word 0x1000)
    s.mach.VuReady 0x1000 [(.vuA, .ref .v 0), (.vuD, .ref .fv 1)] (BitVec.allOnes 256) (s.mach.taken [.vuA, .vuD]) :=
  ⟨by decide, by decide, .inl ⟨by decide, rfl, rfl⟩⟩
/-- Results of trigger 5: lanes of v2, then of v3, a mask, and the scalar that vu.res awaits; one of trigger 6 stays on its way. -/
def landing5 : State := ev { ctxV with
  landing := [⟨5, .v 2 (List.replicate 255 none ++ [some 1])⟩, ⟨5, .v 3 (some 9 :: List.replicate 255 none)⟩, ⟨6, .vm 0 0⟩, ⟨5, .vm 1 6⟩, ⟨5, .res 77⟩]
  ports := { ctxV.ports with vu := ⟨0, 0, some 5⟩ } }
theorem witness_land : landing5.mach.Has 0 0 ∧ landing5.mach.out = [] ∧ ((landing5.mach.ctx 0 0).landing.filter (·.tag == 5)).length = 4 :=
  ⟨by decide, rfl, by decide⟩
/-- R178, R176: v2 and v3 take the lanes written and keep the others; the mask and vu.res take theirs. -/
theorem test_land_together : answers (exec (.vuResultLand 0 0 5) landing5) (fun s => let x := s.mach.ctx 0 0
    (x.vreg 2).getD 0 5 == 0 && (x.vreg 2).getD 255 5 == 1 && (x.vreg 3).take 2 == [9, 7] && x.vm == [BitVec.allOnes 256, 6]
      && x.ports.vu == ⟨77, 0, none⟩ && x.landing == [⟨6, .vm 0 0⟩] && x.v.take 2 == ctxV.v.take 2) = true := by decide +kernel

/-! ## Matrix array and tile-and-factor unit -/

/-- tl0 and tl1: rows 0 to 1 and 2 to 3 of the accumulator, columns 0 to 3, f32. -/
def tile0 : Tile := { Tile.unset with isSet := true, rows := 2, ccnt := 0 }
def tile1 : Tile := { tile0 with row0 := 2 }
/-- A context with four accumulator rows, two tiles and two factor vectors; buffer 0 of B records bf at its vault's base. -/
def ctxM : Ctx := { ctx0 with acc := List.replicate 4 (List.replicate 256 0), tl := [tile0, tile1] ++ List.replicate 30 .unset,
                              fv := [.zero, .zero], brec := [some ⟨.bf, 0x100000000⟩, none] }
def sBload : State := at_ (put .mxB (.word 0x100000000) ctxM) (.word 2)
theorem witness_bload : sBload.Moves op0 (.word 2) sBload.mach ∧ sBload.mach.Placed ∧ sBload.mach.Holds .mxB (.word 0x100000000)
    ∧ isMem (.word 0x100000000) = true ∧ memOperand (sBload.mach.taken [.mxB]) (.word 0x100000000) 131072 true = .ok ⟨0x100000000, none⟩
    ∧ 0x100000000 % 16 = 0
    ∧ (enginePages (sBload.mach.taken [.mxB]) false 0x100000000 131072 [(0x100000000, 131072)]).toOption.map (·.map (·.map (·.1))) = some [[(0x100000000, 65536), (0x100010000, 65536)]]
    ∧ (sBload.mach.taken [.mxB]).myCore.mxQueued 0 < 4
    ∧ ∃ mr, useRing (sBload.mach.taken [.mxB]).newId.2 (sBload.mach.taken [.mxB]).newId.1 ⟨0x100000000, none⟩ true = .ok mr :=
  ⟨rfl, by decide, rfl, rfl, rfl, rfl, by decide, by decide, _, rfl⟩
theorem test_bload_aligns : trapOf (exec (.mxBloadH op0) (at_ (put .mxB (.word 0x100000008) ctxM) (.word 0))) = some (.align, 0) := by decide
theorem test_bload_queued : answers (exec (.mxBloadS4 op0) sBload) (fun s => (s.mach.core 0).mx.map (·.segs) == [[(0x100000000, 45056)]]
    && s.mach.me.brec.getD 1 none == some ⟨.s4, 0x100000000⟩) = true := by decide
/-- An mma of bf on tl0, A behind B in the vault. -/
def sMma : State := at_ (put .mxAcc (.ref .tl 0) (put .mxA (.word 0x100020000) ctxM)) (.word 1)
theorem witness_mma : let m1 := sMma.mach.taken [.mxA, .mxAcc, .mxArs, .mxBcs]
    sMma.Moves op0 (.word 1) sMma.mach ∧ sMma.mach.Placed ∧ sMma.mach.Holds .mxA (.word 0x100020000) ∧ sMma.mach.Holds .mxAcc (.ref .tl 0)
    ∧ (sMma.mach.me.latchCell .mxArs).val = none ∧ (sMma.mach.me.latchCell .mxBcs).val = none
    ∧ (∀ l ∈ [Latch.mxSca, .mxScb], (sMma.mach.me.latchCell l).val = none)
    ∧ (sMma.mach.me.tl.getD 0 .unset).fmt = .f32 ∧ m1.me.brec.getD (1 / 2 % 2) none = some ⟨.bf, 0x100000000⟩
    ∧ memOperand m1 (.word 0x100020000) (512 * 2) true = .ok ⟨0x100020000, none⟩
    ∧ (mxPages m1 0x100020000 (512 * 2)).toOption.map (·.map (·.1)) = some [(0x100020000, 1024)]
    ∧ (reload m1 0 ⟨.bf, 0x100000000⟩).toOption.map (·.map (·.map (·.1))) = some (some [(0x100000000, 65536), (0x100010000, 65536)])
    ∧ mmaFactors m1 ⟨0, tile0⟩ (mmaCase true tile0 none none) none none = .ok m1 ∧ m1.myCore.mxQueued 0 < 4 :=
  ⟨rfl, by decide, rfl, rfl, rfl, rfl, by decide, by decide, by decide, rfl, by decide, by decide, rfl, by decide⟩
theorem test_mma_queued : answers (exec (.mxMmaBf op0) sMma) (fun s => (s.mach.core 0).mx.map (fun q => (q.bload, q.segs, q.accum))
    == [(true, [(0x100000000, 65536), (0x100010000, 65536)], false), (false, [(0x100020000, 1024)], true)]) = true := by decide
/-- A queued bload, and an mma in its four states. -/
def mxAt (q : MxCmd) : State := { ev ctxM with mach := (ev ctxM).mach.onCore 0 fun co => { co with mx := [q] } }
def cmd0 : MxCmd := { (default : MxCmd) with id := 5, fmt := .i8, tile := ⟨0, { tile0 with fmt := .i32 }⟩, segs := [(0x100000000, 512)] }
theorem witness_bload_starts : let s := mxAt { cmd0 with bload := true }
    s.mach.out = [] ∧ 0 < s.mach.cores.length ∧ (s.mach.core 0).mxCmd 5 = some { cmd0 with bload := true }
    ∧ ∀ r ∈ (s.mach.core 0).mx, r.id < 5 → r.bload = false := by decide
theorem witness_bload_completes : let s := mxAt { cmd0 with bload := true, state := .reading }
    (s.mach.core 0).mxCmd 5 = some { cmd0 with bload := true, state := .reading } ∧ 0 < (s.mach.core 0).bufs.length
    ∧ s.mach.operandsFree 0 { cmd0 with bload := true, state := .reading } = true := by decide
theorem witness_bload_fills : let s := mxAt { cmd0 with bload := true, state := .writing }
    (s.mach.core 0).mxCmd 5 = some { cmd0 with bload := true, state := .writing } ∧ cmd0.buf < (s.mach.core 0).bufs.length := by decide
theorem witness_mma_launches : let s := mxAt cmd0
    s.mach.Has 0 0 ∧ (s.mach.core 0).mxCmd 5 = some cmd0 ∧ cmd0.bload = false ∧ cmd0.state = .queued ∧ cmd0.readAt ≤ s.mach.cycle
    ∧ s.mach.operandsFree 0 cmd0 = true ∧ cmd0.occupancy ≤ 1000 := by decide
theorem witness_stream_ends : let q := { cmd0 with state := .streaming, start := 1000 - cmd0.occupancy }
    q.start + q.occupancy ≤ (mxAt q).mach.cycle ∧ q.ring = none := by decide
/-- Row 1, the last, is due; the row before it was not the last. -/
theorem witness_row : let q := { cmd0 with start := 500, state := .writing, row := 1 }
    q.launched = true ∧ q.row < q.tile.tile.rows ∧ q.rowAt q.row ≤ (mxAt q).mach.cycle ∧ q.row + 1 = q.tile.tile.rows
    ∧ q.tile.tile.rows + q.tile.tile.row0 ≤ ctxM.acc.length ∧ 4 * q.tile.tile.col0 + q.tile.tile.n ≤ 256 := by decide
theorem witness_row_not_last : let q := { cmd0 with state := .streaming, start := 720 }
    q.rowAt 0 ≤ (mxAt q).mach.cycle ∧ (mxAt q).mach.cycle < q.rowAt 1 := by decide
def rowCmd : MxCmd := { cmd0 with
  state := .writing, start := 500, row := 1, accum := true, aData := List.replicate 256 0 ++ [3], bData := [0xFE], bFmt := .i8 }
def rowState (q : MxCmd) : State :=
  { mxAt q with mach := (mxAt q).mach.onCtx 0 0 fun x => { x with acc := [[], List.replicate 256 5, [], []] } }
/-- Row 1 of A is 3 in byte 0, row 0 of B is −2 there: cell 0 of the last row becomes 5 − 6. -/
theorem test_mma_row : answers (exec (.mmaRowWrite 0 5) (rowState rowCmd))
    (fun s => ((s.mach.ctx 0 0).acc.getD 1 []).take 2 == [0xFFFFFFFF, 5] && (s.mach.core 0).mx.isEmpty) = true := by decide +kernel

/-- Elementwise triggers: one that commutes, and one that resolves first. -/
def sTadd (x : Ctx) : State := at_ (put .tfD (.ref .tl 1) (put .tfB (.ref .tl 1) (put .tfA (.ref .tl 0) x))) (.word 0)
theorem witness_tile : let m := (sTadd ctxM).mach
    (sTadd ctxM).Moves op0 (.word 0) m ∧ m.Placed ∧ (∀ p ∈ [(Latch.tfA, 0), (.tfB, 1), (.tfD, 1)], m.Holds p.1 (.ref .tl p.2))
    ∧ (m.taken [.tfA, .tfB, .tfD]).TfReady 0 ∧ TfOp.tadd.suits 0 tile0 tile1 tile1 = true
    ∧ orderUnknown (m.taken [.tfA, .tfB, .tfD]) .tadd ⟨0, tile0⟩ = false
    ∧ (m.taken [.tfA, .tfB, .tfD]).me.commute .tadd tile0 tile1 tile1 = some tile1.bare :=
  ⟨rfl, by decide, by decide, ⟨by decide, by decide⟩, by decide, by decide, by decide⟩
theorem witness_tile_resolves : let a := { tile0 with beta := some ⟨0, .id⟩ }
    let m1 := (sTadd { ctxM with tl := [a, tile1] }).mach.taken [.tfA, .tfB, .tfD]
    m1.TfReady 0 ∧ m1.me.commute .tmul a tile1 tile1 = none ∧ TfOp.tmul ≠ TfOp.texpw
    ∧ (awaitVectors m1 ((toResolve ⟨0, a⟩ (some ⟨1, tile1⟩)).flatMap (·.vectors))).toOption.isSome = true ∧ (m1.part m1.myPart).frTrap = false :=
  ⟨⟨by decide, by decide⟩, by decide, by decide, by decide, by decide⟩
theorem test_tadd_resolves : answers (exec (.tfTmul op0) (sTadd { ctxM with tl := [{ tile0 with beta := some ⟨0, .id⟩ }, tile1] }))
    (fun s => s.mach.me.csw == 0x1000000000000 && (s.mach.me.tl.getD 0 .unset).occupied == false) = true := by decide +kernel
theorem witness_slot : let s := at_ (put .tfF (.word 0x101) (put .tfB (.word 0x40000000) (put .tfA (.ref .tl 0) ctxM))) (.word 0)
    s.Moves op0 (.word 0) s.mach ∧ s.mach.Placed ∧ s.mach.Holds .tfA (.ref .tl 0) ∧ s.mach.Holds .tfB (.word 0x40000000)
    ∧ (s.mach.taken [.tfA, .tfB]).TfReady 0 ∧ s.mach.Holds .tfF (.word 0x101) ∧ isFactor (.word 0x101) = true
    ∧ (factorWord (.word 0x101)).toNat % 64 < s.mach.me.fv.length ∧ (factorWord (.word 0x101)).toNat / 64 % 8 < 5
    ∧ (factorWord (.word 0x101)).toNat / 512 % 8 < 5 ∧ (s.mach.taken [.tfA, .tfF]).TfReady 0 ∧ tile0.rho = none ∧ tile0.gamma = none :=
  ⟨rfl, by decide, rfl, rfl, ⟨by decide, by decide⟩, rfl, by decide, by decide, by decide, by decide, ⟨by decide, by decide⟩, rfl, rfl⟩
theorem test_tsmul : answers (exec (.tfTsmul op0) (at_ (put .tfB (.word 0x40000000) (put .tfA (.ref .tl 0) ctxM)) (.word 0)))
    (fun s => (s.mach.me.tl.getD 0 .unset).sigma == some 0x40000000) = true := by decide +kernel
theorem witness_resolve : let s := at_ (put .tfA (.ref .tl 0) { ctxM with tl := [{ tile0 with rho := some ⟨1, .id⟩ }] }) (.word 0)
    (s.mach.taken [.tfA]).TfReady 0 ∧ (awaitVectors (s.mach.taken [.tfA]) [(1, 256)]).toOption.isSome = true :=
  ⟨⟨by decide, by decide⟩, by decide⟩
theorem witness_reduction : let s := at_ (put .tfD (.ref .fv 1) (put .tfA (.ref .tl 0) ctxM)) (.word 0)
    s.Moves op0 (.word 0) s.mach ∧ s.mach.Holds .tfD (.ref .fv 1) ∧ (s.mach.taken [.tfA, .tfD]).TfReady 0 ∧ tile0.occupied = false
    ∧ s.mach.me.outstanding (.ref .fv 1) = false ∧ (s.mach.taken [.tfA, .tfD]).fvState 0 0 1 ≠ .pending ∧ (s.mach.taken [.tfD]).TfReady 0 :=
  ⟨rfl, rfl, ⟨by decide, by decide⟩, by decide, by decide, by decide, ⟨by decide, by decide⟩⟩
/-- A vector that awaits contributions blocks a reduction without CONTRIB, and fvset. -/
def ctxPending : Ctx := { ctxM with fv := [.zero, { FactorVec.zero with state := .pending, remain := 1 }] }
theorem witness_reduction_waits : let s := at_ (put .tfD (.ref .fv 1) (put .tfA (.ref .tl 0) ctxPending)) (.word 0)
    s.mach.Holds .tfD (.ref .fv 1) ∧ s.mach.Holds .tfA (.ref .tl 0) ∧ (0 : Word).getLsbD 3 = false
    ∧ (s.mach.taken [.tfA, .tfD]).fvState 0 0 1 = .pending ∧ (s.mach.taken [.tfD]).fvState 0 0 1 = .pending := by decide
theorem test_fvset_waits : answers (exec (.tfFvset op0) (at_ (put .tfD (.ref .fv 1) ctxPending) (.word 0)))
    (fun s => s.mach.issue.out == .stopped (.block (.factor [1]))) = true := by decide
theorem witness_fvst : let s := at_ (put .tfB (.word 0x100000004) (put .tfA (.ref .fv 1) ctxM)) (.word 0)
    (s.mach.taken [.tfA, .tfB]).TfReady 0 ∧ (0x100000004 : Word).toNat % 4 = 0
    ∧ (enginePages (s.mach.taken [.tfA, .tfB]) true 0x100000004 2048 [(0x100000004, 2048)]).toOption.isSome = true
    ∧ (awaitVectors (s.mach.taken [.tfA, .tfB]) [(1, 1 * 256 + 128)]).toOption.isSome = true :=
  ⟨⟨by decide, by decide⟩, by decide, by decide, by decide⟩
/-- A tile load with a stride of 64 bytes; its row of 16 bytes makes 15 too short a stride, 18 a misaligned one. -/
theorem witness_tile_memory : let s := at_ (put .tfD (.ref .tl 0) (put .tfB (.word 0x100000000) ctxM)) (.word 0x40000)
    s.Moves op0 (.word 0x40000) s.mach ∧ s.mach.Holds .tfB (.word 0x100000000) ∧ s.mach.Holds .tfD (.ref .tl 0) ∧ TfOp.tld.ctlOk 0x40000 = true
    ∧ (s.mach.taken [.tfB, .tfD]).TfReady 0x40000
    ∧ (enginePages (s.mach.taken [.tfB, .tfD]) false 0x100000000 80 [(0x100000000, 16), (0x100000040, 16)]).toOption.map (·.map (·.map (·.1)))
      = some [[(0x100000000, 16)], [(0x100000040, 16)]] := ⟨rfl, rfl, rfl, by decide, ⟨by decide, by decide⟩, by decide⟩
theorem test_tld_stride : trapOf (exec (.tfTld op0) (at_ (put .tfD (.ref .tl 0) (put .tfB (.word 0x100000000) ctxM)) (.word 0xF000))) = some (.align, 0)
    ∧ trapOf (exec (.tfTld op0) (at_ (put .tfD (.ref .tl 0) (put .tfB (.word 0x100000000) ctxM)) (.word 0x12000))) = some (.align, 0) := by decide
/-- A store of a tile with a slot occupied resolves the tile first. -/
theorem witness_store_resolves : let s := at_ (put .tfA (.ref .tl 0) (put .tfB (.word 0x100000000) { ctxM with tl := [{ tile0 with rho := some ⟨1, .id⟩ }] })) (.word 0)
    let m1 := s.mach.taken [.tfA, .tfB]
    s.mach.Holds .tfB (.word 0x100000000) ∧ s.mach.Holds .tfA (.ref .tl 0) ∧ TfOp.tst.ctlOk 0 = true ∧ m1.TfReady 0
    ∧ (enginePages m1 true 0x100000000 32 [(0x100000000, 16), (0x100000010, 16)]).toOption.isSome = true
    ∧ ({ tile0 with rho := some ⟨1, .id⟩ } : Tile).occupied = true ∧ (awaitVectors m1 [(1, 256)]).toOption.isSome = true
    ∧ (m1.part m1.myPart).frTrap = false := ⟨rfl, rfl, by decide, ⟨by decide, by decide⟩, by decide, by decide, by decide, by decide⟩
theorem test_tst_resolves : answers (exec (.tfTst op0) (at_ (put .tfA (.ref .tl 0) (put .tfB (.word 0x100000000)
      { ctxM with tl := [{ tile0 with rho := some ⟨1, .id⟩ }] })) (.word 0)))
    (fun s => s.mach.me.csw == 0x1000000000000 && ((s.mach.core 0).tf.flatMap (·.resolves)).length == 1) = true := by decide +kernel
theorem witness_quant : TfOp.tquant.ctlOk 0x500 = true ∧ TfOp.tdq.ctlOk 0x500 = true ∧ ¬ (0x500 : Word).toNat / 2 ^ 8 % 16 < 5 := by decide
/-- tf commands at work. -/
def tfAt (q : TfCmd) : State := { ev ctxM with mach := (ev ctxM).mach.onCore 0 fun co => { co with tf := [q] } }
def cmd1 : TfCmd := { newTf 5 0 .tadd 0 0 with a := some ⟨0, tile0⟩, b := some ⟨1, tile1⟩, d := some ⟨1, tile1⟩ }
theorem witness_tf_starts : let s := tfAt cmd1
    s.Inv ∧ s.mach.Has 0 0 ∧ (s.mach.core 0).tfCmd 5 = some cmd1 ∧ (s.mach.core 0).tfHead = some cmd1 ∧ cmd1.started = false ∧ cmd1.ended = false
    ∧ cmd1.resolves = [] := by decide
theorem witness_tf_step : let q := { cmd1 with started := true, start := 991, step := 1 }
    q.step < q.steps ∧ q.start + 8 + q.step ≤ (tfAt q).mach.cycle ∧ q.puts = [] ∧ q.side = [] ∧ q.ctl.getLsbD 5 = false := by decide
theorem witness_tf_put : let p : TfPut := ⟨1000, 1, [(0x100000000, 1)], []⟩
    let q := { cmd1 with op := .tst, started := true, start := 900, step := 2, puts := [p] }
    p.due ≤ (tfAt q).mach.cycle ∧ q.steps ≤ q.step ∧ q.phase = q.resolves.length ∧ p.mem ≠ [] ∧ p.mem.any (fun b => isBarrierKey b.1) = false ∧ (tfAt q).mach.rowFree 0 q (p.mem.map (·.1)) = true := by
  decide
theorem witness_tf_ends : let q := { cmd1 with op := .fvexp, fv := 1, started := true, step := 2 }
    q.ended = false ∧ q.puts = [] ∧ q.side = [] ∧ q.rows = [] ∧ q.reserved = false ∧ q.fv < ctxM.fv.length := by decide
/-- R214: fvexp on a vector that is not pending reports NOT_PENDING. -/
theorem test_fvexp_not_pending : answers (exec (.tfCommandEnd 0 5) (let s := tfAt { cmd1 with op := .fvexp, fv := 1, started := true, tag := 3 };
    { s with mach := s.mach.onCtx 0 0 fun x => { x with ports := { x.ports with tf := ⟨0, 0, some 3⟩ } } }))
    (fun s => (s.mach.ctx 0 0).ports.tf.val == 0x2000000000000000) = true := by decide +kernel

/-! ## Loads, stores, atomics, fences -/

/-- A slot of lu: a the base of core 0's vault, d a value. -/
def sLu (t : Word) : State := at_ (put .luB (.word 1) (put .luD (.word 0x1234) (put .luA (.word 0x100000000) ctxV))) (.word t)
/-- What the statements ask of a planned access. -/
def planned (m : Mach) (r : Access × Mach) (isLocal : Bool) (n : Nat) : Bool :=
  r.1.isLocal == isLocal && r.1.keys.length == n && r.2.issue == m.issue && decide r.2.Placed && decide (r.2.me.loads.length < 16)
    && decide (r.2.me.pend.length + r.2.me.buffer.length < 16) && !r.2.myCore.engineTouches 0 r.1.keys && !r.2.me.fownHolds
    && !r.1.keys.any isBarrierKey && okWith (loadBytes [] r.2 r.2.me r.1.keys) fun bs => bs.length == n
theorem witness_load : (sLu 8).Moves op0 (.word 8) (sLu 8).mach ∧ (sLu 8).mach.Placed ∧ (sLu 8).mach.Holds .luA (.word 0x100000000)
    ∧ okWith (planAccess ((sLu 8).mach.taken [.luA]) (0x100000000 + 8) 8 8 false) (planned (sLu 8).mach · true 8) = true
    ∧ windowOf (0x100000000 + 8 : Word).toNat ≠ .unassigned ∧ (0x100000000 + 4 : Word).toNat % 8 ≠ 0 ∧ windowOf (0x1A0000000 : Word).toNat = .unassigned :=
  ⟨rfl, by decide, rfl, by decide +kernel, by decide, by decide, by decide⟩
/-- The barrier area begins 4096 bytes under the top of the vault: a load of it reads at the unit, when the figure is over. -/
def sBarLoad (t : Word) : State := at_ (put .luD (.ref .v 2) (put .luA (.word 0x100FFF000) ctxV)) (.word t)
theorem witness_barrier_load : let m := (sBarLoad 8).mach
    let bar (n : Nat) (r : Access × Mach) : Bool := r.1.isLocal && r.1.keys.length == n && r.1.keys.any isBarrierKey && !r.2.me.fownHolds
      && !r.2.me.ownTouches r.1.keys && decide r.2.Placed && decide (r.2.me.loads.length < 16) && !r.2.myCore.engineTouches 0 r.1.keys
    okWith (planAccess (m.taken [.luA]) (0x100FFF000 + 8) 8 8 false) (bar 8) = true
    ∧ okWith (planAccess (m.taken [.luA, .luD]) (0x100FFF000 + 8) 16 8 false) (bar 16) = true := by decide +kernel
theorem test_barrier_load_late : answers (exec (.luLdd op0) { sBarLoad 0 with mem := [(0x100FFF000, 5)] })
    (fun s => s.mach.me.loads.map (·.val) == [none]) = true := by decide +kernel
/-- The first page of the host window is cached for core 0, writable. -/
def hosted (s : State) : State :=
  { s with mach := (s.mach.onCore 0 fun co => { co with tlb := [⟨0, 2, 0x40000000000, 0x100000, 0x8400000000000000⟩] }).onPart 0 fun p =>
      { p with ptEn := [true, true, true] } }
theorem witness_host_access : let s := hosted (at_ (put .luD (.word 7) (put .luA (.word 0x40000000000) ctxV)) (.word 0))
    s.Moves op0 (.word 0) s.mach ∧ okWith (planAccess (s.mach.taken [.luA]) 0x40000000000 8 8 false) (planned s.mach · false 8) = true
    ∧ okWith (planAccess (s.mach.taken [.luA, .luD]) 0x40000000000 8 8 true) (planned s.mach · false 8) = true :=
  ⟨rfl, by decide +kernel, by decide +kernel⟩
theorem test_load_traps : trapOf (exec (.luLdd op0) (sLu 4)) = some (.align, 0) ∧ trapOf (exec (.luLdb op0) (sLu 0xA0000000)) = some (.xlate, 3) := by
  decide +kernel
/-- A load of a byte with the top bit set, sign-extended; the value comes after the figure of R104. -/
theorem test_load_signed : answers (exec (.luLdsb op0) { sLu 0 with mem := [(0x100000000, 0x80)] })
    (fun s => s.mach.me.loads.map (·.val) == [some 0xFFFFFFFFFFFFFF80]) = true := by decide +kernel
/-- A load sees the own store that has not performed. -/
theorem test_load_forwards : answers (exec (.luLdb op0) (at_ { put .luA (.word 0x100000000) ctxV with
      pend := [⟨1, [0x100000000], [[(0x100000000, 0x7F)]], none, none, false, 0, false, false⟩] } (.word 0)))
    (fun s => s.mach.me.loads.map (·.val) == [some 0x7F]) = true := by decide +kernel
theorem witness_wide_load : let s := at_ (put .luD (.ref .v 2) (put .luA (.word 0x100000000) ctxV)) (.word 16)
    s.Moves op0 (.word 16) s.mach ∧ s.mach.Holds .luD (.ref .v 2)
    ∧ okWith (planAccess (s.mach.taken [.luA, .luD]) (0x100000000 + 16) 16 8 false) (planned s.mach · true 16) = true
    ∧ okWith (planAccess (s.mach.taken [.luA, .luD]) (0x100000000 + 16) 1024 16 true) (planned s.mach · true 1024) = true
    ∧ (s.mach.taken [.luA, .luD]).me.outstanding (.ref .v 2) = false ∧ (s.mach.me.vreg 2).length = 256 :=
  ⟨rfl, rfl, by decide +kernel, by decide +kernel, by decide, by decide +kernel⟩
theorem witness_store : (sLu 8).Moves op0 (.word 8) (sLu 8).mach ∧ (sLu 8).mach.Holds .luD (.word 0x1234)
    ∧ okWith (planAccess ((sLu 8).mach.taken [.luA, .luD]) (0x100000000 + 8) 4 4 true) (planned (sLu 8).mach · true 4) = true :=
  ⟨rfl, rfl, by decide +kernel⟩
theorem test_store_waits : answers (exec (.luSth op0) (sLu 2)) (fun s => s.mem == [] && s.mach.me.pend.map (·.pieces.flatten)
    == [[(0x100000002, 0x34), (0x100000003, 0x12)]]) = true := by decide +kernel
/-- An atomic control word that R223 allows, one that it does not, and a cas. -/
theorem witness_atomic : (atomicOf .amo 0x11 0 0).legal = true ∧ (atomicOf .amo 0x17 0 0).legal = false ∧ (atomicOf .cas 0x10 0 0).legal = true
    ∧ (sLu 0x11).mach.Holds .luB (.word 1)
    ∧ okWith (planAccess ((sLu 0x11).mach.taken [.luA, .luD]) 0x100000000 (typeSize 1) (typeSize 1) true) (planned (sLu 0x11).mach · true 4) = true := by
  decide +kernel
theorem test_atomic_illegal : trapOf (exec (.luAmo op0) (sLu 0x17)) = some (.illBundle, 0) := by decide

/-- A store to the vault's first two bytes, in the buffer and sent, its two pieces still to perform. -/
def entry0 : StoreEntry := ⟨3, [0x100000000, 0x100000010], [[(0x100000000, 7)], [(0x100000010, 9)]], none, none, false, 1000, true, false⟩
theorem witness_store_enters : let s := ev { ctx0 with pend := [entry0] }
    s.Inv ∧ s.mach.Has 0 0 ∧ (s.mach.ctx 0 0).pend = entry0 :: [] := by decide
theorem witness_store_performs : let s := ev { ctx0 with buffer := [entry0] }
    s.Inv ∧ s.mach.Has 0 0 ∧ (s.mach.ctx 0 0).buffer = entry0 :: [] ∧ entry0.sent = true ∧ entry0.atomic = none ∧ entry0.due ≤ s.mach.cycle
    ∧ (∀ piece, piece < 2 → (entry0.pieces.getD piece []).any (fun b => isBarrierKey b.1) = false)
    ∧ 1 < entry0.pieces.length ∧ (modifyAt (fun _ => []) 1 entry0.pieces).all (·.isEmpty) = false
    ∧ (modifyAt (fun _ => []) 0 [[((0 : Nat), (1 : Byte))]]).all (·.isEmpty) = true := by decide
theorem test_piece_performs : answers (exec (.storePerform 0 0 1) (ev { ctx0 with buffer := [entry0] }))
    (fun s => s.mem == [(0x100000010, 9)] && (s.mach.ctx 0 0).buffer.length == 1) = true := by decide
theorem witness_load_arrives : let s := ev { ctx0 with loads := [⟨4, some 9, [], 1, false, false⟩], ports := { Ports.zero with lu := ⟨0, 0, some 4⟩ } }
    (s.mach.ctx 0 0).loads.find? (·.tag == 4) = some ⟨4, some 9, [], 1, false, false⟩ ∧ (s.mach.ctx 0 0).ports.lu.tag = some 4 := by decide
/-- A load of the barrier area takes its bytes as it arrives. -/
def barLoaded : State :=
  { ev { ctx0 with loads := [⟨4, none, [0x100FFF000], 1, false, false⟩], ports := { Ports.zero with lu := ⟨0, 0, some 4⟩ } } with
    mem := [(0x100FFF000, 5)] }
theorem witness_barrier_load_arrives : barLoaded.Inv
    ∧ (barLoaded.mach.ctx 0 0).loads.find? (·.tag == 4) = some ⟨4, none, [0x100FFF000], 1, false, false⟩
    ∧ (barLoaded.mach.ctx 0 0).ports.lu.tag = some 4 ∧ (barLoaded.mach.ctx 0 0).landing.any (·.tag == 4) = false := by decide
theorem test_barrier_load_arrives : answers (exec (.loadResultArrive 0 0 4 0) barLoaded) (fun s => (s.mach.ctx 0 0).ports.lu.val == 5) = true := by
  decide
/-- A store and a load in the host channel. -/
def hostReq (load : Bool) : HostReq := { (default : HostReq) with
  id := 6, load := load, due := 1000, tag := if load then some 4 else none, keys := [0x40000000000], pieces := [[(0x40000000000, 1)]], size := 1 }
def channel : State :=
  let s := ev { ctx0 with ports := { Ports.zero with lu := ⟨0, 0, some 4⟩ } }; { s with mach := { s.mach with host := [hostReq true] } }
theorem witness_channel : channel.mach.host.find? (·.id == 6) = some (hostReq true) ∧ (hostReq true).due ≤ channel.mach.cycle
    ∧ channel.mach.hostWaits (hostReq true) = false ∧ channel.mach.boot.modules ≠ 0 ∧ (hostReq true).land = none
    ∧ (channel.mach.ctx 0 0).ports.lu.tag = some 4 ∧ channel.mach.hostWaits (hostReq false) = false ∧ (hostReq false).tag = none := by decide
/-- An atomic at its home: amo.add of 5 on an n32, alone; combined with a second. -/
def req0 (kind : AtomKind) (combo : Combo) : NetReq :=
  ⟨7, 0x100000000, ⟨kind, 1, 1, false, 1, 0, 0, 5, 0⟩, combo, [], 990, false, 0, some 1000⟩
def atomAt (kind : AtomKind) (combo : Combo) : State :=
  ⟨[], { mach0 { ctx0 with buffer := [{ entry0 with atomic := some (req0 kind combo).at_, keys := [] }] } with net := [req0 kind combo] }⟩
def one : Combo := .leaf (.lu 0 0 1 4) 5 6
theorem witness_atomic_home : let s := atomAt .amo one
    s.Inv ∧ s.mach.Has 0 0 ∧ (s.mach.atHome fun r => match r.combo.first with
      | .lu c k _ _ => c == 0 && k == 0
      | _ => false) = some (req0 .amo one) ∧ s.mach.net.any (·.before (req0 .amo one) s.mach.cycle) = false ∧ s.mach.mayPerform (req0 .amo one) = true
    ∧ (upFrom (req0 .amo one).key 4).any isBarrierKey = false ∧ (req0 .amo one).at_.type < 4
    ∧ (4 : Nat) ≠ 0 := by decide
theorem witness_combined : let r := req0 .famo (.pair one (.leaf (.lu 1 0 2 8) 3 9))
    r.at_.kind = .famo ∧ r.at_.aop = 1 ∧ r.at_.type = 1 ∧ r.combo.first = .lu 0 0 1 4 := by decide
/-- R123: the first of two combined adds gets the old value, the second the old value plus the first operand. -/
theorem test_combined_add : answers (exec (.storePerform 0 0 0) (let s := atomAt .famo (.pair one (.leaf (.lu 1 0 2 8) 3 9)); { s with mem := [(0x100000000, 10)] }))
    (fun s => s.mem.read 0x100000000 == 18 && s.mach.agenda.contains (1006, .loadResultArrive 0 0 4 10)
      && s.mach.agenda.contains (1009, .loadResultArrive 1 0 8 15)) = true := by decide +kernel
/-- Two requests in the router of core 0. -/
def routed (id port : Nat) : NetReq := { req0 .famo one with id := id, path := [(0, port), (1, 0)], due := none }
theorem witness_router : let m : Mach := { mach0 ctx0 with net := [routed 7 1, routed 8 0] }
    m.listedAt 0 = [routed 8 0, routed 7 1] ∧ agree (routed 8 0) (routed 7 1) = true ∧ (routed 7 1).entered + 8 ≤ m.cycle
    ∧ (m.net.find? fun r => r.id == 7 && r.due.isNone && (r.path.headD (0, 0)).1 == 0) = some (routed 7 1) ∧ (routed 7 1).path.drop 1 = [(1, 0)] := by
  decide
theorem witness_fences : let s := at_ (put .luA (.word 0) ctx0) (.word 1)
    s.Moves op0 (.word 1) s.mach ∧ s.mach.Placed ∧ partOf 0 = partOf s.mach.issue.core ∧ s.mach.drainDone 0 0 1 = true
    ∧ s.mach.Holds .luA (.word 0) ∧ windowOf (0 + 1 : Word).toNat ≠ .hbm ∧ partOf 5 ≠ partOf s.mach.issue.core :=
  ⟨rfl, by decide, by decide, by decide, rfl, by decide, by decide⟩
theorem witness_drain_waits : (ev { ctx0 with pend := [entry0] }).mach.drainDone 0 0 1 = false := by decide
/-- A drain of stores that holds the next bundle back while a store is pending, and an lu.ffar that is not served. -/
theorem witness_hold : let s := ev { ctx0 with pend := [entry0], hold := some (.drain 1) }
    s.mach.Has 0 0 ∧ s.mach.out = [] ∧ (s.mach.ctx 0 0).hold = some (.drain 1) ∧ (s.mach.ctx 0 0).waitIssued = 0 ∧ (s.mach.ctx 0 0).pastWpMax = false
    ∧ s.mach.waitDone 0 0 (.drain 1) = false
    ∧ (ev { ctx0 with ffar := some ⟨0, 1, 9, none⟩, hold := some .ffar }).mach.waitDone 0 0 .ffar = false := by decide +kernel
/-- R117: the drain outlives the bundle that it stands in, and is over once nothing is pending. -/
theorem test_hold : answers (issueBundle exec (ev { ctx0 with pend := [entry0], hold := some (.drain 1) }) 0 0)
      (fun s => (s.mach.ctx 0 0).status == .blocked (.drain 1) && (s.mach.ctx 0 0).pc == 0x1000) = true
    ∧ ((ev { ctx0 with hold := some (.drain 1) }).mach.holdBack 0 0).ctx 0 0 = ctx0 := by decide +kernel
/-- The first page of HBM is cached for core 0. -/
def paged (s : State) : State :=
  { s with mach := (s.mach.onCore 0 fun co => { co with tlb := [⟨0, 1, 0x10000000000, 0x100000, 0x8000000000000000⟩] }).onPart 0 fun p =>
      { p with ptEn := [true, true, true] } }
theorem witness_prefetch : windowOf (0x10000000000 + 0 : Word).toNat = .hbm
    ∧ okWith (translatePiece ((paged (at_ (put .luA (.word 0x10000000000) ctx0) (.word 0))).mach.taken [.luA]) 0 0 .s false 0x10000000000)
        (fun r => r.1 == 0x10000000000 && !pteST r.2) = true := by decide +kernel
theorem witness_prefetch_drops : let s := paged (at_ (put .luA (.word 0x10000000000) ctx0) (.word 0x100000))
    let s : State := { s with mach := { s.mach with walks := [⟨0, 0, 0x10000100000, some 1, 900, false, [0]⟩] } }
    windowOf (0x10000000000 + 0x100000 : Word).toNat = .hbm
    ∧ (match translatePiece (s.mach.taken [.luA]) 0 0 .s false 0x10000100000 with
      | .error (.raise _) => true
      | _ => false) = true := by decide +kernel
theorem test_prefetch_forgets : answers (exec (.luPf op0) (let s := paged (at_ (put .luA (.word 0x10000000000) ctx0) (.word 0x100000));
    { s with mach := { s.mach with walks := [⟨0, 0, 0x10000100000, some 1, 900, false, [0]⟩] } })) (fun s => s.mach.walks == []) = true := by decide +kernel
theorem witness_ffar : let s := ev { ctx0 with ffar := some ⟨0, 1, 9, none⟩ }
    s.mach.Has 0 0 ∧ s.mach.ffarReady 0 0 = true ∧ (s.mach.ctx 0 0).ffar = some ⟨0, 1, 9, none⟩ := by decide
theorem witness_ffar_done : (ev { ctx0 with ffar := some ⟨0, 1, 9, some []⟩ }).mach.ffarDone 0 0 = true := by decide
theorem witness_drain_done : let s := ev { ctx0 with status := .blocked (.drain 1) }
    (s.mach.ctx 0 0).status = .blocked (.drain 1) ∧ s.mach.drainDone 0 0 1 = true := by decide
/-- A walk of a code address with the window on and an empty table: XLATE; a window of whose table the first entry is a 1 GiB page. -/
def walking (mem : Memory) : State :=
  ⟨mem, { (mach0 ctx0).onPart 0 fun p => { p with ptEn := [true, true, true], ptBase := [0, 0, 0] } with walks := [⟨0, 0, 0x1000, none, 1000, false, [0]⟩] }⟩
theorem witness_walk : (walking []).mach.out = [] ∧ (∃ w ∈ (walking []).mach.walks, w.core = 0 ∧ w.part = 0 ∧ w.va = 0x1000 ∧ w.fault = none)
    ∧ (walkNow [] (walking []).mach 0 0x1000).toOption.isSome = false := ⟨rfl, ⟨_, .head _, rfl, rfl, rfl, rfl⟩, by decide⟩
theorem witness_walk_hits : (walkNow [(0x10000000007, 0xA0)] (walking []).mach 0 0x1000).toOption = some (0, 0x40000000, 0xA000000000000000) := by
  decide +kernel

/-! ## Traverse engine and fabric queue -/

/-- xe triggers with the card at the base of core 0's vault. -/
def sXe (t : Word) : State := at_ ctx0 (.word t)
theorem witness_xe_go : let m := (sXe 0x100000000).mach
    (sXe 0x100000000).Moves op0 (.word 0x100000000) m ∧ m.Placed ∧ (0x100000000 : Word).toNat % 64 = 0 ∧ windowOf 0x100000000 = .vault
    ∧ vaultCore 0x100000000 = 0 ∧ vaultCore (0x100000000 + 255) = 0 ∧ (m.myCore.jobs.filter (·.live)).length < 32
    ∧ (newJob m (List.replicate 32 0) 0x100000000).refusal 0 none false = 0 ∧ (newJob m (5 :: List.replicate 31 0) 0x100000000).kind = 5
    ∧ vaultCore (0x100FFFFC0 + 255) ≠ 0 :=
  ⟨rfl, by decide, by decide, by decide, by decide, by decide, by decide, by decide, by decide, by decide⟩
theorem test_xe_go_refused : answers (exec (.xeGo op0) { sXe 0x100000000 with mem := [(0x100000000, 5)] })
    (fun s => s.mach.agenda == [(1016, .xeResWrite 0 0 10 0x30)] && (s.mach.core 0).jobs.isEmpty) = true := by decide +kernel
theorem test_xe_stat_unknown : answers (exec (.xeStat op0) (sXe 0x1000000000000)) (fun s => s.mach.agenda == [(1016, .xeResWrite 0 0 10 0x0600000000000000)])
    = true := by decide +kernel
/-- A local copy of one byte from offset 0x1000 to offset 0x2000 of the vault. -/
def card0 : List Word := [0, 0x100001000, 0x100002000, 0, 1, 0, 1, 0, 1, 0, 1, 0, 1, 0, 1, 0] ++ List.replicate 16 0
def job0 : Job := { newJob (ev ctx0).mach card0 0x100000000 with num := 3, state := .running, begun := true, total := 1, readyAt := 0 }
def jobAt (j : Job) : State := { ev ctx0 with mach := (ev ctx0).mach.onCore 0 fun co => { co with jobs := [j] } }
theorem witness_xe_names : (jobAt job0).mach.myCore.jobs.find? (·.num == (0x3000000000000 : Word).toNat / 2 ^ 48) = some job0 ∧ job0.live = true
    ∧ { job0 with state := .complete }.live = false := by decide +kernel
theorem witness_job_begins : let j := { job0 with state := .queued, begun := false }
    (jobAt j).mach.nextJob 0 = some j ∧ ((jobAt j).mach.core 0).jobs.find? (·.num == j.num) = some j ∧ ((jobAt j).mach.core 0).jobBanks j = none := by
  decide +kernel
theorem witness_transfer : let s := jobAt job0
    s.Inv ∧ job0.kind = 0 ∧ job0.srcPeer = false ∧ job0.dstPeer = false ∧ s.mach.canTransfer 0 job0 = true ∧ job0.next = 0
    ∧ okWith (rangeSegs (s.mach.onCore 0 fun co => { co with rr := 3 }) 0 0 .s true (job0.dstAt 0) 1) (fun r => r.1 == [(0x100002000, 1)]) = true
    ∧ okWith (rangeSegs (s.mach.onCore 0 fun co => { co with rr := 3 }) 0 0 .s false (job0.srcAt 0) 1) (fun r => r.1 == [(0x100001000, 1)]) = true
    ∧ barrierKeys [(0x100001000, 1)] = [] ∧ (segKeys [(0x100002000, 1)]).any isBarrierKey = false
    ∧ (s.mach.core 0).jobsFrozen = false ∧ (s.mach.core 0).jobsHalted = false := by
  decide +kernel
theorem test_transfer : answers (exec (.jobTransfer 0 3 0) { jobAt job0 with mem := [(0x100001000, 7)] })
    (fun s => s.mem == [(0x100001000, 7), (0x100002000, 7)] && (s.mach.core 0).jobs.map (·.n) == [1]) = true := by decide +kernel
theorem witness_job_completes : let j := { job0 with n := 1, issued := 1 }
    (jobAt j).Inv ∧ j.state = .running ∧ j.flights = [] ∧ j.landed ≠ .sent ∧ j.stop = false ∧ j.code = 0 ∧ j.fault = none ∧ j.total ≤ j.issued
    ∧ j.kind ≠ 3 := by decide +kernel
/-- R237: a job of KIND 3 counts its elements once they have landed (log 80), another as they perform. -/
theorem witness_state_word : { job0 with card := 3 :: card0.drop 1 }.kind = 3 ∧ { job0 with landed := .sent }.landed ≠ .yes ∧ 5 < 2 ^ 48 ∧ job0.code < 256 := by decide +kernel
theorem test_state_word : { job0 with card := 3 :: card0.drop 1, n := 5, landed := .sent }.stateWord.toNat % 2 ^ 48 = 0
    ∧ { job0 with card := 3 :: card0.drop 1, n := 5, landed := .yes }.stateWord.toNat % 2 ^ 48 = 5 ∧ { job0 with n := 5 }.stateWord.toNat % 2 ^ 48 = 5 := by decide +kernel
theorem witness_job_suspends : { job0 with fault := some ⟨.xlate, 1, 0, 5, false, false⟩ }.fault = some ⟨.xlate, 1, 0, 5, false, false⟩ := rfl
theorem test_job_completes : answers (exec (.jobComplete 0 3) (jobAt { job0 with n := 1, issued := 1 }))
    (fun s => s.mem == [(0x1000000F8, 1), (0x1000000FF, 2)]) = true := by decide +kernel
theorem witness_dict : let s := at_ ctx0 (.word 0x8000100000000)
    (0x8000100000000 : Word).toNat / 2 ^ 48 = 8 ∧ windowOf 0x100000000 = .vault ∧ windowOf (0x100000000 + 8 - 1) = .vault
    ∧ (s.mach.myCore.dicts.getD 1 .empty).loading = false ∧ 1 < s.mach.myCore.dicts.length
    ∧ okWith (rangeSegs s.mach 0 0 .s false 0x100000000 8) (fun r => r.1 == [(0x100000000, 8)]) = true := by decide +kernel
theorem witness_dict_loaded : let d : Dict := ⟨[], true, 0x100000000, 8, [(0x100000000, 8)], 0, 0, some 1000⟩
    let s : State := { ev ctx0 with mach := (ev ctx0).mach.onCore 0 fun co => { co with dicts := [.empty, d] } }
    (s.mach.core 0).dicts.getD 1 .empty = d ∧ 1 < (s.mach.core 0).dicts.length ∧ d.loading = true ∧ 1000 ≤ s.mach.cycle := by decide
theorem witness_xe_res : ((ev { ctx0 with ports := { Ports.zero with xe := ⟨0, 0, some 4⟩ } }).mach.ctx 0 0).ports.xe.tag = some 4 := rfl

/-- A local write of 8 bytes without reply, a read, a word too few. -/
theorem witness_fq : let s := at_ { ctx0 with tx := [0x801, 0x100000000] } (.word 5)
    s.Moves op0 (.word 5) s.mach ∧ s.mach.Placed ∧ s.mach.me.tx.length < 64 ∧ s.mach.me.fqFrozen = false ∧ s.mach.me.fqHalted = false
    ∧ wellFormed 0 (s.mach.me.tx ++ [5]) = true ∧ replyNeed 0x801 ≤ s.mach.me.rxSpace ∧ 1 ≤ s.mach.me.rxSpace
    ∧ (s.mach.onMe fun x => { x with tx := [] }).route 0 (reqTarget 0x801) = some 0 ∧ reqTarget 0x801 = s.mach.pkg ∧ (reqKind 0x801).isSome = false :=
  ⟨rfl, by decide, by decide, rfl, rfl, by decide, by decide, by decide, by decide, by decide, by decide⟩
theorem witness_fq_malformed : wellFormed 0 [0x801, 5] = false ∧ (at_ ctx0 (.word 0)).mach.route 0 (reqTarget 0x0200000000000000) = none := by decide
theorem test_fq_malformed : answers (exec (.fqTxe op0) (at_ { ctx0 with tx := [0x801] } (.word 5))) (fun s => s.mach.me.rxReserved == 1 && s.mach.me.tx.isEmpty)
    = true := by decide +kernel
theorem witness_fq_reply : let m : Mach := { (ev ctx0).mach with replies := [⟨2, .fq 0 0 1, [0x80000000000]⟩] }
    m.Has 0 0 ∧ m.out = [] ∧ m.replies.find? (·.id == 2) = some ⟨2, .fq 0 0 1, [0x80000000000]⟩ ∧ (m.ctx 0 0).unit.map (·.uid) = some 1
    ∧ (0x80000000000 : Word).toNat / 2 ^ 40 % 256 ≠ 2 ∧ m.asked = [] := by decide
/-- A contribution of one value to fv1, pending on its last. -/
def pending1 : FactorVec := ⟨.pending, false, .add, 1, 0, List.replicate 512 0⟩
theorem witness_contribution : let q : Contribution := ⟨3, 0, 0, 0, 0, 0, 1, [0x7F800000], none, .fq 0 0 1, [], 1000⟩
    let m : Mach := { (ev { ctx0 with fv := [.zero, pending1] }).mach with contribs := [q] }
    m.Has 0 0 ∧ m.out = [] ∧ m.contribs = [q] ∧ q.due ≤ m.cycle ∧ (m.ctx 0 0).status = .running ∧ (m.ctx 0 0).unit.isSome = true
    ∧ 1 < (m.ctx 0 0).fv.length ∧ (m.ctx 0 0).fv.getD 1 .zero = pending1 ∧ q.op = none ∧ pending1.remain = 1 :=
  ⟨by decide, rfl, rfl, by decide, rfl, rfl, by decide, rfl, rfl, rfl⟩

/-! ## Rings, barriers, flags, tasks -/

/-- A ring of two slots at the vault's base, cb0 bound to it, slot 0 in a state. -/
def ring0 (st : SlotState) : Ring :=
  { Ring.make 0x100000000 64 2 with slots := [⟨st, false, none, false, 0⟩, ⟨.free, false, none, false, 0⟩] }
def ringed (r : Ring) (x : Ctx) : State :=
  let s := at_ { x with cb := [some 0x100000000, none] } (.ref .cb 0)
  { s with mach := s.mach.onCore 0 fun co => { co with rings := [r] } }
theorem witness_rinit : let s := at_ (put .syB (.word 0x4000000002) (put .syA (.word 0x100000000) ctx0)) (.ref .cb 0)
    let m1 := unbind (s.mach.taken [.syA, .syB]) 0
    s.Moves op0 (.ref .cb 0) s.mach ∧ s.mach.Holds .syA (.word 0x100000000) ∧ s.mach.Holds .syB (.word 0x4000000002)
    ∧ ringAllowed 0 0x100000000 64 2 = true ∧ m1.myCore.ring 0x100000000 = none ∧ m1.myCore.rings.length < 32
    ∧ ringAllowed 0 0x100000000 64 1 = false ∧ ringAllowed 0 0x100000000 0x100000 16 = false := ⟨rfl, rfl, rfl, by decide, by decide, by decide, by decide, by decide⟩
theorem witness_rinit_unbinds : (at_ (put .syA (.word 0) ctx0) (.ref .cb 0)).mach.Holds .syA (.word 0) := rfl
theorem witness_rinit_again : let m1 := unbind ((ringed (ring0 .free) ctx0).mach.taken [.syA, .syB]) 1
    m1.myCore.ring 0x100000000 = some (ring0 .free) ∧ (ring0 .free).slot = 64 ∧ (ring0 .free).n = 2 := by decide
theorem witness_ring : let m := (ringed (ring0 .free) ctx0).mach
    (ringed (ring0 .free) ctx0).Moves op0 (.ref .cb 0) m ∧ m.myRing 0 = some (ring0 .free) ∧ m.myRing 1 = none
    ∧ (ring0 .free).slotState 0 = .free ∧ m.myCore.earlierWaiter m.issue.ctx (.ringFree 0x100000000) = false
    ∧ (ring0 .full).slotState 0 = .full ∧ m.myCore.earlierWaiter m.issue.ctx (.ringFull 0x100000000) = false := ⟨rfl, by decide, by decide, by decide, by decide, by decide, by decide⟩
theorem witness_ring_slot : let s := ringed (ring0 .draining) (put .syA (.word 0) ctx0)
    s.mach.Holds .syA (.word 0) ∧ (s.mach.taken [.syA]).myRing 0 = some (ring0 .draining) ∧ (0 : Word).toNat < (ring0 .draining).n
    ∧ ((ring0 .draining).at 0).state = .draining ∧ ((ring0 .filling).at 0).state = .filling ∧ ((ring0 .filling).at 0).byJob = false :=
  ⟨rfl, by decide, by decide, by decide, by decide, by decide⟩
/-- The handle that is not bound, and a number that is no slot. -/
theorem witness_ring_refused : let m := (ringed (ring0 .draining) (put .syA (.word 2) ctx0)).mach
    m.Holds .syA (.word 2) ∧ (m.taken [.syA]).myRing 1 = none ∧ (m.taken [.syA]).myRing 0 = some (ring0 .draining)
    ∧ (ring0 .draining).n ≤ (2 : Word).toNat := ⟨rfl, by decide, by decide, by decide⟩
theorem test_rgive_refused : answers (exec (.syRgive op0) (ringed (ring0 .draining) (put .syA (.word 2) ctx0)))
    (fun s => s.mach.me.ports.sy.val == 0x1000000000000000) = true := by decide
/-- HEAD and TAIL in a state that lets neither claim nor take go on. -/
theorem witness_ring_blocks : (ring0 .full).slotState (ring0 .full).head ≠ .free ∧ (ring0 .free).slotState (ring0 .free).tail ≠ .full := by decide
theorem test_rclaim : answers (exec (.syRclaim op0) (ringed (ring0 .free) ctx0))
    (fun s => s.mach.me.ports.sy.val == 0x100000000 && (s.mach.core 0).rings.map (·.head) == [1]) = true := by decide +kernel
theorem witness_ring_events : let f : Ring := { ring0 .filling with slots := [⟨.filling, false, some (0, 9), false, 0⟩, ⟨.draining, false, none, true, 0⟩] }
    (ringed f ctx0).mach.out = [] ∧ ((ringed f ctx0).mach.core 0).ring 0x100000000 = some f ∧ (ringed f ctx0).mach.fullDue 0 f 0 = true
    ∧ f.freeDue 1 = true ∧ 1 < f.slots.length := by decide

/-- A barrier of the own core, of core 5 (another partition), of core 160. -/
theorem witness_barrier : let s := at_ (put .syA (.word 65535) ctx0) (.word 7)
    s.Moves op0 (.word 7) s.mach ∧ s.mach.Placed ∧ s.mach.Holds .syA (.word 65535) ∧ (7 : Word).getLsbD 31 = false
    ∧ (0x80050007 : Word).getLsbD 31 = true ∧ (0x80050007 : Word).toNat / 2 ^ 16 % 256 = 5 ∧ partOf 5 ≠ partOf s.mach.issue.core
    ∧ (0x80A00007 : Word).toNat / 2 ^ 16 % 256 = 160 := ⟨rfl, by decide, rfl, by decide, by decide, by decide, by decide, by decide⟩
/-- R164: the last arrival with no bytes outstanding flips the phase and reloads ARRIVE. -/
theorem test_barrier_flips : BarOp.barr.apply 0x100000000 3 = (0x8000000300000000, 3, 0)
    ∧ BarOp.barr.apply 0x100000005 3 = (5, 3, 0) ∧ BarOp.barr.apply 0 3 = (0, 3, 0x1100000000000000) := by decide
/-- R164, R126: binit and barm write the count and its reload, or the reload alone; after barm and btest too ARRIVE = TXBYTES = 0 flips; an expectation at ARRIVE = 0 that ends at 0 bytes flips; a
credit of fewer bytes than are outstanding does not. -/
theorem test_barrier_operations : (BarOp.binit 4).apply 0x8000000100000007 3 = (0x400000000, 4, 0)
    ∧ (BarOp.barm 4).apply 0x8000000100000007 3 = (0x8000000100000007, 4, 0) ∧ (BarOp.barm 4).apply 0 3 = (0x8000000400000000, 4, 0)
    ∧ BarOp.btest.apply 0 3 = (0x8000000300000000, 3, 0) ∧ BarOp.btest.apply 7 3 = (7, 3, 7)
    ∧ (BarOp.bexp 0xFFFFFFF9).apply 7 3 = (0x8000000300000000, 3, 0) ∧ (BarOp.bexp 1).apply 7 3 = (8, 3, 0)
    ∧ (BarOp.credit 5).apply 7 3 = (2, 3, 0) := by decide
theorem witness_barrier_words : (1 : Nat) < 2 ∧ (65535 : Nat) < 2 ^ 16 ∧ (2 ^ 32 - 1 : Nat) < 2 ^ 32 ∧ ¬ (1 = 1 ∧ 2 ^ 32 - 1 = 0)
    ∧ (7 + 0xFFFFFFF9) % 2 ^ 32 = 0 ∧ (0 = 0 ∧ 0 = 0) ∧ ¬ (0 = 0 ∧ 5 = 7) := by decide
theorem witness_farm : let s := at_ (put .syA (.word 1000) ctx0) (.word 0x7F)
    s.Moves op0 (.word 0x7F) s.mach ∧ s.mach.Holds .syA (.word 1000) ∧ (0x7F : Word).toNat / 2 ^ 4 % 16 = 7 ∧ (0x7F : Word).toNat % 16 = 15
    ∧ s.mach.me.p.length = 16 ∧ s.mach.me.arms.length = 16 ∧ (0x0F : Word).toNat / 2 ^ 4 % 16 = 0 ∧ 8 ≤ (0x8F : Word).toNat / 2 ^ 4 % 16 :=
  ⟨rfl, rfl, by decide, by decide, by decide, by decide, by decide, by decide⟩
/-- Each kind with an operand: a barrier of the own core and of core 5, a ring, fq.rx, a job, a factor vector; and operands that
are refused. -/
def farming (a : Word) : State := ringed (ring0 .full) (put .syA (.word a) { ctx0 with fv := [.zero, .zero] })
theorem witness_farm_kinds : (∀ a, (farming a).mach.Holds .syA (.word a)) ∧ (farming 0x107).mach.Placed ∧ (farming 0).mach.me.p.length = 16
    ∧ (farming 0).mach.me.arms.length = 16 ∧ (farming 0).mach.me.fv.length = 2 ∧ (farming 0).mach.me.cb = [some 0x100000000, none] :=
  ⟨fun _ => rfl, by decide, rfl, rfl, rfl, rfl⟩
theorem witness_farm_operands : (0x80A00007 : Word).toNat / 2 ^ 16 % 256 = 160 ∧ (0x80050007 : Word).toNat / 2 ^ 16 % 256 = 5
    ∧ (0x100 : Word).toNat % 16 = 0 ∧ (0x100 : Word).toNat / 2 ^ 8 % 2 ^ 9 = 1 ∧ (0x101 : Word).toNat % 16 = 1
    ∧ (0 : Word).toNat / 2 ^ 8 % 2 ^ 9 = 0 ∧ (0x1000000000000 : Word).toNat / 2 ^ 48 = 1 ∧ (5 : Word).toNat / 2 ^ 48 = 0
    ∧ (1 : Word).toNat % 64 < 2 ∧ 2 ≤ (5 : Word).toNat % 64 := by decide
/-- fq.rx holds a word: the flag of kind 4 is set at once; the ring has one full slot, so that kind 2 is met and kind 3 for 2 slots not. -/
theorem test_farm_kinds : let arm (t a : Word) (x : Ctx) := exec (.syFarm op0) (let s := ringed (ring0 .full) (put .syA (.word a) { x with cb := [some 0x100000000, none] });
      { s with mach := { s.mach with issue := { s.mach.issue with ready := some (.word t) } } })
    answers (arm 0x41 0 { ctx0 with rx := [5] }) (·.mach.me.p.getD 1 false) = true
    ∧ answers (arm 0x21 0x100 ctx0) (fun s => s.mach.me.p.getD 1 false && s.mach.me.arms.getD 1 ⟨0, 0⟩ == ⟨2, 0x100⟩) = true
    ∧ answers (arm 0x31 0x200 ctx0) (fun s => !s.mach.me.p.getD 1 true) = true := by decide +kernel
/-- A deadline that the cycle of the farm has reached before: the flag goes back. -/
theorem test_farm_undoes : answers (exec (.syFarm op0) (at_ (put .syA (.word 2000) { ctx0 with reached := 0x8000, p := List.replicate 16 true }) (.word 0x7F)))
    (fun s => s.mach.me.p.getD 15 true) = false := by decide +kernel
theorem test_farm_past : answers (exec (.syFarm op0) (at_ (put .syA (.word 1000) ctx0) (.word 0x7F))) (fun s => s.mach.me.p.getD 15 false) = true
    ∧ answers (exec (.syFarm op0) (at_ (put .syA (.word 1001) ctx0) (.word 0x7F))) (fun s => s.mach.me.p.getD 15 true) = false := by decide +kernel
theorem witness_deadline : let s := ev { ctx0 with arms := [⟨0, 0⟩, ⟨7, 1000⟩] }
    s.mach.Has 0 0 ∧ (s.mach.ctx 0 0).deadlineDue s.mach.cycle 1 = true ∧ 1 < (s.mach.ctx 0 0).p.length := by decide

/-- The own vault begins with a launch packet of one unit, or with a spawn packet; the partition is enabled. -/
def packed (byte1 : Byte) (depth : Nat) : State :=
  let s := at_ { ctx0 with unit := some { unit0 with depth := depth } } (.word 0x100000000)
  { s with mem := [(0x100000001, byte1), (0x100000005, 1)].filter (·.2 != 0), mach := s.mach.onPart 0 fun p => { p with en := true } }
/-- Whether the packet is read, and with which refusal. -/
def refusalOf (s : State) (spawn : Bool) : Option Nat :=
  (readPacket s.mem s.mach 0x100000000).toOption.map fun r => r.2.refusal 0 spawn r.2.me.tileNeed r.1
theorem witness_launch : let s := packed 0 0
    s.Moves op0 (.word 0x100000000) s.mach ∧ s.mach.Placed ∧ s.mach.me.unit.isSome = true ∧ (0x100000000 : Word).toNat % 32 = 0
    ∧ s.mach.coveredDone 0 0 1 10 = true ∧ refusalOf s false = some 0 ∧ refusalOf s true = some 2 ∧ (s.mach.claimEntry 0 0 0 0).isSome = true :=
  ⟨rfl, by decide, rfl, by decide, by decide, by decide +kernel, by decide +kernel, by decide +kernel⟩
theorem witness_spawn : refusalOf (packed 0x10 7) true = some 0 ∧ ((packed 0x10 7).mach.claimEntry 0 0 0 8).isSome = true
    ∧ (packed 0x10 8).mach.me.unit.map (·.depth) = some 8 := by decide +kernel
/-- Every entry of the die is taken. -/
theorem witness_no_entry : let m : Mach := { (packed 0 0).mach with dies := [⟨List.replicate 64 (some 0), []⟩] }
    (m.claimEntry 0 0 0 0).isSome = false := by decide +kernel
theorem test_enq : answers (exec (.syEnq op0) (packed 0 0)) (fun s => s.mach.me.ports.sy.val == 1 && (s.mach.work 0).launches.map (·.handle) == [1]) = true
    ∧ trapOf (exec (.sySpawn op0) (packed 0x10 8)) = some (.nestDepth, 1) := by decide +kernel
theorem witness_views : let s := at_ (put .syA (.word 1) ctx0) (.word 0x100000000)
    s.Moves op0 (.word 0x100000000) s.mach ∧ s.mach.Holds .syA (.word 1) ∧ (s.mach.taken [.syA]).unjoined = false ∧ (s.mach.taken [.syA]).me.pend = []
    ∧ okWith (planAccess (s.mach.taken [.syA]) 0x100000000 16 16 false) (fun r => okWith (readNow [] r.2 r.1) fun bs => bs.length == 16) = true :=
  ⟨rfl, rfl, by decide, by decide, by decide +kernel⟩
/-- A unit with children not yet joined. -/
def parent0 : State := let s := at_ (put .syA (.word 8) ctx0) (.word 0)
  { s with mach := s.mach.onPart 0 fun p => { p with work := { p.work with families := [{ (default : Family) with parent := 1 }] } } }
theorem witness_join : parent0.Moves op0 (.word 0) parent0.mach ∧ parent0.mach.unjoined = true ∧ (at_ ctx0 (.word 0)).mach.unjoined = false
    ∧ (at_ ctx0 (.word 0)).mach.me.heldTiles = [] := ⟨rfl, by decide, by decide, by decide⟩
theorem witness_level : let s := at_ (put .syA (.word 1) ctx0) (.word 0)
    s.Moves op0 (.word 0) s.mach ∧ s.mach.me.unit = some unit0 ∧ (0 : Word).toNat % 8 ≠ 5 ∧ s.mach.Holds .syA (.word 1) ∧ (5 : Word).toNat % 8 = 5 :=
  ⟨rfl, rfl, by decide, rfl, by decide⟩
theorem witness_until : let m := (at_ ctx0 (.word 0x1000000000001)).mach
    promisePast (m.cycle % 2 ^ 48) ((0x1000000000001 : Word).toNat % 2 ^ 48) = true ∧ (0x1000000000001 : Word).toNat / 2 ^ 48 = 1
    ∧ m.myCore.jobOver 1 = true ∧ (jobAt job0).mach.myCore.jobOver 3 = false := by decide +kernel
theorem witness_prio : (3 : Word).toNat ≤ 3 ∧ 3 < (4 : Word).toNat := by decide
theorem test_prio_ceil : answers (exec (.syPrio op0) (let s := at_ ctx0 (.word 3); { s with mach := s.mach.onPart 0 fun p => { p with ceil := 1 } }))
    (fun s => s.mach.me.ownPrio == 1) = true := by decide +kernel

/-! ## Runs, contexts, the concierge -/

/-- A blocked context that waits for w. -/
def waits (w : Wait) : State := ev { ctx0 with status := .blocked w, tx := List.replicate 64 0 }
theorem witness_blocked : let s := waits .mxQueue
    s.mach.Has 0 0 ∧ s.mach.out = [] ∧ (s.mach.ctx 0 0).status = .blocked .mxQueue ∧ (s.mach.ctx 0 0).waitIssued = 0 ∧ (s.mach.ctx 0 0).waitOn = []
    ∧ ((s.mach.core 0).mx.filter fun q => q.ctx == 0).length < 4 ∧ ¬ ((waits .fqTx).mach.ctx 0 0).tx.length < 64
    ∧ ((waits .fqRx).mach.ctx 0 0).rx = [] := by decide
theorem witness_blocked_ring : let r := { ring0 .full with head := 1 }
    (r.at r.head).state = .free ∧ (r.at r.tail).state = .full := by decide
theorem witness_blocked_ring_waits : let s := ringed (ring0 .full) { ctx0 with status := .blocked (.ringFree 0x100000000) }
    (s.mach.core 0).ring 0x100000000 = some (ring0 .full) ∧ (s.mach.ctx 0 0).status = .blocked (.ringFree 0x100000000)
    ∧ (s.mach.ctx 0 0).waitIssued = 0 ∧ (s.mach.ctx 0 0).waitOn = [] ∧ ((ring0 .full).at (ring0 .full).head).state ≠ .free
    ∧ ((ring0 .free).at (ring0 .free).tail).state ≠ .full := by decide
/-- The other waits, come and not come: a queue entry, the join, a vector, a dictionary, a drain, a frozen port. -/
theorem witness_blocked_kinds : let s := waits (.entry 0)
    let x := s.mach.ctx 0 0
    ((s.mach.die (dieOf 0)).blocked.any fun b => b.core == 0 && b.ctx == 0 && b.granted.isSome) = false
    ∧ (s.mach.work (partOf 0)).families = [] ∧ x.fqFrozen = false ∧ x.fqHalted = false ∧ (s.mach.core 0).jobs = [] ∧ s.mach.drainDone 0 0 15 = true
    ∧ (ev { ctxV with fv := [pending1] }).mach.fvState 0 0 0 = .pending
    ∧ (ev { ctxV with fv := [pending1, { FactorVec.zero with state := .void }] }).mach.fvState 0 0 1 = .void ∧ s.mach.fvState 0 0 0 ≠ .pending := by decide +kernel
/-- A wait bundle of a hardware loop: a header with W, two empty slots, and `?p3 g5 -> g9` with p3 = 0. -/
def waiting0 : List Cell := [0xD0000000, 0x00FFFFC0, 0x00FFFFC0, 0b00_100110_000000101_000001001_0001_0_0]
def waitHeader : State := ev { ctx0 with pc := 0x1010, loop := ⟨true, 0x1000, 1, 2, 0, [waiting0]⟩ }
theorem witness_wait_header : let s := waitHeader
    let x := s.mach.ctx 0 0
    (nextBundle s.mem { s.mach with issue := freshIssue 0 0 } 0 0).toOption = some waiting0 ∧ headerBit waiting0 28 = true
    ∧ encodingTrap x waiting0 = none ∧ x.status = .running ∧ x.pastWpMax = false ∧ x.heldBack = false
    ∧ (∀ sl ∈ moveSlots waiting0, x.waitIssued.getLsbD sl.k = false → sl.isEmpty = false → x.guardHolds (guardOfInstr sl.instr) = false)
    ∧ ∃ sl ∈ moveSlots waiting0, x.waitIssued.getLsbD sl.k = false ∧ sl.isEmpty = false := by decide +kernel
theorem test_wait_header : answers (issueBundle exec waitHeader 0 0) (fun s => (s.mach.ctx 0 0).status == .blocked .waitFlags
    && (s.mach.ctx 0 0).waitIssued == 6 && (s.mach.core 0).running == none) = true := by decide +kernel
theorem witness_wait_slot : let x := { ctx0 with status := .blocked .waitFlags, waitChanged := true }
    x.status = .blocked .waitFlags ∧ x.waitChanged = true := by decide
/-- Contexts 2 and 5 of level 1, context 3 of level 0; 4 was chosen last at level 1. -/
def runnable (k : Nat) : Ctx := { Ctx.reset with status := if k = 2 ∨ k = 3 ∨ k = 5 then .ready else .free, prio := if k = 3 then 0 else 1 }
def choosing : Core := { Core.reset with ctxs := (List.range 8).map runnable, lastChosen := [7, 4, 7, 7] }
theorem witness_choice : choosing.ctxs.length = 8 ∧ choosing.lastChosen.length = 4 ∧ choosing.choose 0 = some (1, 5) := by decide
theorem witness_lift : let s := ev { ctx0 with status := .ready, quantum := 250, readySince := 0 }
    s.mach.Has 0 0 ∧ s.mach.out = [] ∧ 4 * (s.mach.ctx 0 0).quantum ≤ s.mach.cycle - (s.mach.ctx 0 0).readySince := by decide
theorem witness_waypoint_distance : let x := { ctx0 with wpCount := 16384 }
    x.trap.active = false ∧ x.wpMax ≤ x.wpCount := by decide
theorem witness_promise : let s := ev { ctx0 with issueAt := 1000 }
    s.mach.mayIssue = true ∧ (s.mach.core 0).running = some 0 ∧ (s.mach.ctx 0 0).status = .running ∧ (s.mach.ctx 0 0).issueAt = s.mach.cycle
    ∧ (s.mach.core 0).nextIssue ≤ s.mach.cycle ∧ (s.mach.core 0).retired = false ∧ (s.mach.core 0).halted = false := by decide
/-- GQUOTA of general entries used; a full die but for the reserved entries. -/
theorem witness_entries : let d : Die := ⟨List.replicate 56 (some 1) ++ List.replicate 8 none, [⟨0, 0, 0, 8, none⟩]⟩
    let s : State := ⟨[], { mach0 ctx0 with dies := [d] }⟩
    d.entries.length = 64 ∧ s.mach.freeEntry 0 8 = some 63 ∧ s.mach.freeEntry 0 0 = none ∧ 0 < s.mach.dies.length
    ∧ d.blocked.find? (fun b => b.granted.isNone && (s.mach.freeEntry b.part b.depth).isSome) = some ⟨0, 0, 0, 8, none⟩ := by decide
theorem test_grant : answers (exec (.queueEntryGrant 0) ⟨[], { mach0 ctx0 with dies := [⟨List.replicate 56 (some 1) ++ List.replicate 8 none, [⟨0, 0, 0, 8, none⟩]⟩] }⟩)
    (fun s => (s.mach.die 0).blocked.map (·.granted) == [some 63]) = true := by decide +kernel
/-- One unit of one launch that is to start at core 0. -/
def packet0 : Packet := { (default : Packet) with units := 1, home := some 0, code := 0x2000, nv := 2, nvm := 1, nacc := 1, nfv := 1, ncb := 2, prio := 3 }
def batch0 : Batch := { (default : Batch) with id := 4, handle := 1, packet := packet0 }
def starting : State := let s := ev ctx0
  { s with mach := { s.mach with cores := s.mach.cores ++ List.replicate 9 Core.reset }.onPart 0 fun p => { p with run := true, en := true, work := { p.work with
      batches := [batch0], launches := [{ (default : Launch) with handle := 1, packet := packet0, started := true }] } } }
theorem witness_unit_start : starting.mach.out = [] ∧ starting.mach.nextStart 0 = some (.unit batch0 0 0 0)
    ∧ starting.mach.Has 0 (starting.mach.core 0).freeCtx ∧ (starting.mach.core 0).freeCtx = 1 := by decide +kernel
theorem test_unit_start : answers (exec (.unitStart 0 4) starting) (fun s => (s.mach.ctx 0 1).pc == 0x2000 && (s.mach.ctx 0 1).issueAt == 1020
    && (s.mach.ctx 0 1).v.length == 2 && (s.mach.ctx 0 1).status == .ready) = true := by decide +kernel
theorem witness_discard : let l : Launch := { (default : Launch) with handle := 1, counter := ⟨1, 1, 0, false, true⟩, completions := 1024 }
    l.handle = 1 ∧ l.counter.complete = true ∧ 1024 ≤ l.completions := by decide
/-- Partition 0's host window: its first page; the submission queue of two entries stands there, with one packet of n units. -/
def submitted (n : Byte) : State :=
  let s := ev ctx0
  { s with
    mem := [(0x10000000007, 0xA0), (0x40000000005, n)].filter (·.2 != 0)
    mach := s.mach.onPart 0 fun p => { p with run := true, en := true, ptEn := [true, true, true], work := { p.work with
      subqBase := 0x40000000000, subqSize := 1, subqTail := 1 } } }
/-- The packet at HEAD and its refusal. -/
def submittedRefusal (s : State) : Nat :=
  s.mach.refusal 0 false 0 (wordsOf ((peekAll s.mem s.mach (upFrom 0x40000000000 256)).take 32))
theorem witness_submission : let s := submitted 1
    s.mach.out = [] ∧ 0 < s.mach.parts.length ∧ s.mach.subqReady 0 = true ∧ windowOf 0x40000000000 = .host
    ∧ deviceKey s.mem s.mach 0 0x40000000000 = some 0x40000000000 ∧ s.mem.wf = true ∧ submittedRefusal s = 0 ∧ submittedRefusal (submitted 0) = 2
    ∧ (s.mach.claimEntry 160 0 0 0).isSome = true := by decide +kernel
theorem test_submission_refused : answers (exec (.subqEntryTake 0) (submitted 0))
    (fun s => (s.mach.work 0).subqHead == 1 && s.mem == [(0x10000000007, 0xA0), (0x40000000104, 2), (0x40000000107, 0x80)]) = true := by decide +kernel

theorem witness_cancelled : let s := ev { ctx0 with cancelled := true, status := .blocked .join }
    s.mach.Has 0 0 ∧ s.mach.out = [] ∧ (s.mach.ctx 0 0).unit = some unit0 ∧ (s.mach.ctx 0 0).cancelled = true ∧ (s.mach.ctx 0 0).trap.active = false
    ∧ (s.mach.ctx 0 0).isBlocked = true := by decide
theorem witness_stopping : let s := ev { ctx0 with status := .stopping }
    (s.mach.ctx 0 0).status = .stopping ∧ (∀ q ∈ (s.mach.core 0).mx, q.ctx ≠ 0) ∧ (∀ q ∈ (s.mach.core 0).tf, q.ctx ≠ 0) ∧ (s.mach.ctx 0 0).privOp = none := by
  decide
theorem witness_cancel_counts : let s := starting
    ∃ l, (s.mach.work 0).launch 1 = some l ∧ partOf 0 < s.mach.parts.length ∧ unit0.handle = 1 := ⟨_, rfl, by decide, rfl⟩
theorem test_cancel_counts : answers (exec (.unitStopOnCancel 0 0) { starting with
      mach := starting.mach.onCtx 0 0 fun x => { x with status := .stopping, cancelled := true } })
    (fun s => (s.mach.ctx 0 0).status == .free && ((s.mach.work 0).launch 1).map (·.counter.cancelled) == some 1) = true := by decide +kernel
/-- Units being saved: the image fits a slot, or does not; the save has begun. -/
def saving0 : Ctx := { ctx0 with status := .saving, record := List.replicate 8 0 }
theorem witness_save : let s := ev saving0
    s.mach.Has 0 0 ∧ (s.mach.ctx 0 0).unit = some unit0 ∧ (s.mach.ctx 0 0).status = .saving ∧ (s.mach.ctx 0 0).saveSet = false
    ∧ (s.mach.ctx 0 0).settled = true ∧ saveBytes saving0 saving0.record = 1536 ∧ 1536 ≤ (s.mach.work 0).slotKb * 1024
    ∧ s.mach.slotsTaken 0 < (s.mach.work 0).slots := by decide +kernel
theorem witness_save_too_big : (((ev saving0).mach.onPart 0 fun p => { p with work := { p.work with slotKb := 1 } }).work 0).slotKb * 1024 < 1536 := by decide
theorem witness_save_ends : let x := { saving0 with saveSet := true }
    (ev x).mach.Has 0 0 ∧ x.saveSet = true ∧ x.cancelled = false ∧ savesPending x x.record = false
    ∧ savesPending { x with fv := [{ FactorVec.zero with state := .pending }], record := List.replicate 8 (BitVec.allOnes 64) } (List.replicate 8 (BitVec.allOnes 64)) = true := by decide +kernel
theorem test_save_ends : answers (exec (.unitSave 0 0) (ev { saving0 with saveSet := true })) (fun s => (s.mach.ctx 0 0).status == .free
    && (s.mach.work 0).saves.map (·.unit.uid) == [1]) = true := by decide +kernel
theorem witness_save_waits : { saving0 with rxReserved := 1 }.settled = false := by decide
/-- A saved unit that comes next, and one whose restore ends. -/
def save0 : Save := { (default : Save) with unit := unit0, image := ctx0, bytes := 1536 }
def resuming (v : Save) : State := { starting with mach := starting.mach.onPart 0 fun p => { p with work := { p.work with saves := [v], batches := [] } } }
theorem witness_resume : (resuming save0).mach.out = [] ∧ ((resuming save0).mach.work 0).saves.find? (fun v => v.unit.uid == 1) = some save0
    ∧ save0.due = none ∧ (resuming save0).mach.nextStart 0 = some (.saved save0)
    ∧ (resuming save0).mach.Has 0 (save0.reserved.getD ((resuming save0).mach.core 0).freeCtx) := by decide +kernel
theorem witness_resumed : let v := { save0 with due := some 1000, reserved := some 1 }
    ((resuming v).mach.work 0).saves.find? (fun v => v.unit.uid == 1) = some v ∧ 1000 ≤ (resuming v).mach.cycle ∧ v.held = [] ∧ (resuming v).mach.Has 0 1 := by
  decide +kernel
theorem test_resumed : answers (exec (.unitResume 0 1) (resuming { save0 with due := some 1000, reserved := some 1, image := { ctx0 with pc := 0x3000 } }))
    (fun s => (s.mach.ctx 0 1).pc == 0x3000 && (s.mach.ctx 0 1).status == .ready && (s.mach.work 0).saves.isEmpty) = true := by decide +kernel
/-- A family with one child merging: one region entry of 64 bytes of n32 sums in the parent's vault, which the child has written in block 0. -/
def entryR : ViewEntry := { (default : ViewEntry) with op := 1, etype := 1, base := 0x100000000, length := 64 }
def family0 : Family := { (default : Family) with parent := 1, table := [entryR], kids := [{ (default : Child) with state := .merged, blocks := [⟨0, 0x100000000, 0⟩] }],
                                                  busy := true }
def merging (f : Family) : State := let s := ev { ctx0 with status := .blocked .join }
  { s with mach := s.mach.onPart 0 fun p => { p with poolSize := 4, poolBase := 0x100004000, work := { p.work with families := [f] } } }
theorem witness_merge : let s := merging family0
    let kid : Child := { (default : Child) with state := .merged, blocks := [⟨0, 0x100000000, 0⟩] }
    s.mach.out = [] ∧ s.mach.family 0 1 = some family0 ∧ family0.busy = true ∧ family0.final = false ∧ family0.suspended = false
    ∧ family0.kids[family0.folded]? = some kid ∧ family0.nextWork (some kid) 2 0 0 = some (0, 0) ∧ entryR.tile = false
    ∧ (foldRegion [] s.mach 0 family0 kid 0 0 entryR).toOption.isSome = true ∧ family0.nextWork (some kid) 2 0 1 = none := by decide +kernel
/-- The blocks of the step in the accumulated view and in the child's, where each is in the pool, and a pool that has no address. -/
theorem witness_merge_blocks : let m := (merging family0).mach
    let q : ViewBlock := ⟨0, 0x100000000, 0⟩
    let key (m : Mach) (q : ViewBlock) := (deviceBlock [] m 0 family0.core q.block).map (· + (entryR.part 0).1 % 64)
    findBlock family0.accBlocks 0 (entryR.line 0) = none ∧ findBlock [q] 0 (entryR.line 0) = some q ∧ (m.poolWalks [] 0 0 [0, 1]).1 = 0
    ∧ key m q = some 0x100004000 ∧ key m ⟨0, 0x100000000, 1⟩ = some 0x100004040
    ∧ key (m.onPart 0 fun p => { p with poolBase := 0 }) q = none := by decide +kernel
/-- A pool in HBM whose page is not cached: the step walks first. -/
theorem witness_merge_walks : let m := (merging family0).mach.onPart 0 fun p => { p with poolBase := 0x10000000000, ptEn := [true, true, true], ptBase := [0, 0, 0] }
    (m.poolWalks [(0x10000000007, 0xA0)] 0 0 [0]).1 ≠ 0 := by decide +kernel
/-- CURSOR in host memory with no module trained: it cannot be written; with one it can, and in a vault always. -/
def hostEntry : Family := { family0 with table := [{ entryR with slotAddr := 0x40000000000 }] }
theorem witness_cursor_down : let m (n : Nat) (f : Family) : Mach := { (merging f).mach with boot := { (merging f).mach.boot with modules := n } }
    let f := { hostEntry with final := true }
    (m 0 hostEntry).cursorDown hostEntry = true ∧ (m 1 hostEntry).cursorDown hostEntry = false ∧ (m 0 f).cursorDown f = true
    ∧ (m 0 f).family 0 1 = some f ∧ f.busy = true ∧ f.final = true ∧ f.suspended = false ∧ f.stepEnd ≤ (m 0 f).cycle
    ∧ (m 1 f).cursorDown { f with resuming := true } = false ∧ { f with resuming := true }.resuming = true ∧ family0.resuming = false
    ∧ ({ family0 with table := [{ entryR with slotAddr := 0x100000000 }] } : Family).resuming = false
    ∧ (m 0 family0).cursorDown { family0 with table := [{ entryR with slotAddr := 0x100000000 }] } = false := by decide +kernel
/-- R335: the step waits with CURSOR as it is, a cycle later again. -/
theorem test_cursor_waits : answers (exec (.mergeStep 0 1) (let s := merging { hostEntry with block := 1 }
      { s with mach := { s.mach with boot := { s.mach.boot with modules := 0 } } }))
    (fun s => s.mem == [] && s.mach.agenda.length == 1 && (s.mach.family 0 1).map (·.block) == some 1) = true := by decide +kernel
/-- A tile entry of one row of four columns. -/
def entryT : ViewEntry := { entryR with tile := true, geom := 0x40000 }
theorem witness_merge_tile : { family0 with table := [entryT] }.nextWork family0.kids.head? 2 0 0 = some (0, 0) ∧ entryT.tile = true := by decide
/-- The child's block folds into the accumulated one: 5 + 2, and its block is free again. -/
theorem test_merge_step : answers (exec (.mergeStep 0 1) { merging { family0 with accBlocks := [⟨0, 0x100000000, 1⟩] } with
      mem := [(0x100004000, 2), (0x100004040, 5)] }) (fun s => s.mem.read 0x100004040 == 7) = true := by decide +kernel
theorem witness_join_done : let f := { family0 with busy := false, folded := 1 }
    (merging f).mach.family 0 1 = some f ∧ (merging f).mach.findUnit 0 1 = some (0, 0) ∧ (merging f).mach.foldReady 0 0 f = true ∧ f.any = false := by
  decide +kernel
theorem witness_fold : let f := { family0 with final := true, folded := 1 }
    let g := { f with target := some ([0x100000000], []) }
    f.busy = true ∧ f.final = true ∧ f.suspended = false ∧ f.stepEnd ≤ (merging f).mach.cycle ∧ f.target = none ∧ f.nextWork none 2 0 0 = some (0, 0)
    ∧ g.target = some ([0x100000000], []) ∧ (merging g).mach.family 0 1 = some g ∧ (merging g).mach.findUnit 0 1 = some (0, 0)
    ∧ (merging g).mach.cycle < { g with stepEnd := 1001 }.stepEnd
    ∧ { f with table := [entryT] }.nextWork none 2 0 0 = some (0, 0) := by decide +kernel
/-- R322: the first of two blocks leaves 1 in CURSOR; the last of the entry's step leaves 0, be another entry behind it or not. -/
theorem test_cursor : let f := { family0 with table := [{ entryR with length := 128 }, entryR] }
    f.cursorAfter none 0 0 = 1 ∧ f.cursorAfter none 0 1 = 0 ∧ f.cursorAfter none 1 0 = 0 ∧ f.cursorAfter f.kids.head? 0 0 = 0 := by decide +kernel
/-- A parent whose object lies in no window. -/
theorem witness_fold_fails : let s := merging { family0 with final := true, folded := 1, table := [{ entryR with base := 0 }] }
    (match objectBytes s.mem 0 0 0 (s.mach.ctx 0 0).ownViews (s.mach.ctx 0 0).priv [0] s.mach with
      | .error _ => true
      | .ok _ => false) = true := by decide +kernel
/-- The fold of an accumulated block into the parent's object, which held 4. -/
theorem test_fold : answers (exec (.joinComplete 0 1) (let s := merging { family0 with
      final := true, folded := 1, accBlocks := [⟨0, 0x100000000, 0⟩], target := some ([0x100000000, 0x100000001, 0x100000002, 0x100000003], upFrom 0x100004000 4) };
    { s with mem := [(0x100000000, 4), (0x100004000, 3)] })) (fun s => s.mem.read 0x100000000 == 7) = true := by decide +kernel

/-! ## Errors, records and registers without an encoding -/

/-- A self-test of core 0 that is due. -/
def testing (code : Nat) (k : Nat) : State :=
  let s := ev ctx0
  { s with mach := { s.mach with tests := [⟨0, code, .unit 0 k, 1000, false⟩] } }
/-- Code 9 is a code that halts nothing, 10 one that halts; the core is still once its last flag on its way is up. -/
theorem witness_data_error : let s := testing 9 1
    0 < s.mach.cores.length ∧ s.mach.out = [] ∧ s.mach.tests = [⟨0, 9, .unit 0 1, 1000, false⟩] ∧ 1000 ≤ s.mach.cycle
    ∧ (s.mach.ctx 0 1).unit = none ∧ s.mach.ctxStill 0 1 = true := by decide +kernel
theorem witness_self_test_waits : let s := testing 10 1
    s.mach.coreStill 0 = true
    ∧ (s.mach.onCore 0 fun co => { co with tf := [{ (default : TfCmd) with ctx := 0 }] }).coreStill 0 = false := by decide +kernel
theorem witness_self_test_ends : let s : State := ⟨[], { mach0 Ctx.reset with tests := [⟨0, 10, .unit 0 0, 1000, false⟩] }⟩
    s.mach.out = [] ∧ s.mach.coreStill 0 = true ∧ (s.mach.ctx 0 0).unit = none ∧ (s.mach.ctx 0 1).unit = none
    ∧ (∀ v ∈ (s.mach.work 0).saves, v.core ≠ 0) := by decide +kernel
/-- The core is halted for a self-test alone, or for a cu.halt besides. -/
theorem witness_self_test_releases : let m := (testing 10 1).mach.onCore 0 fun co => { co with halted := true, haltCauses := [.test] }
    (∀ w ∈ (m.core 0).haltCauses, w = .test)
    ∧ ∃ w ∈ ((m.onCore 0 fun co => { co with haltCauses := [.order, .test] }).core 0).haltCauses, w ≠ .test := by decide +kernel
/-- A core that still holds its unit. -/
theorem witness_rerun : let s := testing 10 0
    s.mach.coreStill 0 = true ∧ s.mach.Has 0 0 ∧ (s.mach.ctx 0 0).unit = some unit0 ∧ s.mach.findUnit (partOf 0) 1 = some (0, 0)
    ∧ (s.mach.ctx 0 0).status ≠ .merging ∧ (s.mach.ctx 0 0).status ≠ .stopping ∧ unit0.errors < 2 := by decide +kernel
/-- A unit of core 1 that meets an error in a bank of core 0, and is still: halted for it; it need not be halted where core 0 fails. -/
theorem witness_met_elsewhere : let s0 := testing 10 1
    let s : State := { s0 with mach := { s0.mach with cores := s0.mach.cores ++ [{ Core.reset with ctxs := [{ ctx0 with status := .ready, halted := true }] }],
                                                      tests := [⟨0, 10, .unit 1 0, 1000, true⟩] } }
    s.mach.coreStill 0 = true ∧ s.mach.Has 1 0 ∧ (s.mach.ctx 1 0).unit = some unit0 ∧ s.mach.ctxStill 1 0 = true ∧ unit0.errors < 2
    ∧ (let t : State := { s with mach := s.mach.onCtx 0 0 fun x => { x with unit := none } }
      t.mach.findUnit (partOf 1) 1 = some (1, 0) ∧ (t.mach.ctx 1 0).unit = some unit0 ∧ (t.mach.ctx 1 0).status ≠ .merging
      ∧ (t.mach.ctx 1 0).status ≠ .stopping ∧ t.mach.tests = [⟨0, 10, .unit 1 0, 1000, true⟩]) := by decide +kernel
/-- R36: the unit starts anew after a passed test, with one error more. -/
theorem test_rerun : answers (exec (.selfTestComplete 0 true) (let s := testing 10 0
    { s with mach := s.mach.onCore 0 fun co => { co with halted := true, haltCauses := [.test] } })) (fun s => (s.mach.ctx 0 0).unit.map (·.errors) == some 1
      && !(s.mach.core 0).halted && (s.mach.ctx 0 0).pc == 0) = true := by decide +kernel
/-- The error of an entry read: the queue has an entry to take (witness_submission), and gives none before its register is written. -/
theorem test_entry_error : answers (exec (.dataError 3 0 .entry) (submitted 1)) (fun s => !s.mach.subqReady 0 && (s.mach.work 0).subqHead == 0
    && s.mach.agenda.length == 1) = true := by decide +kernel
theorem test_data_error_holds_core : answers (exec (.dataError 7 0 (.unit 0 1)) (ev ctx0)) (fun s => (s.mach.core 0).halted
    && s.mach.tests.map (fun t => (t.code, t.due)) == [(7, 21000)]) = true := by decide +kernel

/-- A fault queue of four entries at offset 0x4000 of core 0's vault, whose HEAD is h. -/
def faultQ (h : Nat) : State :=
  let s := ev ctx0
  { s with mach := s.mach.onPart 0 fun p => { p with fltqSize := 2, fltqBase := 0x100004000, fltqHead := h, fltqTail := 0, note := 0x180#64 } }
/-- HEAD 3 is full with TAIL 0, HEAD 2 is not; SIZE 0 is no queue; FLT_NOTE names flag 1 of context 0 of core 0, or no flag. -/
theorem witness_fault_record : let s := faultQ 2
    s.mach.out = [] ∧ 0 < s.mach.parts.length ∧ 0 ∉ s.mach.records ∧ (s.mach.part 0).fltqSize ≠ 0
    ∧ ((s.mach.part 0).fltqHead % 2 ^ 2 + 1) % 2 ^ 2 ≠ (s.mach.part 0).fltqTail % 2 ^ 2
    ∧ windowOf (0x100004000 + 64 * 2) = .vault ∧ (deviceKey s.mem s.mach 0 (0x100004000 + 64 * 2)).isSome = true
    ∧ ((faultQ 3).mach.part 0).fltqHead % 2 ^ 2 + 1 = 2 ^ 2 ∧ ((ev ctx0).mach.part 0).fltqSize = 0 := by decide +kernel
theorem witness_fault_record_done : let m := { (faultQ 3).mach with records := [0] }
    m.out = [] ∧ 0 < m.parts.length ∧ 0 ∈ m.records ∧ (m.part 0).note.getLsbD 7 = true ∧ m.Has 0 0 ∧ 1 < (m.ctx 0 0).p.length
    ∧ ((ev ctx0).mach.part 0).note.getLsbD 7 = false := by decide +kernel
theorem test_fault_record_head : answers (exec (.faultRecordPerform 0 []) ⟨[], { (faultQ 3).mach with records := [0] }⟩)
    (fun s => (s.mach.part 0).fltqHead == 0 && (s.mach.ctx 0 0).p.getD 1 false) = true := by decide +kernel

/-- A context at S of partition 0; partition 7 is the last. -/
theorem witness_register_access : let s := ev ctx0
    s.mach.Has 0 0 ∧ s.mach.out = [] ∧ 7 < 8 ∧ s.mach.parts.length = 8 ∧ (s.mach.part 7).ptEn.length = 3 ∧ 0 < (s.mach.part 7).ptBase.length
    ∧ (s.mach.ctx 0 0).priv.rank < (regLevel (partOf 0) (0x018 + 7) true).rank := by decide
theorem witness_register_write_f : let s := ev { ctx0 with priv := .f }
    s.mach.Has 0 0 ∧ ∀ n ∈ [0x010, 0x018, 0x020, 0x030, 0x118, 0x120, 0x300, 0x108], ¬ (s.mach.ctx 0 0).priv.rank < (regLevel (partOf 0) (n + 7) true).rank := by
  decide
theorem test_evq_read : answers (exec (.evqCtlRead 0 0) ⟨[], { mach0 ctx0 with evqDropped := 2, evqHead := 3, evqTail := 1, evqSize := 4 }⟩)
    (fun s => (s.mach.ctx 0 0).ports.cu == ⟨0x0002000300010004, 1004, none⟩ && s.mach.evqDropped == 0) = true := by decide +kernel
theorem test_fltq_read : answers (exec (.fltqCtlRead 0 0 0) (faultQ 3)) (fun s => (s.mach.ctx 0 0).ports.cu == ⟨0x0000000300000002, 1004, none⟩) = true := by
  decide +kernel
/-- FLTQ_BASE takes bits 47:6. -/
theorem test_register_write : answers (exec (.systemRegisterWrite 0 0 0x020 0xFFFF800000000FFF#64) (ev { ctx0 with priv := .f }))
    (fun s => (s.mach.part 0).fltqBase == 0x800000000FC0) = true := by decide +kernel

/-- A handle of core 160 is of no core; core 5 is of partition 1; a job that is suspended. -/
theorem witness_resume_job : let j := { job0 with state := .suspended }
    159 < (0x01A0000000000000 : Word).toNat / 2 ^ 48 % 256 ∧ partOf ((0x0105000000000003 : Word).toNat / 2 ^ 48 % 256) ≠ 0
    ∧ (jobAt j).mach.out = [] ∧ 0 < (jobAt j).mach.cores.length ∧ j ∈ ((jobAt j).mach.core 0).jobs ∧ j.num = 3 ∧ j.state = .suspended := by
  decide +kernel
theorem test_resume_job : answers (exec (.resume 0 0x0100000000000003#64) (jobAt { job0 with state := .suspended }))
    (fun s => (s.mach.core 0).jobs.map (·.state) == [.queued]) = true := by decide +kernel
/-- A suspended merge of the unit in context 0 that stands at entry 0; one that goes on. -/
theorem witness_resume_merge : let f := { family0 with suspended := true }
    (merging f).mach.out = [] ∧ partOf 0 < (merging f).mach.parts.length ∧ ((merging f).mach.ctx 0 0).unit = some unit0
    ∧ (merging f).mach.family (partOf 0) 1 = some f ∧ f.suspended = true ∧ f.entry = 0 ∧ (merging family0).mach.family (partOf 0) 1 = some family0
    ∧ family0.suspended = false ∧ (merging f).mach.cursorDown f = false := by decide +kernel
theorem test_resume_merge : answers (exec (.resume 0 0x0200000000000000#64) (merging { family0 with suspended := true }))
    (fun s => (s.mach.work 0).families.map (·.suspended) == [false]) = true
    ∧ answers (exec (.resume 0 0x0200000000000000#64) { merging { family0 with suspended := true, block := 1 } with mem := [(0xC, 1), (0xF, 0x80)] })
      (fun s => s.mem == [(0xC, 1)]) = true := by decide +kernel
/-- R323: a unit whose state in a cloakroom image meets an error runs again once the image is on the cores; after two errors it does not. -/
theorem test_image_struck : let im : Image := ⟨[{ Core.reset with ctxs := [ctx0] }], .reset, []⟩
    ((im.strike 1).1, (im.strike 1).2.struck) = (true, [1]) ∧ (({ im with struck := [1, 1] } : Image).strike 1).1 = false ∧ (im.strike 2).2 = im
    ∧ ((Mach.rerunStruck 0 [1] (mach0 ctx0)).ctx 0 0).unit.map (·.errors) = some 1 := by decide +kernel
theorem witness_fresh : let m := State.reset.mach.onPart 7 fun p => { p with saved := true }
    m.out = [] ∧ (m.part 7).saved = true ∧ (m.part 0).saved = false ∧ 7 < m.parts.length ∧ m.cores.length = 160 := by decide +kernel
theorem test_fresh : answers (exec (.partCtlFresh 0) (let s := ev ctx0; { s with mach := s.mach.onPart 0 fun p => { p with saved := true } }))
    (fun s => (s.mach.part 0).res == 1 && (s.mach.ctx 0 0).status == .free) = true := by decide +kernel
theorem witness_planes : 3 < (ev ctx0).mach.planes.length ∧ 7 < (ev ctx0).mach.parts.length := by decide
theorem test_revert : answers (exec (.fbCtlRevert 3) (let s := ev ctx0; { s with mach := s.mach.onPlane 3 fun p => { p with current := some default } }))
    (fun s => (s.mach.plane 3).revert) = true := by decide +kernel
theorem test_subq_tail : answers (exec (.subqTailWrite 2 5) (let s := ev ctx0; { s with mach := { s.mach with boot := { s.mach.boot with modules := 1, state := .running } } })) (fun s => (s.mach.work 2).subqTail == 5) = true := by decide +kernel
theorem witness_frozen : let s : State := ⟨[], { mach0 { ctx0 with frozen := true } with boot := { (mach0 ctx0).boot with modules := 1, state := .running } }⟩
    s.mach.Has 0 0 ∧ s.mach.out = [] ∧ (s.mach.ctx 0 0).frozen = true ∧ s.mach.boot.modules ≠ 0 ∧ s.mach.boot.state ≠ .recovery
    ∧ (s.mach.ctx 0 0).g.length = 64 ∧ (s.mach.ctx 0 0).latch.length = 24 ∧ ((ev ctx0).mach.ctx 0 0).frozen = false := by decide
theorem witness_debugger : let x := { ctx0 with frozen := true }
    (3 : BitVec 4).toNat < x.p.length ∧ x.trap.scratch.length = 4 ∧ x.ports.get .lnk = ⟨0, 0, none⟩ := by decide
theorem test_debugger_writes : let s : State := ⟨[], { mach0 { ctx0 with frozen := true } with boot := { (mach0 ctx0).boot with modules := 1, state := .running } }⟩
    answers (exec (.debuggerAccess 0 0 (.flag 3) (.write 2 false)) s) (fun u => (u.mach.ctx 0 0).p.getD 3 false) = true
    ∧ answers (exec (.debuggerAccess 0 0 (.trapReg 1) (.write 0x123F false)) s) (fun u => (u.mach.ctx 0 0).trap.pc == 0x1230) = true
    ∧ answers (exec (.debuggerAccess 0 0 (.latch .vuA) (.refer .v 2 true)) s) (fun u => (u.mach.ctx 0 0).latchCell .vuA == ⟨some (.ref .v 2), true⟩) = true := by
  decide +kernel
theorem test_debugger_pc : answers (exec (.debuggerAccess 0 0 .pc (.write 0x123F false))
    ⟨[], { mach0 { ctx0 with frozen := true } with boot := { (mach0 ctx0).boot with modules := 1, state := .running } }⟩)
    (fun s => (s.mach.ctx 0 0).pc == 0x1230) = true := by decide +kernel
/-- The ends of the two ranges of PART_Q: 1,023 and 255 lie outside, 262,144 and 256 inside. -/
theorem test_part_q : answers (exec (.systemRegisterWrite 0 0 0x108 (word (1023 * 2 ^ 24 + 256))) (ev { ctx0 with priv := .f }))
    (fun s => (s.mach.work 0).wpMax == 16384 && (s.mach.work 0).quantum == 256) = true
    ∧ answers (exec (.systemRegisterWrite 0 0 0x108 (word (262144 * 2 ^ 24 + 255))) (ev { ctx0 with priv := .f }))
    (fun s => (s.mach.work 0).wpMax == 262144 && (s.mach.work 0).quantum == 20000) = true := by decide +kernel

/-! ## Fabric ports -/

/-- Port 3, on since domain time 1,000, at entry 0 of a programmed table of two entries of 100 ns with guards of 20 ns, lit on all lanes. -/
def tt0 : Timetable := ⟨List.replicate 2 ⟨100, 20, List.replicate 16 1, List.replicate 16 1⟩, 0⟩
def plane0 : Plane := { State.reset.mach.plane 3 with enable := true, current := some tt0, slot := 0, slotStart := 1000, open_ := 1000, txLive := 0xFFFF,
                                                       rxLive := 0xFFFF, laserOk := 15 }
def planed (pl : Plane) (t : Nat) : State := let s := ev ctx0; { s with mach := { s.mach with fbTime := t }.onPlane 3 fun _ => pl }
/-- The entry ends at domain time 1,120. -/
theorem witness_boundary : let s := planed plane0 1120
    s.mach.out = [] ∧ 3 < s.mach.planes.length ∧ (s.mach.plane 3).enable = true ∧ s.mach.slotEnd 3 ≤ s.mach.fbTime
    ∧ (planed plane0 1119).mach.fbTime < (planed plane0 1119).mach.slotEnd 3 ∧ (s.mach.plane 3).current = some tt0 ∧ (s.mach.plane 3).pending = none
    ∧ (s.mach.plane 3).revert = false := by decide
theorem witness_boundary_default : let s := planed { plane0 with current := none } 1250
    (s.mach.plane 3).current = none ∧ s.mach.slotEnd 3 ≤ s.mach.fbTime := by decide
theorem witness_boundary_pending : let s := planed { plane0 with pending := some { tt0 with start := 1120 } } 1120
    (s.mach.plane 3).pending = some { tt0 with start := 1120 } ∧ (1120 : Nat) ≤ s.mach.fbTime ∧ s.mach.fbTime < 1121 ∧ s.mach.slotEnd 3 ≤ s.mach.fbTime := by
  decide
theorem witness_boundary_revert : let s := planed { plane0 with revert := true } 1250
    (s.mach.plane 3).current = some tt0 ∧ (s.mach.plane 3).revert = true ∧ s.mach.fbTime % 250 = 0 ∧ s.mach.slotEnd 3 ≤ s.mach.fbTime := by decide
theorem test_boundary_next : answers (exec (.timetableSlotBoundary 3 0xFFFF) (planed { plane0 with slot := 1 } 1120))
    (fun s => (s.mach.plane 3).slot == 0 && (s.mach.plane 3).open_ == 1120) = true := by decide +kernel
theorem test_boundary_pending : answers (exec (.timetableSlotBoundary 3 0xFFFF) (planed { plane0 with pending := some { tt0 with start := 1120 } } 1120))
    (fun s => (s.mach.plane 3).open_ == 1140 && s.mach.agenda.any (·.2 == .timetableSlotBoundary 3 0xFFFF)) = true := by decide +kernel

/-- Peer 1 of port 3 with one flit queued; the last SEQ before it turns over. -/
def flit0 : Flit := { (default : Flit) with src := 0, dst := 1, kind := 1, payload := [7] }
def peer0 : Peer := { Peer.new 1 with queue := [flit0], nextSeq := 65535, expected := 65535 }
def linked (q : Peer) (replay : List Flit) : State := planed { plane0 with peers := [q], replay := replay } 1000
theorem witness_send : let s := linked peer0 []
    s.mach.out = [] ∧ 3 < s.mach.planes.length ∧ s.mach.flitStart 3 1 = some 50000 ∧ 50000 < 50 * s.mach.fbTime + 50 ∧ (s.mach.peer 3 1).replaying = none
    ∧ (s.mach.peer 3 1).queue = flit0 :: [] ∧ s.mach.parked = [] ∧ (s.mach.plane 3).replay.length < 4096 ∧ (linked { peer0 with holdUntil := 1 } []).mach.flitStart 3 1 = none := by
  decide
/-- Nothing is queued and an ACK is due: an idle flit takes it along. -/
theorem witness_send_idle : let s := linked { peer0 with queue := [], ackSent := 65534 } []
    s.mach.flitStart 3 1 = some 50000 ∧ s.mach.parked = [] ∧ (s.mach.peer 3 1).replaying = none ∧ (s.mach.peer 3 1).queue = []
    ∧ (s.mach.peer 3 1).ackSent ≠ (s.mach.peer 3 1).expected := by decide
theorem test_send_idle : answers (exec (.flitSend 3 1) (linked { peer0 with queue := [], ackSent := 65534 } [])) (fun s => (s.mach.peer 3 1).nextSeq == 65535
    && (s.mach.peer 3 1).ackSent == 65535 && (s.mach.plane 3).replay.isEmpty) = true := by decide +kernel
theorem witness_send_full : 4096 ≤ ((linked peer0 (List.replicate 4096 flit0)).mach.plane 3).replay.length ∧
    (linked peer0 (List.replicate 4096 flit0)).mach.flitStart 3 1 = some 50000 := by decide +kernel
theorem witness_send_replay : let s := linked { peer0 with replaying := some 65534 } [{ flit0 with seq := 65533 }, { flit0 with seq := 65534 }]
    s.mach.flitStart 3 1 = some 50000 ∧ (s.mach.peer 3 1).replaying = some 65534
    ∧ ((s.mach.plane 3).unacked 1).find? (fun f => !seqBefore f.seq 65534) = some { flit0 with seq := 65534 } := by decide
theorem witness_fill : let s := linked { peer0 with fill := some (992, flit0) } []
    (s.mach.peer 3 1).fill = some (992, flit0) ∧ 992 + 8 ≤ s.mach.cycle ∧ s.mach.cycle < 993 + 8 := by decide
theorem test_send : answers (exec (.flitSend 3 1) (linked peer0 [])) (fun s => (s.mach.peer 3 1).nextSeq == 0
    && (s.mach.plane 3).replay.map (fun f => (f.seq, f.ack, f.kind)) == [(65535, 65535, 1)]) = true := by decide +kernel

/-- A flit of peer 1 arrives: its CRC is the good one or another, each in turn. -/
theorem witness_receive : let s := linked peer0 []
    (s.mach.plane 3).enable = true ∧ s.mach.pkg = 0 ∧ s.mach.listens 3 1 = true ∧ s.mach.listens 3 2 = false ∧ (s.mach.peer 3 1).expected = 65535 ∧ seqBefore 65534 65535 = true ∧ seqBefore 0 65535 = false
    ∧ (s.mach.peer 3 1).nakSeq = none
    ∧ (List.replicate 128 (7 : Byte)).length = 128 ∧ (∀ l : List Byte, crc32c l ≠ ~~~ crc32c l) := by
  refine ⟨by decide, by decide, by decide, by decide, by decide, by decide, by decide, by decide, rfl, fun l h => ?_⟩
  have := congrArg (fun b : BitVec 32 => b.getLsbD 0) h
  simp at this
theorem witness_receive_quiet : let s := linked { peer0 with nakSeq := some (65535, 601) } []
    (s.mach.peer 3 1).nakSeq = some (65535, 601) ∧ s.mach.fbTime < 601 + 400 := by decide
theorem witness_receive_nak : let s := linked peer0 [{ flit0 with seq := 65534 }]
    (s.mach.plane 3).unacked 1 ≠ [] ∧ (s.mach.peer 3 1).holdUntil = 0
    ∧ (∀ f ∈ (s.mach.plane 3).replay, (f.dst == 1 && seqBefore f.seq 65534) = false) := by decide
/-- The check value that CRC-32C has for the digits 1 to 9. -/
theorem test_crc : crc32c [0x31, 0x32, 0x33, 0x34, 0x35, 0x36, 0x37, 0x38, 0x39] = 0xE3069283 := by decide +kernel
theorem test_receive_other : answers (exec (.flitReceive 3 1 2 65535 0 1 1 ⟨[0], [7]⟩ 0 []) (linked peer0 [])) (fun s => s == linked peer0 []) = true := by decide
/-- R278: the port reads a flit of peer 1 from its own lanes, not from others. -/
theorem test_receive_lanes : let m := (linked peer0 []).mach
    m.lanesFrom 3 1 ≠ [] ∧ m.readsStripe 3 1 (m.lanesFrom 3 1) = true ∧ m.readsStripe 3 1 (1 :: m.lanesFrom 3 1) = false
    ∧ m.readsStripe 3 1 [] = false := by decide +kernel
/-- The lanes of the entry before count for 100 ns. -/
theorem witness_receive_moved : let s := planed { plane0 with heard := [(1, [4, 5])], slotStart := 950 } 1000
    s.mach.fbTime ≤ (s.mach.plane 3).slotStart + 100 ∧ (1, [4, 5]) ∈ (s.mach.plane 3).heard ∧ s.mach.readsStripe 3 1 [4, 5] = true
    ∧ s.mach.readsStripe 3 1 [4, 6] = false := by decide +kernel
theorem test_ack : ((linked peer0 [{ flit0 with seq := 65534 }, { flit0 with seq := 65535 }]).mach.takeAck 3 1 65535 |>.plane 3).replay.map (·.seq) = [65535] := by
  decide +kernel

/-- Light: lane 15 goes dark; all of them reach peer 1; a hold that ends now. -/
theorem witness_dark : let s := linked peer0 []
    s.mach.out = [] ∧ (s.mach.plane 3).txLive &&& ~~~ 0x8000#16 ≠ (s.mach.plane 3).txLive ∧ (s.mach.plane 3).rxLive &&& ~~~ 0x8000#16 ≠ (s.mach.plane 3).rxLive
    ∧ (s.mach.plane 3).txLive &&& ~~~ 0#16 = (s.mach.plane 3).txLive ∧ 1 ∈ s.mach.changedPeers 3 0xFFFF 0x7FFF
    ∧ (s.mach.plane 3).records = [] := by decide +kernel
theorem witness_hold_end : let s := linked { peer0 with holdUntil := 1000 } []
    { peer0 with holdUntil := 1000 } ∈ (s.mach.plane 3).peers ∧ 1000 ≤ s.mach.fbTime ∧ s.mach.fbTime < 1001 := by decide
theorem test_dark : answers (exec (.txLaneDark 3 0x8000 3) (linked peer0 [])) (fun s => (s.mach.plane 3).txLive == 0x0FFF && (s.mach.plane 3).laserOk == 7
    && (s.mach.peer 3 1).holdUntil == 1150) = true := by decide +kernel
theorem test_restored : answers (exec (.laneRestored 3 0x8001 0) (planed { plane0 with txLive := 0x7FFF } 1000)) (fun s => (s.mach.plane 3).rejoinTx == 0x8000)
    = true := by decide +kernel
/-- A host event queue of four entries: HEAD 2 is not full, HEAD 3 is. -/
def hostQ (h : Nat) : State := let s := ev ctx0
  { s with mach := { s.mach with evqSize := 2, evqBase := 0x40000000000, evqHead := h, boot := { s.mach.boot with modules := 1 } } }
theorem witness_event_record : let s := hostQ 2
    s.mach.out = [] ∧ s.mach.boot.modules ≠ 0 ∧ s.mach.evqSize ≠ 0 ∧ windowOf s.mach.evqBase = .host ∧ (s.mach.evqHead + 1) % 2 ^ 2 ≠ s.mach.evqTail % 2 ^ 2
    ∧ ((hostQ 3).mach.evqHead + 1) % 2 ^ 2 = (hostQ 3).mach.evqTail % 2 ^ 2 := by decide +kernel
theorem test_event_record : answers (exec (.eventRecordPerform [0x5]) (hostQ 2)) (fun s => s.mach.evqHead == 3 && s.mem == [(0x40000000080, 5)]) = true
    ∧ answers (exec (.eventRecordPerform [0x5]) (hostQ 3)) (fun s => s.mach.evqDropped == 1) = true := by decide +kernel

/-! ## Boot, the host, power -/

/-- A machine whose boot registers are b. -/
def booted (b : Boot) : State := let s := ev ctx0; { s with mach := { s.mach with boot := b } }
def running0 : Boot := { State.reset.mach.boot with state := .running, modules := 1 }
/-- An image of n bytes whose LENGTH is 64, of version 1. -/
def image (n : Nat) : List Byte := (([0, 0, 1, 0, 64, 0, 0, 0] : List Byte) ++ List.replicate 312 0).take n
/-- Which signatures are good, and MINVER, are the implementation's: for an image of full length CAUSE is one of 0, 1 and 3. -/
theorem witness_image : (image 255).length < 256 ∧ 256 ≤ (image 319).length ∧ (image 319).length < 256 + 64 ∧ 256 + 64 ≤ (image 320).length
    ∧ natLE (((image 320).drop 4).take 4) = 64 ∧ (64 % 64 = 0 ∧ 64 ≤ 64 ∧ 64 ≤ 2 ^ 24) ∧ ¬ (2 ^ 24 + 64 ≤ 2 ^ 24) ∧ ¬ (0 % 64 = 0 ∧ 64 ≤ 0)
    ∧ (imageCause (image 320) = 0 ∨ imageCause (image 320) = 1 ∨ imageCause (image 320) = 3) := by
  refine ⟨by decide +kernel, by decide +kernel, by decide +kernel, by decide +kernel, by decide +kernel, by decide, by decide, by decide, ?_⟩
  unfold imageCause
  rw [if_neg (by decide +kernel), if_neg (by decide +kernel), if_neg (by decide +kernel)]
  split
  · exact .inr (.inl rfl)
  · split
    · exact .inr (.inr rfl)
    · exact .inl rfl
theorem test_image_short : imageCause (image 319) = 5 ∧ imageCause [] = 5 := by decide +kernel
theorem test_image_length : imageCause (List.replicate 320 0) = 2 := by decide +kernel
/-- An empty flash: recovery with cause 5. -/
theorem witness_package_reset : State.reset.mem.wf = true ∧ imageCause State.reset.mach.boot.flash ≠ 0 ∧ (7 : Nat) < 8 := by decide +kernel
theorem test_package_reset : answers (exec (.packageReset 4 1 0 []) { booted running0 with mem := [(0x100000000, 1), (0x40000000000, 2)] })
    (fun s => s.mach.boot.state == .recovery && s.mach.boot.cause == 5 && s.mem == [(0x40000000000, 2)]) = true := by decide +kernel
theorem witness_go : (booted running0).mach.out = [] ∧ (booted running0).mem.wf = true ∧ (booted running0).mach.boot.state = .running
    ∧ (∀ p ∈ (booted running0).mach.parts, p.run = false) ∧ (booted running0).mach.haltedCore 0 = false
    ∧ (∀ c, c < 1 → ((booted running0).mach.onCore 0 fun co => { co with halted := true, haltCauses := [.order] }).haltedCore c = true)
    ∧ (booted { running0 with state := .recovery }).mach.boot.state = .recovery := by decide +kernel
/-- An image of 64 bytes at the start of host memory. -/
theorem witness_go_image : let s : State := { booted { running0 with state := .recovery, imgAddr := 0x40000000000 } with mem := [(0x40000000004, 64)] }
    let a := s.mach.boot.imgAddr.toNat
    let n := natLE ((upFrom (a + 4) 4).map s.mem.read)
    s.mem.wf = true ∧ s.mach.boot.modules ≠ 0 ∧ a % 64 = 0 ∧ n % 64 = 0 ∧ 64 ≤ n ∧ n ≤ 2 ^ 24 ∧ windowOf a = .host ∧ windowOf (a + 255 + n) = .host := by
  decide +kernel
/-- R339: the image that is checked is the host's bytes at BOOT_IMG. -/
theorem test_go_image : answers (exec .bootGo { booted { running0 with state := .recovery, imgAddr := 0x40000000000 } with mem := [(0x40000000004, 64), (0x4000000013F, 9)] })
    (fun s => s.mach.boot.loading.length == 320 && s.mach.boot.loading.getLast? == some 9) = true := by decide +kernel
theorem witness_check : let b := { running0 with state := .verifying, loading := image 319 }
    (booted b).mach.boot.state = .verifying ∧ imageCause (booted b).mach.boot.loading ≠ 0
    ∧ (imageCause (image 320) = 0 → imageCause (booted { b with loading := image 320 }).mach.boot.loading = 0) :=
  ⟨by decide, by decide +kernel, id⟩
theorem test_go_refused : answers (exec .bootGo (booted running0)) (fun s => s.mach.boot.cause == 6) = true
    ∧ answers (exec .bootGo (booted { running0 with state := .verifying })) (fun s => s.mach.boot.cause == 4) = true := by decide +kernel
theorem test_check_refuses : answers (exec (.firmwareCheckComplete []) (booted { running0 with state := .verifying, before := .recovery, loading := image 319 }))
    (fun s => s.mach.boot.state == .recovery && s.mach.boot.cause == 5) = true := by decide +kernel
theorem test_power_fail : answers (exec .powerFail (booted running0)) (fun s => s.mach.boot.state == .reset && s.mach.parts.all (!·.run)) = true := by
  decide +kernel
theorem witness_attest : let b := { running0 with attAddr := 0x40000000000 }
    (booted b).mach.boot.state = .running ∧ b.report = none ∧ windowOf 0x40000000000 = .host ∧ windowOf (0x40000000000 + 319) = .host
    ∧ windowOf (0x40000000000 + 0x48) = .host ∧ windowOf (0x40000000000 + 0x48 + 31) = .host
    ∧ { b with report := some [1] }.report = some [1] ∧ b.modules ≠ 0 ∧ { b with modules := 0 }.modules = 0 := by decide +kernel
theorem test_attest_refused : answers (exec .attest (booted { running0 with state := .recovery })) (fun s => s.mach.boot.cause == 4) = true := by decide +kernel
theorem test_attest_written : answers (exec .attestReportComplete (booted { running0 with reportAt := 0x40000000000, report := some [1, 0, 3] }))
    (fun s => s.mem == [(0x40000000000, 1), (0x40000000002, 3)] && s.mach.boot.attDone) = true := by decide +kernel
/-- The first byte of core 0's vault and the last byte of core 159's exist; the byte before does not. -/
theorem witness_host : let s := booted running0
    s.mach.out = [] ∧ s.mach.boot.modules ≠ 0 ∧ s.mach.boot.state ≠ .recovery ∧ windowOf 0x100000000 = .vault ∧ ¬ (windowOf 0xFFFFFFFF = .vault ∨ windowOf 0xFFFFFFFF = .hbm)
    ∧ 7 < s.mach.parts.length ∧ (1 : Word).getLsbD 0 = true ∧ (1 : Word).getLsbD 1 = false ∧ (2 : Word).getLsbD 0 = false ∧ (2 : Word).getLsbD 1 = true
    ∧ (∀ i, i < 2 → isBarrierKey (0x100000000 + i) = false) := by
  decide
theorem test_host_write : answers (exec (.hostMemoryAccess 0x100000000 .write [5]) (booted running0)) (fun s => s.mem == [(0x100000000, 5)]) = true := by
  decide +kernel
/-- With no module trained the host's own memory is still open to it, and a vault is not. -/
theorem test_host_own : answers (exec (.hostMemoryAccess 0x40000000000 .write [5]) (booted { running0 with modules := 0 })) (fun s => s.mem == [(0x40000000000, 5)]) = true
    ∧ answers (exec (.hostMemoryAccess 0x100000000 .write [5]) (booted { running0 with modules := 0 })) (fun s => s.mem == []) = true
    ∧ windowOf 0x40000000000 = .host ∧ (0x100000000 ∈ hostKeys 0x100000000 .write [5] ∧ windowOf 0x100000000 ≠ .host) := by decide +kernel
/-- R339: the host's cu.halt lets core 0 go on, unless it is halted for heat too. -/
theorem test_host_release : let at_ (l : List HaltCause) : State := let s := booted running0
      { s with mach := s.mach.onCore 0 fun co => { co with halted := true, jobsHalted := true, haltCauses := l } }
    answers (exec (.hostMemoryAccess 0 .release []) (at_ [.order])) (fun s => !(s.mach.core 0).halted && !(s.mach.core 0).jobsHalted) = true
    ∧ answers (exec (.hostMemoryAccess 0 .release []) (at_ [.order, .heat])) (fun s => (s.mach.core 0).halted && (s.mach.core 0).haltCauses == [.heat]) = true := by
  decide +kernel
/-- A reduction by addition on an i64 word of the vault. -/
theorem witness_host_atomic : let a : Atomic := ⟨.red, 1, 2, false, 1, 0, 0, 5, 0⟩
    a.kind = .red ∧ a.aop = 1 ∧ a.sat = false ∧ a.type = 2 ∧ (booted running0).mem.wf = true
    ∧ (∀ i, i < 8 → windowOf (0x100000000 + i) = .vault ∧ isBarrierKey (0x100000000 + i) = false) := by decide
theorem test_host_atomic : answers (exec (.hostMemoryAccess 0x100000000 (.atomic ⟨.red, 1, 2, false, 1, 0, 0, 5, 0⟩) [])
    { booted running0 with mem := [(0x100000000, 2)] }) (fun s => s.mem == [(0x100000000, 7)]) = true := by decide +kernel
theorem test_host_fault : (match exec (.hostMemoryAccess 0xFFFFFFFF .read [0, 0]) (booted running0) with | .fault (.noSuchMemory k) => k | _ => 0) = 0xFFFFFFFF := by
  decide +kernel
theorem test_host_register : answers (exec (.hostRegisterWrite 0x20B 0x12340000#64) (booted running0)) (fun s => s.mach.evqTail == 0x234) = true := by decide +kernel
theorem test_module_failure : answers (exec (.ucieModuleFailure 2) (booted running0)) (fun s => s.mach.boot.modules == 0) = true := by decide +kernel
theorem witness_thermal : let s := booted { running0 with tHalt := true, powerHalted := [0] }
    s.mach.out = [] ∧ s.mach.boot.state = .running ∧ (90 : Nat) ≤ 94 ∧ (95 : Nat) ≤ 95 ∧ (89 : Nat) < 90 ∧ (105 : Nat) ≤ 105 ∧ (104 : Nat) < 105
    ∧ running0.tHalt = false ∧ s.mach.boot.tHalt = true ∧ (0 ∈ s.mach.boot.powerHalted ∧ 0 < s.mach.cores.length)
    ∧ s.mach.cycle < { running0 with throtNext := 1001 }.throtNext ∧ running0.throtNext ≤ s.mach.cycle
    ∧ ((s.mach.onPart 7 fun p => { p with en := true }).part 7).en = true := by decide +kernel
theorem test_throttle : answers (exec (.throttleStep 95) (booted { running0 with throt := 12 })) (fun s => s.mach.boot.throt == 12) = true
    ∧ answers (exec (.throttleStep 94) (booted { running0 with throt := 3 })) (fun s => s.mach.boot.throt == 3) = true
    ∧ answers (exec (.throttleStep 89) (booted { running0 with throt := 0 })) (fun s => s.mach.boot.throt == 0) = true := by decide +kernel
theorem test_thermal : answers (exec (.thermalHalt 105) (booted running0)) (fun s => (s.mach.core 0).halted && s.mach.boot.tHalt) = true
    ∧ answers (exec (.thermalRelease 89)
      (let s := booted { running0 with tHalt := true, powerHalted := [0] }; { s with mach := s.mach.onCore 0 fun co => { co with halted := true, haltCauses := [.heat] } })) (fun s => !(s.mach.core 0).halted && !s.mach.boot.tHalt) = true := by
  decide +kernel
/-- THROT 12: cycles 0 to 3 of every 16. -/
theorem witness_throttled : let m := { (booted { running0 with throt := 12 }).mach with cycle := 19 }
    m.mayIssue = true ∧ { m with cycle := 20 }.mayIssue = false := by decide

/-! ## Moves, headers, encoding, the step -/

/-- A slot of context x before anything is read. -/
def plain (x : Ctx) : State := ⟨[], mach0 x⟩
/-- Context 0 with the windows, descriptors and special state of a unit: 20 v registers, 2 mask, 2 channel, 2 factor vectors, 8 rows of acc. -/
def wide0 : Ctx := { ctx0 with v := List.replicate 20 (List.replicate 256 0), vm := [0, 0], cb := [none, none], fv := [.zero, .zero],
                               acc := List.replicate 8 (List.replicate 256 0) }
/-- A move that reads g 63, one that reads zero with its value already read, one whose guard fails (R150). -/
theorem witness_move : let s := plain wide0
    s.mach.Placed ∧ operand s.mach none (readSrc s.mem · (.g 63) false) = .ok (some (.word 0, s.mach)) ∧ 15 < s.mach.me.p.length ∧ 19 < s.mach.me.v.length
    ∧ s.mach.me.v.length ≤ 20 ∧ s.mach.me.outstanding (.ref .v 19) = false ∧ s.mach.me.latch.length = 24 ∧ s.mach.me.g.length = 64
    ∧ operand s.mach none (readSrc s.mem · (.v 19) false) = .ok (some (.ref .v 19, s.mach)) ∧ s.mach.me.tl.length = 32
    ∧ (plain { wide0 with landing := [⟨5, .v 19 []⟩] }).mach.me.outstanding (.ref .v 19) = true
    ∧ operand s.mach none (fun m => .ok (.word (immValue m.issue.ext 0x1FF), m)) = .ok (some (.word (-1), s.mach))
    ∧ s.mach.issue.ready = none ∧ s.mach.me.guardHolds (some ⟨0, false⟩) = false := by
  refine ⟨by decide, rfl, by decide +kernel, by decide +kernel, by decide +kernel, by decide +kernel, by decide +kernel, by decide +kernel, rfl, by decide +kernel, by decide +kernel, rfl, rfl, by decide⟩
/-- A geometry word of 8 rows from row 0 and 256 columns is good for 8 rows of acc; one of 9 rows, of 0 rows, of CCNT 7 or of column 4 and 256 columns is not. -/
theorem witness_geometry : let w (ccnt col rows : Nat) := ccnt * 2 ^ 25 + col * 2 ^ 19 + rows * 2 ^ 9
    let bad (n : Nat) : Prop := n / 2 ^ 25 % 8 = 7 ∨ n / 2 ^ 9 % 1024 = 0 ∨ 8 < n % 512 + n / 2 ^ 9 % 1024 ∨ 256 < 4 * (n / 2 ^ 19 % 64) + 4 * 2 ^ (n / 2 ^ 25 % 8)
    wide0.acc.length = 8 ∧ ¬ bad (w 6 0 8) ∧ bad (w 6 0 9) ∧ bad (w 6 0 0) ∧ bad (w 7 0 8) ∧ bad (w 6 1 8)
    ∧ ((plain wide0).mach.me.tl.getD 31 .unset).isSet = false := by decide +kernel
theorem test_geometry : answers (exec (.move none (.g 1) (.tl 2) false) (at_ wide0 (.word (word (6 * 2 ^ 25 + 8 * 2 ^ 9)))))
    (fun s => (s.mach.me.tl.getD 2 .unset).rows == 8) = true
    ∧ trapOf (exec (.move none (.g 1) (.tl 2) false) (at_ wide0 (.word (word (6 * 2 ^ 25 + 9 * 2 ^ 9))))) = some (.illMove, 0) := by decide +kernel
theorem test_move_slices : answers (exec (.move none (.g 1) (.g 2 0b0101) false) (at_ wide0 (.word 7)))
    (fun s => s.mach.me.g.getD 2 ⟨0, 0, 0, 0⟩ == ⟨0, 7, 0, 7⟩) = true := by decide +kernel
theorem test_move_all_slices : answers (exec (.shortImmediate none 5 (.g 63 0) false) (at_ wide0 (.word 5)))
    (fun s => s.mach.me.g.getD 63 ⟨0, 0, 0, 0⟩ == ⟨5, 5, 5, 5⟩) = true := by decide +kernel
theorem test_move_v_beyond : trapOf (exec (.move none .zero (.v 20) false) (at_ wide0 (.word 0))) = some (.illMove, 0) := by decide +kernel
theorem witness_empty_slot : (plain ctx0).mach.issue.ready = none ∧ (plain ctx0).mach.Placed ∧ (plain ctx0).mach.me.g.length = 64 ∧ (plain ctx0).mach.out = [] := by
  decide
theorem witness_failing_guard : (Instr.cuAdd ⟨some ⟨3, false⟩, .src (.g 1), false⟩).trigger = some (0x102, ⟨some ⟨3, false⟩, .src (.g 1), false⟩)
    ∧ (plain ctx0).mach.issue.ready = none ∧ (plain ctx0).mach.me.guardHolds (some ⟨3, false⟩) = false := ⟨rfl, rfl, by decide⟩
theorem witness_empty_latch : (at_ ctx0 (.word 1)).Moves op0 (.word 1) (at_ ctx0 (.word 1)).mach ∧ (at_ ctx0 (.word 1)).mach.CuReady
    ∧ ((at_ ctx0 (.word 1)).mach.me.latchCell .cuA).val = none ∧ ((at_ ctx0 (.word 1)).mach.me.latchCell .axA).val = none
    ∧ (at_ ctx0 (.ref .v 1)).Moves op0 (.ref .v 1) (at_ ctx0 (.ref .v 1)).mach := ⟨rfl, by decide, by decide, by decide, rfl⟩
/-- cu.b is empty beside cu.a; and a privileged trigger at S whose cu.a is empty. -/
theorem witness_empty_latch_b : let s := at_ (put .cuA (.word 3) ctx0) (.word 1)
    s.Moves op0 (.word 1) s.mach ∧ s.mach.CuReady ∧ s.mach.Holds .cuA (.word 3) ∧ (s.mach.me.latchCell .cuB).val = none
    ∧ (at_ ctx0 (.word 1)).mach.me.priv ≠ .task ∧ (at_ ctx0 (.word 1)).mach.me.divUntil ≤ (at_ ctx0 (.word 1)).mach.cycle :=
  ⟨rfl, by decide, rfl, by decide, by decide, by decide⟩
theorem test_empty_latch_b : trapOf (exec (.cuSel op0) (at_ (put .cuA (.word 3) ctx0) (.word 1))) = some (.latchEmpty, 0x122)
    ∧ trapOf (exec (.cuHalt op0) (at_ ctx0 (.word 1))) = some (.latchEmpty, 0x13C) := by decide
/-- A context with no latch valid, and control words that the triggers take. -/
theorem witness_empty_latches : let s := at_ ctx0 (.word 2)
    s.Moves op0 (.word 2) s.mach ∧ (∀ q, (s.mach.me.latchCell q).val = none) ∧ (2 : Word).toNat < 3 ∧ (3 : Word).toNat = 3 ∧ (6 : Word).toNat % 8 ≠ 5 :=
  ⟨rfl, by intro q; cases q <;> rfl, by decide, by decide, by decide⟩
theorem test_empty_latches : trapOf (exec (.vuFadd op0) (at_ ctx0 (.word 2))) = some (.latchEmpty, 0x14C)
    ∧ trapOf (exec (.mxMmaBf op0) (at_ ctx0 (.word 2))) = some (.latchEmpty, 0x192) ∧ trapOf (exec (.tfTadd op0) (at_ ctx0 (.word 2))) = some (.latchEmpty, 0x19E)
    ∧ trapOf (exec (.luStd op0) (at_ ctx0 (.word 2))) = some (.latchEmpty, 0x1CD) ∧ trapOf (exec (.syViews op0) (at_ ctx0 (.word 2))) = some (.latchEmpty, 0x1F7) := by
  decide +kernel
theorem witness_scalar_frame : let s := at_ (put .cuA (.word 3) ctx0) (.word 4)
    s.mach.issue.ready = some (.word 4) ∧ s.mach.out = [] ∧ answers (exec (.cuAdd op0) s) (fun u => u.mach.issue.out == .done) = true := by decide +kernel

/-- A waypoint record of the bundle at 0x1000, XJOB clear, at offset 0x6000 of core 0's vault; WPTAB of one record. -/
def record0 : List Word := [0x1000, 0, 0, 0, 0, 0, 0, 0]
def atWaypoint (x : Ctx) : State := { plain x with
    mem := [(0x100006001, 0x10)]
    mach := (plain x).mach.onPart 0 fun p => { p with work := { p.work with wptab := 0x0001000100006000#64 } } }
theorem witness_header : let s := atWaypoint { ctx0 with quantum := 100, runStart := 900, preempt := true }
    s.mach.out = [] ∧ s.mach.Placed ∧ s.mach.issue.ended = false ∧ s.mach.issue.keepLoop = false ∧ s.mach.me.hold = none
    ∧ s.mach.me.cancelled = false ∧ s.mach.me.status = .running ∧ s.mach.issue.next = none ∧ s.mach.me.trap.active = false ∧ s.mach.me.stub = none
    ∧ s.mach.me.preempt = true ∧ s.mach.me.frozen = false ∧ s.mach.me.quantum ≤ s.mach.cycle - s.mach.me.runStart
    ∧ s.mach.cycle - s.mach.me.runStart < 101 ∧ (∀ q ∈ (s.mach.core 0).mx, q.ctx ≠ 0) ∧ (∀ q ∈ (s.mach.core 0).tf, q.ctx ≠ 0)
    ∧ recordXjob record0 = false ∧ (∀ j ∈ (s.mach.core 0).jobs, (s.mach.core 0).ownsJob 0 j = false) := by decide
/-- The record is found on every machine with these partitions. -/
theorem witness_header_record (m : Mach) (hp : m.parts = (atWaypoint ctx0).mach.parts) (ho : m.out = []) :
    waypointRecord (atWaypoint ctx0).mem m 0 0x1000 = some record0 := by
  have hw : m.work 0 = (atWaypoint ctx0).mach.work 0 := by simp only [Mach.work, Mach.part, hp]
  have hk : ∀ a n, peekNat (atWaypoint ctx0).mem m a n = peekNat (atWaypoint ctx0).mem (plain ctx0).mach a n := by
    intro a n
    simp only [peekNat, peekAll, ho]
    rfl
  have hd : ∀ n, deviceWords (atWaypoint ctx0).mem m 0 0x100006000 n = deviceWords (atWaypoint ctx0).mem (plain ctx0).mach 0 0x100006000 n := by
    intro n
    have e : ∀ m : Mach, deviceKey (atWaypoint ctx0).mem m 0 0x100006000 = some 0x100006000 := fun m => rfl
    simp only [deviceWords, e, hk]
  have h1 : bits ((atWaypoint ctx0).mach.work 0).wptab 47 6 * 64 = 0x100006000 := by decide +kernel
  have h2 : bits ((atWaypoint ctx0).mach.work 0).wptab 63 48 = 1 := by decide +kernel
  simp only [waypointRecord, hw, h1, h2, findRecord, hd]
  decide +kernel
/-- A waiting drain in the bundle of the header. -/
theorem witness_header_drain : let s := plain { ctx0 with pend := [entry0], hold := some (.drain 1) }
    s.mach.out = [] ∧ s.mach.Placed ∧ s.mach.issue.ended = false ∧ s.mach.issue.keepLoop = false ∧ s.mach.me.hold = some (.drain 1)
    ∧ s.mach.drainDone s.mach.issue.core s.mach.issue.ctx 1 = false ∧ s.mach.me.cancelled = false ∧ s.mach.me.status = .running := by decide +kernel
/-- R117: it blocks, be the bundle a yield bundle or not, and blocks again at the next bundle until no store is pending. -/
theorem test_header_drain : answers (exec (.header true true false 0 0 0) (plain { ctx0 with pend := [entry0], hold := some (.drain 1) }))
    (fun s => s.mach.me.status == .blocked (.drain 1) && s.mach.me.hold == some (.drain 1) && s.mach.me.pc == 0x1010) = true := by decide +kernel
theorem witness_header_stub : ({ ctx0 with stub := some ⟨0x3000, ctx0.loop⟩ } : Ctx).stub = some ⟨0x3000, ctx0.loop⟩ := rfl
theorem test_header_yield : answers (exec (.header true false false 0 0 0) (plain { ctx0 with wpCount := 5 }))
    (fun s => s.mach.me.status == .ready && s.mach.me.pc == 0x1010 && s.mach.me.wpCount == 0) = true := by decide +kernel
theorem test_header_waypoint : answers (exec (.header false false true 0 0 0) (atWaypoint { ctx0 with preempt := true, quantum := 20000 }))
    (fun s => s.mach.me.status == .saving && s.mach.me.record == record0) = true := by decide +kernel
theorem test_literal : answers (exec (.literal 0x3FFFFFFF) { plain ctx0 with mach := { (plain ctx0).mach with issue := { Issue.idle with ext := some 2 } } })
    (fun s => s.mach.issue.lit == some 0xFFFFFFFFFFFFFF00) = true := by decide +kernel

/-! ## Encoding and the step -/

theorem witness_encode : (Instr.cuHalt ⟨none, .src (.g 3), false⟩).wf = true ∧ encode (.cuHalt ⟨none, .src (.g 3), false⟩) = some 0x0001CF00#32
    ∧ decodeSlot 0x0001CF00#32 = .ok (.cuHalt ⟨none, .src (.g 3), false⟩) := ⟨by decide, by decide +kernel, rfl⟩
/-- A header in slot 1, a literal that nothing uses, two triggers of cu; a trigger of cu 0x102 on bus 0 is legal, on bus 1 it is not. -/
theorem test_illegal_bundles : (encodingTrap ctx0 [0x00FFFFC0, 0xC0000000, 0x00FFFFC0, 0x00FFFFC0]).map (·.cause) = some .illBundle
    ∧ (encodingTrap ctx0 [0x00FFFFC0, 0x80000001, 0x00FFFFC0, 0x00FFFFC0]).map (·.cause) = some .illBundle
    ∧ (encodingTrap ctx0 [0x40004080, 0x40004080, 0x00FFFFC0, 0x00FFFFC0]).map (·.cause) = some .illBundle
    ∧ (encodingTrap ctx0 [0x00FFFFC0, 0x40005040, 0x00FFFFC0, 0x00FFFFC0]).map (·.cause) = some .illMove
    ∧ encodingTrap ctx0 [0x40004080, 0x00FFFFC0, 0x00FFFFC0, 0x00FFFFC0] = none := by decide +kernel
/-- cu.mul on bus 1 is an ILLMOVE of the encoding; lu.amo of a control word that R223 does not allow, in slot 3, raises ILLBUNDLE by its value. -/
def mixed : List Cell := [0x00FFFFC0, 0x40005040, 0x00FFFFC0, (encode (.luAmo ⟨none, .imm 0x17, false⟩)).getD 0]
theorem witness_value_ill_bundle : (encodingTrap ctxV mixed).map (·.cause) = some .illMove ∧ headerBit mixed 28 = false
    ∧ (valueIllBundle exec (sLu 0) 0 0 mixed).map (·.cause) = some .illBundle := by decide +kernel
/-- An ILLMOVE of the encoding beside an lu.amo of cu.res, whose value is still to come: the control word is not judged, and the bundle
waits; beside a plain move of cu.res, in which no value can be illegal, it does not. -/
theorem witness_encoding_wait : let s := ev { ctx0 with ports := { ctx0.ports with cu := ⟨0, 0, some 3⟩ } }
    let ws (amo : Cell) : List Cell := [0b00_000000_100000000_000001001_0001_0_0, 0x40005040, 0x00FFFFC0, amo]
    let amo := (encode (.luAmo ⟨none, .src .cuRes, false⟩)).getD 0
    (encodingTrap ctx0 (ws amo)).map (·.cause) = some .illMove ∧ headerBit (ws amo) 28 = false ∧ encodingWait s 0 0 (ws amo) = some .stall
    ∧ encodingWait s 0 0 (ws 0x00FFFFC0) = none ∧ encodingWait (sLu 0) 0 0 mixed = none := by decide +kernel
/-- A context whose loop buffer holds its next bundle: g 1 -> g 2 in slot 0. -/
def looping : State := plain { ctx0 with pc := 0x1010, loop := ⟨true, 0x1000, 1, 2, 0, [[0x00008080, 0x00FFFFC0, 0x00FFFFC0, 0x00FFFFC0]]⟩ }
theorem witness_step : let s := looping
    s.mach.heldFor 0 0 = none ∧ (s.mach.holdBack 0 0).ctx 0 0 = s.mach.ctx 0 0 ∧
    s.mach.agenda = [] ∧ s.mach.mayIssue = true ∧ s.mach.nextIssuer s.mach.turn (s.mach.cores.drop s.mach.turn) = some (0, 0, none)
    ∧ (s.mach.ctx 0 0).pastWpMax = false ∧ (s.mach.ctx 0 0).heldBack = false
    ∧ okWith (nextBundle s.mem s.mach 0 0) (fun ws => (encodingTrap (s.mach.ctx 0 0) ws).isNone && !headerBit ws 28 && ws.length == 4) = true
    ∧ (plain { ctx0 with status := .ready, issueAt := 2000 }).mach.mayIssue = true := by decide +kernel
theorem witness_step_idle : let s := plain { ctx0 with issueAt := 2000 }
    s.mach.mayIssue = true ∧ s.mach.nextIssuer s.mach.turn (s.mach.cores.drop s.mach.turn) = none := by decide
theorem witness_step_event : let s : State := { looping with mach := { looping.mach with agenda := [(1000, .promiseReached 0 0)] } }
    s.mach.agenda = (1000, .promiseReached 0 0) :: [] ∧ 1000 ≤ s.mach.cycle := by decide
theorem witness_step_slot : let sl : Slot := ⟨0, .cuClz ⟨none, .imm 7, false⟩, none, none⟩
    (looping.mach.ctx 0 0).guardHolds none = true ∧ okWith (readSlot looping.mem looping.mach 0 0 sl) (fun r => r.1 == .word 7) = true := by decide
theorem witness_fetch : let s := State.reset.withFetchWord 32 0x00FFFFC0
    (0x1000 : Nat) < 0x100000000 ∧ lookupPage s.mach 0 (partOf 0) 0x1000 = .hit placedPage ∧ pageDenies placedPage.pte .s false true = none := by
  decide +kernel
theorem test_step_moves : answers (step looping) (fun s => (s.mach.ctx 0 0).pc == 0x1010 && (s.mach.ctx 0 0).issueAt == 1001) = true := by decide +kernel
theorem test_first_instruction : answers (step (State.reset.withFetchWord 32 0x40028080)) (fun s => (s.mach.ctx 0 0).g.getD 2 ⟨0, 0, 0, 0⟩ == ⟨5, 5, 5, 5⟩) = true := by
  decide +kernel
theorem witness_invariant : State.reset.Inv ∧ looping.Inv := ⟨⟨rfl, rfl⟩, by decide⟩

end Sys2Proof.Tests
end

section
/-!
SUPPORT. Bit fields as masks: a field put back at its place is the value masked (spec/00_scope.md R2, R5, R9).
-/

namespace Sys2Proof.Machine

/-- The mask of bits hi:lo. -/
def fieldMask (hi lo : Nat) : Word := word ((2 ^ (hi + 1 - lo) - 1) * 2 ^ lo)

/-- A field put back at its place is the value with every other bit cleared. -/
theorem word_bits (v : Word) (hi lo : Nat) : word (bits v hi lo * 2 ^ lo) = v &&& fieldMask hi lo := by
  refine BitVec.eq_of_getLsbD_eq fun i hi64 => ?_
  simp only [word, bits, field, fieldMask, BitVec.getLsbD_and, BitVec.getLsbD_ofNat, Nat.testBit_mul_two_pow,
    Nat.testBit_mod_two_pow, Nat.testBit_div_two_pow, Nat.testBit_two_pow_sub_one, BitVec.testBit_toNat]
  by_cases hlo : lo ≤ i
  · simp [hlo, hi64, Bool.and_comm]
  · simp [hlo]

/-- Two fields that do not overlap, put back at their places. -/
theorem word_bits_add (v : Word) (hi lo hi' lo' : Nat) (h : fieldMask hi lo &&& fieldMask hi' lo' = 0) :
    word (bits v hi lo * 2 ^ lo + bits v hi' lo' * 2 ^ lo') = v &&& (fieldMask hi lo ||| fieldMask hi' lo') := by
  have hd : (v &&& fieldMask hi lo) &&& (v &&& fieldMask hi' lo') = 0#64 := by
    rw [show (v &&& fieldMask hi lo) &&& (v &&& fieldMask hi' lo') = (v &&& v) &&& (fieldMask hi lo &&& fieldMask hi' lo') by
      ac_rfl, h]
    exact BitVec.and_zero
  calc word (bits v hi lo * 2 ^ lo + bits v hi' lo' * 2 ^ lo')
      = word (bits v hi lo * 2 ^ lo) + word (bits v hi' lo' * 2 ^ lo') := BitVec.ofNat_add _ _
    _ = (v &&& fieldMask hi lo) ||| (v &&& fieldMask hi' lo') := by
      rw [word_bits, word_bits, BitVec.add_eq_or_of_and_eq_zero _ _ hd]
    _ = v &&& (fieldMask hi lo ||| fieldMask hi' lo') := BitVec.and_or_distrib_left.symm

/-- A field of one bit, read as a boolean and back as a number. -/
theorem b2n_bits (v : Word) (i : Nat) : b2n (bits v i i == 1) = bits v i i := by
  have : bits v i i < 2 := by
    have h := Nat.mod_lt (v.toNat / 2 ^ i) (show 0 < 2 ^ 1 by decide)
    simpa [bits, field] using h
  rcases (by omega : bits v i i = 0 ∨ bits v i i = 1) with h | h <;> rw [h] <;> rfl

end Sys2Proof.Machine
end

section
/-!
SUPPORT. System registers (spec/08_ops_control.md R173, R175; spec/18_translation_faults.md R309, R313, R314, R318): what cu.sys.rd,
cu.sys.wr, cu.csw and SYSTEM_REGISTER_WRITE do, and what a partition's register reads as after a write of it.
-/

namespace Sys2Proof.Machine

/-! ## What taking latches leaves -/

/-- Taking a latch leaves the slot at issue. -/
@[simp] theorem takeIf_issue (l : Latch) (m : Mach) : (takeIf l m).2.issue = m.issue := by
  simp only [takeIf]
  split
  · rfl
  · simp only
    split <;> rfl

/-- Taking latches leaves the slot at issue. -/
@[simp] theorem taken_issue (m : Mach) (ls : List Latch) : (m.taken ls).issue = m.issue := by
  induction ls generalizing m with
  | nil => rfl
  | cons l ls ih => exact (ih (takeIf l m).2).trans (takeIf_issue l m)

/-- Taking latches leaves the privilege of the context at issue. -/
@[simp] theorem taken_priv (m : Mach) (ls : List Latch) : (m.taken ls).me.priv = m.me.priv := by
  induction ls generalizing m with
  | nil => rfl
  | cons l ls ih => exact (ih (takeIf l m).2).trans (takeIf_same l m (·.priv) fun _ => rfl)

/-! ## The triggers -/

/-- Every privilege but that of a task is at least S. -/
theorem rank_s_le {p : Priv} (h : p ≠ .task) : Priv.s.rank ≤ p.rank := by
  cases p with
  | task => exact absurd rfl h
  | s => exact Nat.le_refl _
  | f => decide

section
variable {o : TOp} {s : State} {m : Mach} {t a : Word}

/-- cu.sys.rd with the privilege that the register needs. -/
theorem exec_cuSysRd_allowed (h : s.Moves o (.word t) m) (hc : m.CuReady) (hp : m.me.priv ≠ .task)
    (hl : ¬ m.me.priv.rank < (regLevel m.myPart t.toNat false).rank) :
    exec (.cuSysRd o) s = .next (s.did (((m.afterRead t.toNat).result .cu (m.readReg m.issue.core m.issue.ctx t.toNat) 4).onMe
      fun x => { x with cuUntil := m.cycle + 4 })) := by
  show execCuSysRd o s = _
  rw [execCuSysRd, privTrigger_moves _ h hc (rank_s_le hp), if_neg hl, endSlot_ok]

/-- cu.sys.rd below the privilege that the register needs (R175). -/
theorem exec_cuSysRd_below (h : s.Moves o (.word t) m) (hc : m.CuReady) (hp : m.me.priv ≠ .task)
    (hl : m.me.priv.rank < (regLevel m.myPart t.toNat false).rank) :
    exec (.cuSysRd o) s = .next (s.raised (trap5 .prot 1 0)) := by
  show execCuSysRd o s = _
  rw [execCuSysRd, privTrigger_moves _ h hc (rank_s_le hp), if_pos hl, prot, endSlot_raise]

/-- cu.sys.wr takes latch a, then checks the privilege and writes. -/
theorem exec_cuSysWr_holds (h : s.Moves o (.word t) m) (hc : m.CuReady) (hp : m.me.priv ≠ .task) (ha : m.Holds .cuA (.word a)) :
    exec (.cuSysWr o) s = endSlot s (if m.me.priv.rank < (regLevel m.myPart t.toNat true).rank then prot 1 0
      else .ok ((m.taken [.cuA]).writeReg s.mem m.issue.core m.issue.ctx t.toNat a)) := by
  show execCuSysWr o s = _
  rw [execCuSysWr, privTrigger_moves _ h hc (rank_s_le hp)]
  simp only [with1_holds _ _ ha (show Val.isWord (.word a) = true from rfl), Mach.myPart, taken_issue, taken_priv]
  rfl

end

/-- cu.csw writes CSW by the access codes of R58. -/
theorem exec_cuCsw_moves {o : TOp} {s : State} {m : Mach} {t : Word} (h : s.Moves o (.word t) m) (hc : m.CuReady) :
    exec (.cuCsw o) s = .next (s.did (m.onMe fun x => { x with csw := writeCsw x.csw t })) := by
  show execCuCsw o s = _
  rw [execCuCsw, triggerW_moves _ h, cuFree_ready hc]
  rfl

/-- Bit i of CSW after a write: set from bit 32 on, cleared by a 1 among bits 7:2, else 0. -/
theorem getLsbD_writeCsw (old w : Word) (i : Nat) (hi : i < 64) : (writeCsw old w).getLsbD i =
    if 32 ≤ i then w.getLsbD i else if 2 ≤ i ∧ i < 8 then old.getLsbD i && !w.getLsbD i else false := by
  have hset : (0xFFFFFFFF00000000 : Word).getLsbD i = decide (32 ≤ i) :=
    (by decide : ∀ i < 64, (0xFFFFFFFF00000000 : Word).getLsbD i = decide (32 ≤ i)) i hi
  have hclear : (0xFC : Word).getLsbD i = decide (2 ≤ i ∧ i < 8) :=
    (by decide : ∀ i < 64, (0xFC : Word).getLsbD i = decide (2 ≤ i ∧ i < 8)) i hi
  simp only [writeCsw, BitVec.getLsbD_or, BitVec.getLsbD_and, BitVec.getLsbD_not, hset, hclear]
  by_cases h32 : 32 ≤ i
  · have : ¬ (2 ≤ i ∧ i < 8) := by omega
    simp [h32, this]
  · by_cases h8 : 2 ≤ i ∧ i < 8 <;> simp [h32, h8, hi]

/-! ## The registers of a context -/

/-- A register of the issuing context is read in its trap registers. -/
theorem readReg_context (m : Mach) (c k : Nat) {n : Nat} (h : n < 8) : m.readReg c k n = (m.ctx c k).trap.read n := if_pos h

/-- A register of the issuing context is written in its trap registers. -/
theorem writeReg_context (mem : Memory) (m : Mach) (c k : Nat) {n : Nat} (v : Word) (h : n < 8) :
    m.writeReg mem c k n v = m.onCtx c k fun x => { x with trap := x.trap.write n v } := if_pos h

/-- A scratch register reads as its word. -/
theorem TrapRegs.read_scratch (r : TrapRegs) {j : Nat} (h : j < 4) : r.read (4 + j) = r.scratch.getD j 0 := by
  obtain rfl | rfl | rfl | rfl : j = 0 ∨ j = 1 ∨ j = 2 ∨ j = 3 := by omega
  all_goals rfl

/-- A write of a scratch register replaces its word. -/
theorem TrapRegs.write_scratch (r : TrapRegs) {i : Nat} (v : Word) (h : i < 4) :
    r.write (4 + i) v = { r with scratch := modifyAt (fun _ => v) i r.scratch } := by
  obtain rfl | rfl | rfl | rfl : i = 0 ∨ i = 1 ∨ i = 2 ∨ i = 3 := by omega
  all_goals rfl

/-- The scratch registers after a write of one. -/
theorem TrapRegs.read_write_scratch (r : TrapRegs) {i j : Nat} (v : Word) (hi : i < 4) (hj : j < 4) (hl : r.scratch.length = 4) :
    (r.write (4 + i) v).read (4 + j) = if j = i then v else r.read (4 + j) := by
  rw [read_scratch _ hj, read_scratch _ hj, write_scratch _ v hi]
  split
  · next h => rw [h, getD_modifyAt_same _ _ _ _ (hl ▸ hi)]
  · next h => exact getD_modifyAt_other _ _ _ _ _ h

/-! ## The unassigned registers -/

/-- From 0x500 on a register reads as 0. -/
theorem readReg_unassigned (m : Mach) (c k : Nat) {n : Nat} (h : 0x500 ≤ n) : m.readReg c k n = 0 := by
  simp (disch := omega) only [Mach.readReg, if_neg]
  unfold Boot.readReg
  split
  case h_5 => rfl
  all_goals omega

/-- From 0x500 on a write is ignored. -/
theorem writeReg_unassigned (mem : Memory) (m : Mach) (c k : Nat) {n : Nat} (v : Word) (h : 0x500 ≤ n) :
    m.writeReg mem c k n v = m := by
  simp (disch := omega) only [Mach.writeReg, if_neg]
  unfold Mach.writeBoot
  split
  case h_5 => rfl
  all_goals omega

/-! ## The registers of a partition -/

/-- The numbers of the registers that stand in a partition, by blocks of eight, but for RESUME and PART_CTL, whose writes do more. -/
def IsPartReg (n : Nat) : Prop :=
  (0x010 ≤ n ∧ n < 0x038) ∨ (0x108 ≤ n ∧ n < 0x138) ∨ (0x140 ≤ n ∧ n < 0x200) ∨ (0x300 ≤ n ∧ n < 0x318)

/-- A register of a partition is read there. -/
theorem readReg_isPartReg (m : Mach) (c k : Nat) {n : Nat} (h : IsPartReg n) :
    m.readReg c k n = (m.part (n % 8)).readReg (n / 8) := by
  unfold IsPartReg at h
  simp (disch := omega) only [Mach.readReg, if_neg, if_pos]

/-- A register of a partition is written there. -/
theorem writeReg_isPartReg (mem : Memory) (m : Mach) (c k : Nat) {n : Nat} (v : Word) (h : IsPartReg n) :
    m.writeReg mem c k n v = m.onPart (n % 8) fun p => p.writeReg (n / 8) v ((m.ctx c k).priv == .f) := by
  unfold IsPartReg at h
  simp (disch := omega) only [Mach.writeReg, if_neg, if_pos]

/-- The first numbers of registers of partitions that read back as written, and the bits that their access codes let a write set:
TR_VEC, DBG_CTL, FLTQ_BASE, FLT_NOTE, WPTAB, SUBQ_BASE and PT_CODE. -/
def maskedRegs : List (Nat × Word) :=
  [(0x010, 0xFFFFFFFFFFFF), (0x018, 3), (0x020, 0xFFFFFFFFFFC0), (0x030, 0xFF0F87), (0x118, 0xFFFFFFFFFFFFFFC0),
    (0x120, 0xFFFFFFFFFE00), (0x300, 0x8000FFFFFFFFF000)]

/-- A masked register of any partition is one of a partition: its block of eight and its place in it. -/
theorem maskedRegs_place {e : Nat × Word} (he : e ∈ maskedRegs) {h : Nat} (hh : h < 8) :
    IsPartReg (e.1 + h) ∧ (e.1 + h) % 8 = h ∧ (e.1 + h) / 8 = e.1 / 8 := by
  have hb : e.1 % 8 = 0 ∧ ((0x010 ≤ e.1 ∧ e.1 ≤ 0x030) ∨ (0x108 ≤ e.1 ∧ e.1 ≤ 0x130) ∨ e.1 = 0x300) :=
    (by decide : ∀ e ∈ maskedRegs, e.1 % 8 = 0 ∧ ((0x010 ≤ e.1 ∧ e.1 ≤ 0x030) ∨ (0x108 ≤ e.1 ∧ e.1 ≤ 0x130) ∨ e.1 = 0x300)) e he
  unfold IsPartReg
  omega

/-- A page-table root register reads back its bits 63 and 47:12 (R309). -/
theorem Part.ptWord_writePt (p : Part) (v : Word) {i : Nat} (he : i < p.ptEn.length) (hb : i < p.ptBase.length) :
    (p.writePt i v).ptWord i = v &&& 0x8000FFFFFFFFF000 := by
  simp only [ptWord, writePt, getD_modifyAt_same _ _ _ _ he, getD_modifyAt_same _ _ _ _ hb, b2n_bits]
  exact word_bits_add v 63 63 47 12 (by decide)

/-- A masked register of a partition reads back the bits that its access codes let a write set. -/
theorem Part.readReg_writeReg_masked (p : Part) (v : Word) (firmware : Bool) {e : Nat × Word} (he : e ∈ maskedRegs)
    (hp : e.1 = 0x300 → 0 < p.ptEn.length ∧ 0 < p.ptBase.length) :
    (p.writeReg (e.1 / 8) v firmware).readReg (e.1 / 8) = v &&& e.2 := by
  simp only [maskedRegs, List.mem_cons, List.not_mem_nil, or_false] at he
  obtain rfl | rfl | rfl | rfl | rfl | rfl | rfl := he
  · exact (congrArg word (Nat.mul_one _).symm).trans (word_bits v 47 0)
  · show word (b2n (bits v 1 1 == 1) * 2 + b2n (bits v 0 0 == 1)) = _
    rw [b2n_bits, b2n_bits, ← Nat.mul_one (bits v 0 0)]
    exact word_bits_add v 1 1 0 0 (by decide)
  · exact word_bits v 47 6
  · rfl
  · rfl
  · exact word_bits v 47 9
  · obtain ⟨hen, hbase⟩ := hp rfl
    exact p.ptWord_writePt v hen hbase

/-! ## SYSTEM_REGISTER_WRITE -/

/-- An event that leaves the machine as it is leaves the state. -/
theorem endEvent_same {s : State} (h : s.mach.out = []) : endEvent s s.mach = .next s := by
  obtain ⟨mem, m⟩ := s
  simp only [endEvent, commit, show m.out = [] from h, Memory.writeAll]
  rw [← show m.out = [] from h]

/-- Below the privilege that the register needs the event changes nothing. -/
theorem exec_systemRegisterWrite_below {s : State} {c k n : Nat} (v : Word) (ho : s.mach.out = [])
    (hl : (s.mach.ctx c k).priv.rank < (regLevel (partOf c) n true).rank) :
    exec (.systemRegisterWrite c k n v) s = .next s := by
  show execSystemRegisterWrite c k n v s = _
  simp only [execSystemRegisterWrite, if_pos hl, endEvent_same ho]

/-- With the privilege that the register needs the event writes it. -/
theorem exec_systemRegisterWrite_allowed {s : State} {c k n : Nat} (v : Word)
    (hl : ¬ (s.mach.ctx c k).priv.rank < (regLevel (partOf c) n true).rank) :
    exec (.systemRegisterWrite c k n v) s = .next (commit s (s.mach.writeReg s.mem c k n v)) := by
  show execSystemRegisterWrite c k n v s = _
  simp only [execSystemRegisterWrite, if_neg hl, endEvent]

end Sys2Proof.Machine
end

section
/-!
The system registers, scratch registers and CSW (O6), clause by clause.
-/

open Sys2Proof Sys2Proof.Machine

/-- R173, R175: the privilege of the port and then that of the register decide. -/
theorem portsReachTheSystemRegisters : Clauses.PortsReachTheSystemRegisters := by
  intro o s t m h hc hp
  refine ⟨exec_cuSysRd_allowed h hc hp, fun hl => ⟨_, rfl, exec_cuSysRd_below h hc hp hl⟩, fun a ha _ _ => ⟨fun hl => ?_, fun hl => ?_⟩,
    fun hn => ⟨readReg_unassigned m _ _ hn, fun m' v => writeReg_unassigned _ m' _ _ v hn⟩⟩
  · rw [exec_cuSysWr_holds h hc hp ha, if_neg hl, endSlot_ok]
  · exact ⟨trap5 .prot 1 0, rfl, by rw [exec_cuSysWr_holds h hc hp ha, if_pos hl, prot, endSlot_raise]⟩

/-- R314: a scratch register is a word of the trap registers of its context. -/
theorem scratchRegistersHoldWhatIsWritten : Clauses.ScratchRegistersHoldWhatIsWritten := by
  intro mem m c k i j v hc hk hi hj hl
  rw [writeReg_context mem m c k v (by omega), readReg_context _ c k (by omega), readReg_context m c k (by omega),
    ctx_onCtx_same m c k _ hc hk]
  exact TrapRegs.read_write_scratch _ v hi hj hl

/-- R58: the access codes of CSW, bit by bit. -/
theorem cswIsWrittenByItsAccessCodes : Clauses.CswIsWrittenByItsAccessCodes := fun _ _ t _ h hc =>
  ⟨fun old => writeCsw old t, exec_cuCsw_moves h hc, fun old i hi => getLsbD_writeCsw old t i hi⟩

/-- R5: the write reaches one partition, whose register reads back masked. -/
theorem writtenRegistersReadBack : Clauses.WrittenRegistersReadBack := by
  intro s c k h v _ ho hh hparts hen
  refine ⟨fun e he hl hbase => ?_, fun n hl => exec_systemRegisterWrite_below v ho hl⟩
  obtain ⟨hreg, hmod, hdiv⟩ := maskedRegs_place he hh
  have hw := writeReg_isPartReg s.mem s.mach c k v hreg
  rw [hmod, hdiv] at hw
  refine ⟨_, exec_systemRegisterWrite_allowed v hl, ?_⟩
  rw [hw]
  refine ⟨commit_mem s _ ho, ?_, rfl, fun j hj => part_onPart_other s.mach h j _ hj⟩
  rw [readReg_isPartReg _ c k hreg, hmod, hdiv]
  refine Eq.trans (congrArg (·.readReg (e.1 / 8)) (part_onPart_same s.mach h _ (by omega))) ?_
  exact Part.readReg_writeReg_masked _ v _ he fun h300 => ⟨by omega, hbase h300⟩

/-- Settles O6: the triggers from the laws of their frame, the read-back from the masks of the fields that a write sets. -/
theorem systemRegistersAreReadAndWritten : Obligations.SystemRegistersAreReadAndWritten :=
  ⟨portsReachTheSystemRegisters, scratchRegistersHoldWhatIsWritten, cswIsWrittenByItsAccessCodes, writtenRegistersReadBack⟩
end

section
/-!
SUPPORT. The machine at package reset: every core, context, partition and plane, be its number in range or not, is the reset one
(spec/00_scope.md R6).
-/

namespace Sys2Proof.Machine

/-- A list of one value reads as that value everywhere, where it is the value for beyond the end. -/
theorem getD_replicate_self {α : Type} (a : α) (n i : Nat) : (List.replicate n a).getD i a = a := by
  rw [List.getD_eq_getElem?_getD, List.getElem?_replicate]
  split
  · rfl
  · rfl

theorem reset_core (c : Nat) : State.reset.mach.core c = .reset := getD_replicate_self _ 160 c

theorem reset_ctx (c k : Nat) : State.reset.mach.ctx c k = .reset := by
  rw [Mach.ctx, reset_core]
  exact getD_replicate_self _ 8 k

theorem reset_part (h : Nat) : State.reset.mach.part h = .reset := getD_replicate_self _ 8 h

theorem reset_work (h : Nat) : State.reset.mach.work h = .reset := by
  rw [Mach.work, reset_part]
  rfl

theorem reset_plane (p : Nat) : State.reset.mach.plane p = .reset := getD_replicate_self _ 4 p

/-- Every page-table root is off at reset (R309). -/
theorem reset_ptEn (i : Nat) : Part.reset.ptEn.getD i false = false := getD_replicate_self false 3 i

end Sys2Proof.Machine
end

section
/-!
What reset leaves (O56).
-/

open Sys2Proof Sys2Proof.Machine

/-- Nothing is listed in memory, and nothing has been written. -/
theorem resetKeepsTheInvariant : Clauses.ResetKeepsTheInvariant := ⟨Memory.wf_nil, rfl⟩

/-- The registers of the package are fields of the reset state; those of cores, contexts, planes and partitions stand in the reset one
of their kind, whatever the number. -/
theorem resetGivesTheSpecsValues : Clauses.ResetGivesTheSpecsValues := by
  refine ⟨rfl, rfl, rfl, rfl, rfl, rfl, rfl, rfl, rfl, fun c k => ?_, fun c => ?_, fun p => ?_, fun h => ?_⟩
  · rw [reset_ctx]; rfl
  · rw [reset_core]; rfl
  · rw [reset_plane]; rfl
  · rw [reset_part, reset_work]
    exact ⟨rfl, rfl, rfl, rfl, rfl, rfl, rfl, rfl, rfl, rfl, reset_ptEn, rfl, rfl, rfl, rfl, rfl⟩

/-- Settles O56, by evaluating the reset state. -/
theorem resetLeavesTheResetValues : Obligations.ResetLeavesTheResetValues := ⟨resetKeepsTheInvariant, resetGivesTheSpecsValues⟩
end

section
/-!
SUPPORT. What events share: a posted event stands in the agenda, a change of a core leaves what it does not speak of, and settling barrier
areas writes bytes only (spec/05_memory_spaces.md R107; spec/06_ordering.md R126).
-/

namespace Sys2Proof.Machine

/-- An event that has been inserted is there. -/
theorem mem_insertEvent (t : Nat) (e : Event) (l : List (Nat × Event)) : (t, e) ∈ insertEvent t e l := by
  induction l with
  | nil => exact List.mem_singleton_self _
  | cons p l ih =>
    simp only [insertEvent]
    split
    · exact List.mem_cons_self
    · exact List.mem_cons_of_mem _ ih

/-- An event posted for now or later stands in the agenda for its cycle. -/
theorem mem_agenda_post (m : Mach) {t : Nat} (e : Event) (h : m.cycle ≤ t) : (t, e) ∈ (m.post t e).agenda := by
  simp only [Mach.post, if_neg (Nat.not_lt.mpr h)]
  exact mem_insertEvent t e m.agenda

/-- What a change of a core leaves of every core, it leaves of each core of the machine. -/
theorem core_onCore_keeps {α : Type} (m : Mach) (c d : Nat) {f : Core → Core} (φ : Core → α) (h : ∀ co, φ (f co) = φ co) :
    φ ((m.onCore c f).core d) = φ (m.core d) := by
  by_cases hd : d = c
  · subst hd
    by_cases hl : d < m.cores.length
    · rw [core_onCore_same m d f hl, h]
    · simp [Mach.core, Mach.onCore, List.getD_eq_getElem?_getD, hl]
  · rw [core_onCore_other m c d f hd]

/-- Steps each of which only writes bytes, as the bytes written before it say, only write bytes. -/
theorem foldl_writes_only {f : Mach → Nat → Mach} (hf : ∀ m m' a, m'.out = m.out → f m' a = { m' with out := (f m a).out })
    (l : List Nat) : ∀ m m' : Mach, m'.out = m.out → l.foldl f m' = { m' with out := (l.foldl f m).out } := by
  induction l with
  | nil => intro m m' h; rw [List.foldl_nil, List.foldl_nil, ← h]
  | cons a l ih =>
    intro m m' h
    have hstep := hf m m' a h
    rw [List.foldl_cons, List.foldl_cons, ih (f m a) (f m' a) (by rw [hstep]), hstep]

/-- What a step sees of memory beyond memory itself is what it has written. -/
theorem peekNat_congr (mem : Memory) {m m' : Mach} (h : m'.out = m.out) (key n : Nat) : peekNat mem m' key n = peekNat mem m key n := by
  simp only [peekNat, peekAll, h, show peek mem m' = peek mem m from funext fun k => by simp only [peek, h]]

/-- The check that follows accesses of barrier areas only writes bytes, and of the machine it sees only the bytes that are written. -/
theorem settleBarriers_writes_only (mem : Memory) {m m' : Mach} (h : m'.out = m.out) (keys : List Nat) :
    m'.settleBarriers mem keys = { m' with out := (m.settleBarriers mem keys).out } := by
  refine foldl_writes_only (fun m m' a h => ?_) _ m m' h
  simp only [peekNat_congr mem h]
  split
  · simp only [Mach.writeWord, Mach.writeBytes, Mach.write, h]
  · rw [← h]

section
variable (mem : Memory) (m : Mach) (keys : List Nat)

/-- Settling barrier areas leaves the cores. -/
@[simp] theorem settleBarriers_cores : (m.settleBarriers mem keys).cores = m.cores := by
  rw [settleBarriers_writes_only mem (rfl : m.out = m.out)]

/-- Settling barrier areas leaves each core. -/
@[simp] theorem settleBarriers_core (c : Nat) : (m.settleBarriers mem keys).core c = m.core c := by
  rw [Mach.core, settleBarriers_cores, Mach.core]

/-- Settling barrier areas does not move the clock. -/
@[simp] theorem settleBarriers_cycle : (m.settleBarriers mem keys).cycle = m.cycle := by
  rw [settleBarriers_writes_only mem (rfl : m.out = m.out)]

/-- Settling barrier areas writes the same bytes in machines that have written the same. -/
theorem settleBarriers_out {m' : Mach} (h : m'.out = m.out) :
    (m'.settleBarriers mem keys).out = (m.settleBarriers mem keys).out := by
  rw [settleBarriers_writes_only mem h]

end

/-- A step that has written nothing sees memory. -/
theorem peekAll_of_out_nil (mem : Memory) {m : Mach} (h : m.out = []) (keys : List Nat) : peekAll mem m keys = keys.map mem.read := by
  simp [peekAll, h]

end Sys2Proof.Machine
end

section
/-!
SUPPORT. Commands of the matrix array (spec/10_ops_tile_matrix.md R201, R204): reading back a command that has been replaced or has gone,
the release of a ring slot, and what each event does to a command whose time has come.
-/

namespace Sys2Proof.Machine

/-! ## The list of commands -/

/-- A command is found by its number. -/
theorem mxCmd_id {co : Core} {id : Nat} {q : MxCmd} (h : co.mxCmd id = some q) : q.id = id := by
  simpa using List.find?_some h

section
variable {m : Mach} {c id : Nat} {q r : MxCmd}

/-- The command that has been replaced. -/
theorem mxCmd_setMx (hc : c < m.cores.length) (h : (m.core c).mxCmd id = some r) (hid : q.id = id) :
    ((m.setMx c q).core c).mxCmd id = some q := by
  have hkeeps : ((·.id == id) ∘ fun r : MxCmd => if r.id = q.id then q else r) = (·.id == id) := by
    funext r
    simp only [Function.comp_apply]
    split
    · next e => rw [e]
    · rfl
  rw [Mach.setMx, core_onCore_same m c _ hc, Core.mxCmd, List.find?_map, hkeeps]
  rw [Core.mxCmd] at h
  rw [h, Option.map_some, if_pos ((mxCmd_id h).trans hid.symm)]

/-- A command that has gone. -/
theorem mxCmd_dropMx (hc : c < m.cores.length) : ((m.dropMx c id).core c).mxCmd id = none := by
  rw [Mach.dropMx, core_onCore_same m c _ hc, Core.mxCmd, List.find?_eq_none]
  intro r hr
  simpa using (List.mem_filter.mp hr).2

/-- Replacing a command leaves the contexts. -/
@[simp] theorem setMx_ctxs (m : Mach) (c d : Nat) (q : MxCmd) : ((m.setMx c q).core d).ctxs = (m.core d).ctxs :=
  core_onCore_keeps m c d (·.ctxs) fun _ => rfl

/-- Replacing a command leaves the reservations. -/
@[simp] theorem setMx_resv (m : Mach) (c d : Nat) (q : MxCmd) : ((m.setMx c q).core d).resv = (m.core d).resv :=
  core_onCore_keeps m c d (·.resv) fun _ => rfl

/-- The end of a command leaves the contexts. -/
@[simp] theorem dropMx_ctxs (m : Mach) (c d id : Nat) : ((m.dropMx c id).core d).ctxs = (m.core d).ctxs :=
  core_onCore_keeps m c d (·.ctxs) fun _ => rfl

/-- The end of a command leaves the B buffers. -/
@[simp] theorem dropMx_bufs (m : Mach) (c d id : Nat) : ((m.dropMx c id).core d).bufs = (m.core d).bufs :=
  core_onCore_keeps m c d (·.bufs) fun _ => rfl

/-- A change of a context leaves the commands. -/
@[simp] theorem onCtx_mxCmd (m : Mach) (c d k id : Nat) (f : Ctx → Ctx) : ((m.onCtx c k f).core d).mxCmd id = (m.core d).mxCmd id :=
  core_onCore_keeps m c d (·.mxCmd id) fun _ => rfl

/-- A change of a context leaves the B buffers. -/
@[simp] theorem onCtx_bufs (m : Mach) (c d k : Nat) (f : Ctx → Ctx) : ((m.onCtx c k f).core d).bufs = (m.core d).bufs :=
  core_onCore_keeps m c d (·.bufs) fun _ => rfl

/-- A change of a context leaves how many there are. -/
@[simp] theorem onCtx_ctxs_length (m : Mach) (c d k : Nat) (f : Ctx → Ctx) :
    ((m.onCtx c k f).core d).ctxs.length = (m.core d).ctxs.length :=
  core_onCore_keeps m c d (·.ctxs.length) fun co => length_modifyAt f k co.ctxs

/-- A change of a core leaves how many there are. -/
@[simp] theorem onCore_cores_length (m : Mach) (c : Nat) (f : Core → Core) : (m.onCore c f).cores.length = m.cores.length :=
  length_modifyAt f c m.cores

/-! ## The release of a ring slot (R107, R201) -/

/-- The end of ring records leaves the reservations. -/
theorem dropRings_resv (m : Mach) (c d : Nat) : ((m.dropRings c).core d).resv = (m.core d).resv :=
  core_onCore_keeps m c d (·.resv) fun _ => rfl

/-- A release leaves of a core all but its reservations and ring records. -/
theorem release_keeps {α : Type} (m : Mach) (c d holder : Nat) (φ : Core → α)
    (h : ∀ co rings resv, φ { co with rings := rings, resv := resv } = φ co) : φ ((m.release c holder).core d) = φ (m.core d) :=
  (core_onCore_keeps _ c d φ fun co => h co _ co.resv).trans (core_onCore_keeps m c d φ fun co => h co co.rings _)

/-- Leaving a slot leaves of a core all but its ring records. -/
theorem leaveSlot_keeps {α : Type} (m : Mach) (c d : Nat) (ring : Option (Nat × Nat)) (φ : Core → α)
    (h : ∀ co rings resv, φ { co with rings := rings, resv := resv } = φ co) : φ ((m.leaveSlot c ring).core d) = φ (m.core d) := by
  cases ring with
  | none => rfl
  | some r => exact core_onCore_keeps m c d φ fun co => h co _ co.resv

/-- When the reads of a command have retired, all of a core but its reservations and ring records is as before. -/
theorem retireReads_keeps {α : Type} (m : Mach) (c d : Nat) (q : MxCmd) (φ : Core → α)
    (h : ∀ co rings resv, φ { co with rings := rings, resv := resv } = φ co) : φ ((m.retireReads c q).core d) = φ (m.core d) := by
  unfold Mach.retireReads
  split
  · exact (release_keeps _ c d q.id φ h).trans (leaveSlot_keeps m c d _ φ h)
  · rfl

/-- The reads of a command retire within the cores. -/
theorem retireReads_eq (m : Mach) (c : Nat) (q : MxCmd) : m.retireReads c q = { m with cores := (m.retireReads c q).cores } := by
  unfold Mach.retireReads
  split
  · rfl
  · rfl

/-- No core comes or goes where the reads of a command retire. -/
theorem retireReads_cores_length (m : Mach) (c : Nat) (q : MxCmd) : (m.retireReads c q).cores.length = m.cores.length := by
  unfold Mach.retireReads
  split
  · simp [Mach.release, Mach.dropRings, Mach.leaveSlot]
  · rfl

/-- A release frees every reservation of its holder. -/
theorem release_frees (m : Mach) {c holder : Nat} (hc : c < m.cores.length) :
    ∀ r ∈ ((m.release c holder).core c).resv, r.holder = holder → r.released ≠ none := by
  intro r hr hh
  rw [Mach.release, dropRings_resv, core_onCore_same m c _ hc] at hr
  obtain ⟨r0, -, rfl⟩ := List.mem_map.mp hr
  by_cases hfree : r0.holder = holder ∧ r0.released = none
  · simp [hfree]
  · rw [if_neg hfree] at hh ⊢
    exact fun hnone => hfree ⟨hh, hnone⟩

/-- When the reads of a command with a taken ring slot have retired, its reservation is released. -/
theorem retireReads_frees (m : Mach) {c : Nat} {q : MxCmd} (hc : c < m.cores.length) (hring : q.ring.isSome = true) :
    ∀ r ∈ ((m.retireReads c q).core c).resv, r.holder = q.id → r.released ≠ none := by
  obtain ⟨r, hr⟩ := Option.isSome_iff_exists.mp hring
  simp only [Mach.retireReads, hr]
  exact release_frees _ (by simpa [Mach.leaveSlot] using hc)

end

/-! ## When a command runs (R204) -/

/-- A bload can start where every earlier bload is gone and every earlier stream on its buffer is over. -/
theorem bloadFree_of_earlier {co : Core} {now : Nat} {q : MxCmd} (h : ∀ r ∈ co.mx, r.id < q.id →
    (r.bload = false ∧ (r.buf = q.buf → r.launched = true ∧ r.start + r.occupancy ≤ now))) : co.bloadFree now q = true := by
  refine List.all_eq_true.mpr fun r hr => ?_
  by_cases hid : q.id ≤ r.id
  · simp [hid]
  · obtain ⟨hload, hover⟩ := h r hr (by omega)
    by_cases hbuf : r.buf = q.buf
    · obtain ⟨hl, ht⟩ := hover hbuf
      simp [hload, MxCmd.streamed, hl, ht]
    · simp [hload, hbuf]

/-- A stream can launch where its operands are read, every earlier bload of its buffer is gone and every earlier stream is over. -/
theorem launchFree_of_earlier {co : Core} {now : Nat} {q : MxCmd} (hread : q.readAt ≤ now) (h : ∀ r ∈ co.mx, r.id < q.id →
    (if r.bload then r.buf ≠ q.buf else r.launched = true ∧ r.start + r.occupancy ≤ now)) : co.launchFree now q = true := by
  refine Bool.and_eq_true_iff.mpr ⟨decide_eq_true hread, List.all_eq_true.mpr fun r hr => ?_⟩
  by_cases hid : q.id ≤ r.id
  · simp [hid]
  · have hr' := h r hr (by omega)
    by_cases hload : r.bload = true
    · rw [if_pos hload] at hr'
      simp [hload, hr']
    · rw [if_neg hload] at hr'
      simp [hload, MxCmd.streamed, hr'.1, hr'.2]

/-! ## The events of a command whose time has come -/

section
variable {s : State} {c id : Nat} {q : MxCmd}

/-- A queued bload that is free to start reads. -/
theorem exec_bloadStart_free (hq : (s.mach.core c).mxCmd id = some q) (hs : q.state = .queued)
    (hf : (s.mach.core c).bloadFree s.mach.cycle q = true) : exec (.bloadStart c id) s = .next (commit s
      ((s.mach.setMx c { q with start := s.mach.cycle, state := .reading }).post (s.mach.cycle + q.readAt) (.bloadComplete c id))) := by
  show execBloadStart c id s = _
  simp [execBloadStart, hq, hs, hf, endEvent]

/-- The last byte of B is read where no older store to it is still to perform. -/
theorem exec_bloadComplete_reading (hq : (s.mach.core c).mxCmd id = some q) (hs : q.state = .reading)
    (hf : s.mach.operandsFree c q = true) : exec (.bloadComplete c id) s = .next (commit s (s.mach.bloadRead s.mem c q)) := by
  show execBloadComplete c id s = _
  simp [execBloadComplete, hq, hs, hf, endEvent]

/-! What the read of the last byte of B leaves. -/

/-- The bytes that the read of the last byte of B writes are those of the barrier areas that it settles. -/
theorem commit_bloadRead_mem : (commit s (s.mach.bloadRead s.mem c q)).mem
    = s.mem.writeAll (s.mach.settleBarriers s.mem (barrierKeys q.segs)).out :=
  congrArg s.mem.writeAll (settleBarriers_out s.mem s.mach (barrierKeys q.segs)
    (m' := s.mach.retireReads c q) (by rw [retireReads_eq]))

/-- The command after the last byte of B has been read: with the bytes of B as memory holds them. -/
theorem bloadRead_mxCmd (hout : s.mach.out = []) (hc : c < s.mach.cores.length) (hq : (s.mach.core c).mxCmd id = some q) :
    ((s.mach.bloadRead s.mem c q).core c).mxCmd id = some { q with bData := (segKeys q.segs).map s.mem.read, state := .writing } := by
  have hid : q.id = id := mxCmd_id hq
  rw [← peekAll_of_out_nil s.mem hout]
  refine mxCmd_setMx (r := q) ?_ ?_ hid
  · rwa [settleBarriers_cores, retireReads_cores_length]
  · rwa [settleBarriers_core, retireReads_keeps s.mach c c q (·.mxCmd id) fun _ _ _ => rfl]

/-- The read of the last byte of B leaves of a core what neither the release nor the command's new state changes. -/
theorem bloadRead_keeps {α : Type} (mem : Memory) (m : Mach) (c d : Nat) (q : MxCmd) (φ : Core → α)
    (hmx : ∀ co mx, φ { co with mx := mx } = φ co) (hrel : ∀ co rings resv, φ { co with rings := rings, resv := resv } = φ co) :
    φ ((m.bloadRead mem c q).core d) = φ (m.core d) := by
  refine (core_onCore_keeps _ c d φ fun co => hmx co _).trans ?_
  rw [settleBarriers_core]
  exact retireReads_keeps m c d q φ hrel

/-- The read of the last byte of B frees the reservation of a taken ring slot. -/
theorem bloadRead_frees (mem : Memory) {m : Mach} {c : Nat} {q : MxCmd} (hc : c < m.cores.length) (hring : q.ring.isSome = true) :
    ∀ r ∈ ((m.bloadRead mem c q).core c).resv, r.holder = q.id → r.released ≠ none := by
  have hresv : ((m.bloadRead mem c q).core c).resv = ((m.retireReads c q).core c).resv := by
    refine (setMx_resv _ c c _).trans ?_
    rw [settleBarriers_core]
  rw [hresv]
  exact retireReads_frees m hc hring

/-- The completion follows 256 cycles after the start at the earliest, and 4 after the read. -/
theorem bloadRead_agenda (mem : Memory) (m : Mach) (c : Nat) (q : MxCmd) :
    (max (q.start + 256) (m.cycle + 4), Event.bloadComplete c q.id) ∈ (m.bloadRead mem c q).agenda := by
  refine mem_agenda_post _ _ (Nat.le_trans (Nat.le_of_eq ?_) (Nat.le_trans (Nat.le_add_right _ 4) (Nat.le_max_right _ _)))
  refine (settleBarriers_cycle mem _ _).trans ?_
  rw [retireReads_eq]

/-! The end of a bload, and streams. -/

/-- A bload whose bytes are read fills its buffer and is gone. -/
theorem exec_bloadComplete_writing (hq : (s.mach.core c).mxCmd id = some q) (hs : q.state = .writing) :
    exec (.bloadComplete c id) s = .next (commit s ((s.mach.onCore c fun co =>
      { co with bufs := modifyAt (fun b => { b with fmt := q.fmt, data := q.bData }) q.buf co.bufs }).dropMx c id)) := by
  show execBloadComplete c id s = _
  simp [execBloadComplete, hq, hs, endEvent]

/-- A stream that has ended retires its reads. -/
theorem exec_aReadRetirement_over (hq : (s.mach.core c).mxCmd id = some q) (hs : q.state = .streaming)
    (ht : q.start + q.occupancy ≤ s.mach.cycle) : exec (.aReadRetirement c id) s = .next (commit s
      ((s.mach.retireReads c q).setMx c { q with state := .writing })) := by
  show execAReadRetirement c id s = _
  simp [execAReadRetirement, hq, hs, ht, endEvent]

/-- A queued stream that is free to launch, its operands free to be read, launches after a forced resolve of C (R204). -/
theorem exec_mmaLaunch_free (hq : (s.mach.core c).mxCmd id = some q) (hs : q.state = .queued)
    (hf : (s.mach.core c).launchFree s.mach.cycle q = true) (ho : s.mach.operandsFree c q = true) :
    exec (.mmaLaunch c id) s = .next (commit s ((s.mach.setMx c { q with state := .reading }).post
      (s.mach.cycle + q.resolve.elim 0 fun r => 8 + r.tile.rows) (.mmaLaunch c id))) := by
  show execMmaLaunch c id s = _
  cases hr : q.resolve <;> simp [execMmaLaunch, hq, MxCmd.launched, hs, hf, ho, hr, endEvent]

/-- The machine after the forced resolve of C that comes before a stream, where there is one (R91, R204). -/
def Mach.resolved (m : Mach) (c : Nat) (q : MxCmd) : Mach :=
  q.resolve.elim m fun r => m.onCtx c q.ctx (·.resolveNoted r q.fvs)

/-- A command whose stream starts: with A, the metadata and B as they then stand (R204). -/
def MxCmd.fed (q : MxCmd) (mem : Memory) (now : Nat) (b : BBuf) : MxCmd :=
  { q with start := now, state := .streaming, aData := (segKeys q.segs).map mem.read, metaData := (segKeys q.metaSegs).map mem.read,
           bData := b.data, bFmt := b.fmt }

/-- A stream whose launch has come takes its operands, and its end and its first row are posted. -/
theorem exec_mmaLaunch_reading (hout : s.mach.out = []) (hq : (s.mach.core c).mxCmd id = some q) (hs : q.state = .reading) :
    let q' := q.fed s.mem s.mach.cycle ((s.mach.core c).bufs.getD q.buf ⟨none, .s4, []⟩)
    exec (.mmaLaunch c id) s = .next (commit s (((((s.mach.resolved c q).settleBarriers s.mem (barrierKeys (q.segs ++ q.metaSegs))).setMx c
      q').post (s.mach.cycle + q.occupancy) (.aReadRetirement c id)).post (q'.rowAt 0) (.mmaRowWrite c id))) := by
  show execMmaLaunch c id s = _
  cases hr : q.resolve with
  | none =>
    simp only [execMmaLaunch, hq, MxCmd.launched, hs, hr, endEvent, Mach.resolved, MxCmd.fed, Option.elim_none,
      peekAll_of_out_nil s.mem hout]
    rfl
  | some r =>
    have hout' : (s.mach.onCtx c q.ctx (·.resolveNoted r q.fvs)).out = [] := hout
    simp only [execMmaLaunch, hq, MxCmd.launched, hs, hr, endEvent, Mach.resolved, MxCmd.fed, Option.elim_some,
      peekAll_of_out_nil s.mem hout', onCtx_bufs]
    rfl

end

/-- A forced resolve of C leaves everything but the cores. -/
theorem resolved_eq (m : Mach) (c : Nat) (q : MxCmd) : m.resolved c q = { m with cores := (m.resolved c q).cores } := by
  cases hr : q.resolve <;> simp only [Mach.resolved, hr] <;> rfl

/-- A forced resolve of C leaves the commands. -/
theorem resolved_mxCmd (m : Mach) (c id : Nat) (q : MxCmd) : ((m.resolved c q).core c).mxCmd id = (m.core c).mxCmd id := by
  cases hr : q.resolve with
  | none => simp [Mach.resolved, hr]
  | some r => simp [Mach.resolved, hr]

/-- A forced resolve of C leaves how many cores there are. -/
theorem resolved_cores_length (m : Mach) (c : Nat) (q : MxCmd) : (m.resolved c q).cores.length = m.cores.length := by
  cases hr : q.resolve with
  | none => simp [Mach.resolved, hr]
  | some r => simp [Mach.resolved, hr, Mach.onCtx]

/-- A forced resolve of C writes its rows in the context of the command. -/
theorem resolved_ctx {m : Mach} {c : Nat} {q : MxCmd} (h : m.Has c q.ctx) :
    (m.resolved c q).ctx c q.ctx = q.resolve.elim (m.ctx c q.ctx) fun r => (m.ctx c q.ctx).resolveNoted r q.fvs := by
  cases hr : q.resolve with
  | none => simp [Mach.resolved, hr]
  | some r => simpa [Mach.resolved, hr] using ctx_onCtx_same m c q.ctx _ h.1 h.2

end Sys2Proof.Machine
end

section
/-!
SUPPORT. Rows of products (spec/10_ops_tile_matrix.md R202, R204; spec/03_numbers.md R66, R67): the cells of a row one by one, the exact
sum of an i8 cell, and what writing a row leaves of the context.
-/

namespace Sys2Proof.Machine

/-! ## Exact products of integers -/

/-- The sign and the magnitude of an integer are the integer. -/
theorem signedOf_natAbs (a : Int) : signedOf (decide (a < 0)) a.natAbs = a := by
  by_cases h : a < 0
  · simp only [signedOf, h, decide_true, if_true]; omega
  · simp only [signedOf, h, decide_false, Bool.false_eq_true, if_false]; omega

/-- Signs and magnitudes multiply. -/
theorem signedOf_mul (s t : Bool) (m n : Nat) : signedOf (s != t) (m * n) = signedOf s m * signedOf t n := by
  have hcast : ((m * n : Nat) : Int) = m * n := Int.natCast_mul m n
  match s, t with
  | false, false => exact hcast
  | false, true => exact (congrArg Neg.neg hcast).trans (Int.mul_neg _ _).symm
  | true, false => exact (congrArg Neg.neg hcast).trans (Int.neg_mul _ _).symm
  | true, true => exact hcast.trans (Int.neg_mul_neg _ _).symm

/-- The exact product of two integers is their product. -/
theorem toInt_mul_ofInt (a b : Int) : ((Fl.ofInt a).mul (Fl.ofInt b)).toInt false = a * b := by
  have hround (n : Nat) : roundDiv false n 1 = n := by simp [roundDiv, Nat.mod_one]
  simp only [Fl.ofInt, Fl.mul, Fl.toInt, Int.add_zero, Int.neg_zero, Int.toNat_zero, Nat.pow_zero, Nat.mul_one, hround,
    Bool.false_eq_true, if_false, signedOf_mul, signedOf_natAbs]

/-- The numbers from a start are a range of the library. -/
theorem upFrom_eq_range' (start n : Nat) : upFrom start n = List.range' start n := by
  induction n generalizing start with
  | zero => rfl
  | succ n ih => rw [upFrom, ih, List.range'_succ]

@[simp] theorem length_upFrom (start n : Nat) : (upFrom start n).length = n := by rw [upFrom_eq_range', List.length_range']

/-- A sum of terms that are all 0 is 0. -/
theorem sum_map_eq_zero {α : Type} {f : α → Int} (h : ∀ a, f a = 0) (l : List α) : (l.map f).sum = 0 := by
  induction l with
  | nil => rfl
  | cons a l ih => rw [List.map_cons, List.sum_cons, h, ih, Int.add_zero]

/-- The sum over the places of two byte rows, absent bytes being 0, is the sum over the pairs. -/
theorem sum_products_eq_zip (A B : List Byte) {n : Nat} (h : A.length ≤ n) :
    ((List.range n).map fun k => (A.getD k 0).toInt * (B.getD k 0).toInt).sum
      = ((A.zip B).map fun p => p.1.toInt * p.2.toInt).sum := by
  induction A generalizing B n with
  | nil => exact sum_map_eq_zero (fun k => Int.zero_mul _) _
  | cons a A ih =>
    obtain ⟨n, rfl⟩ : ∃ k, n = k + 1 := ⟨n - 1, by rw [List.length_cons] at h; omega⟩
    cases B with
    | nil => exact sum_map_eq_zero (fun k => Int.mul_zero _) _
    | cons b B =>
      have hrest := ih B (Nat.le_of_succ_le_succ h)
      rw [List.range_succ_eq_map, List.map_cons, List.map_map, List.sum_cons, List.zip_cons_cons, List.map_cons, List.sum_cons, ← hrest]
      rfl

/-! ## The cells of a row -/

/-- A place within a list reads as the element there. -/
theorem getD_eq_getElem_of_lt {α : Type} {l : List α} {i : Nat} (d : α) (h : i < l.length) : l.getD i d = l[i] := by
  rw [List.getD_eq_getElem?_getD, List.getElem?_eq_getElem h, Option.getD_some]

/-- A row of products cell by cell: column j of the tile is column 4 × COL0 + j of B. -/
theorem product_cells (q : MxCmd) (x : Ctx) (i : Nat) : (q.product x i).1 = ((upFrom 0 q.tile.tile.n).zip
    (((upFrom 0 q.tile.tile.n).map fun j => q.bColumn (4 * q.tile.tile.col0 + j)).zip (x.tileRow q.tile.tile i))).map
      fun p => (q.cell i p.1 (q.aRow i).1 p.2.1.1 p.2.2).1 := by
  simp only [MxCmd.product, List.map_map]
  rfl

/-- A row of products has a cell for each old one. -/
theorem length_product (q : MxCmd) (x : Ctx) (i : Nat) : (q.product x i).1.length = (x.tileRow q.tile.tile i).length := by
  have hle : (x.tileRow q.tile.tile i).length ≤ q.tile.tile.n := List.length_take_le _ _
  simp only [product_cells, List.length_map, List.length_zip, length_upFrom]
  omega

/-- A row of a tile that lies within the accumulators has a cell for each column. -/
theorem length_tileRow {x : Ctx} {t : Tile} {i : Nat} (hi : t.row0 + i < x.acc.length) (hrow : ∀ r ∈ x.acc, r.length = 256)
    (hcol : 4 * t.col0 + t.n ≤ 256) : (x.tileRow t i).length = t.n := by
  have h256 : (x.acc.getD (t.row0 + i) (List.replicate 256 0)).length = 256 := by
    rw [getD_eq_getElem_of_lt _ hi]
    exact hrow _ (List.getElem_mem hi)
  simp only [Ctx.tileRow, List.length_take, List.length_drop, h256]
  omega

/-- Cell j of a row of products. -/
theorem getD_product (q : MxCmd) (x : Ctx) (i j : Nat) (h : j < (q.product x i).1.length) : (q.product x i).1.getD j 0 =
    (q.cell i j (q.aRow i).1 (q.bColumn (4 * q.tile.tile.col0 + j)).1 ((x.tileRow q.tile.tile i).getD j 0)).1 := by
  have hold : j < (x.tileRow q.tile.tile i).length := length_product q x i ▸ h
  rw [getD_eq_getElem_of_lt _ h, getD_eq_getElem_of_lt _ hold]
  simp [product_cells, upFrom_eq_range']

/-- A floating cell is the exact sum of C or 0 and its scaled products, rounded once (R66, R202). -/
theorem cell_float {q : MxCmd} (hf : q.fmt ≠ .i8) (i j : Nat) (a b : List Fl) (c : Cell) : (q.cell i j a b c).1 =
    flCell ((if q.accum then cellFl c else .zero).add (sumAll ((a.zip b).map fun p => ((q.scaleAt i j).mul p.1).mul p.2))) := by
  have hint : q.fmt.isInt = false := by
    cases h : q.fmt with
    | i8 => exact absurd h hf
    | _ => rfl
  simp [MxCmd.cell, hint]

/-- An i8 cell is C or 0 plus the exact sum of the products of its bytes (R67, R202). -/
theorem cell_i8 {q : MxCmd} (hf : q.fmt = .i8) (i j : Nat) (A B : List Byte) (c : Cell) :
    (q.cell i j (MxFmt.i8.values A) (MxFmt.i8.values B) c).1 =
      (if q.accum then c else 0) + BitVec.ofInt 32 ((A.zip B).map fun p => p.1.toInt * p.2.toInt).sum := by
  simp only [MxCmd.cell, hf, MxFmt.isInt, if_true, MxFmt.values, List.zip_map, List.map_map, List.sum_eq_foldl]
  simp only [Function.comp_def, Prod.map, toInt_mul_ofInt]

/-- A dense row of A in i8 is 256 bytes. -/
theorem aRow_i8 {q : MxCmd} (hf : q.fmt = .i8) (hd : q.sparse = false) (i : Nat) :
    (q.aRow i).1 = MxFmt.i8.values ((q.aData.drop (256 * i)).take 256) := by
  simp [MxCmd.aRow, hf, hd, MxFmt.rowBytes]

/-- A column of B in i8 is 256 bytes. -/
theorem bColumn_i8 {q : MxCmd} (hf : q.bFmt = .i8) (n : Nat) :
    (q.bColumn n).1 = MxFmt.i8.values ((q.bData.drop (256 * n)).take 256) := by
  simp [MxCmd.bColumn, hf]

/-! ## Writing a row -/

/-- The written row holds the products. -/
theorem writeProduct_acc (x : Ctx) (q : MxCmd) (i : Nat) : (x.writeProduct q i).acc =
    modifyAt (fun row => overwrite row (q.product x i).1 (4 * q.tile.tile.col0)) (q.tile.tile.row0 + i) x.acc := by
  simp only [Ctx.writeProduct]
  split <;> split <;> split <;> rfl

/-- Writing a row of products leaves all of the context but the accumulators, the tiles and CSW. -/
theorem writeProduct_keeps (x : Ctx) (q : MxCmd) (i : Nat) :
    { (x.writeProduct q i) with acc := x.acc, tl := x.tl, csw := x.csw } = x := by
  simp only [Ctx.writeProduct]
  split <;> split <;> split <;> rfl

/-- Where one row is due, one row is written. -/
theorem writeRows_one {m : Mach} {c : Nat} {q : MxCmd} (n : Nat) (hrow : q.row < q.tile.tile.rows) (hdue : q.rowAt q.row ≤ m.cycle)
    (hnext : q.row + 1 = q.tile.tile.rows ∨ m.cycle < q.rowAt (q.row + 1)) :
    m.writeRows c q (n + 2) = (m.onCtx c q.ctx (·.writeProduct q q.row), { q with row := q.row + 1 }) := by
  have hstop : ¬ (q.row + 1 < q.tile.tile.rows ∧ q.rowAt (q.row + 1) ≤ m.cycle) := by omega
  rw [Mach.writeRows, if_pos ⟨hrow, hdue⟩, Mach.writeRows]
  exact if_neg hstop

section
variable {s : State} {c id : Nat} {q : MxCmd} (hq : (s.mach.core c).mxCmd id = some q) (hl : q.launched = true)
  (hrow : q.row < q.tile.tile.rows) (hdue : q.rowAt q.row ≤ s.mach.cycle)
include hq hl hrow hdue

/-- With its last row a command is over. -/
theorem exec_mmaRowWrite_last (hlast : q.row + 1 = q.tile.tile.rows) : exec (.mmaRowWrite c id) s = .next (commit s
    (((s.mach.onCtx c q.ctx (·.writeProduct q q.row)).dropMx c id).onCtx c q.ctx fun x => { x with mxwFrom := s.mach.cycle + 1 })) := by
  show execMmaRowWrite c id s = _
  simp only [execMmaRowWrite, hq, hl, Bool.not_true, Bool.false_eq_true, if_false, writeRows_one 2 hrow hdue (.inl hlast), hlast,
    Nat.le_refl, if_true, endEvent]
  rfl

/-- After another row it goes on. -/
theorem exec_mmaRowWrite_next (hmore : q.row + 1 < q.tile.tile.rows) (hnext : s.mach.cycle < q.rowAt (q.row + 1)) :
    exec (.mmaRowWrite c id) s = .next (commit s (((s.mach.onCtx c q.ctx (·.writeProduct q q.row)).setMx c
      { q with row := q.row + 1 }).post (q.rowAt (q.row + 1)) (.mmaRowWrite c id))) := by
  show execMmaRowWrite c id s = _
  simp only [execMmaRowWrite, hq, hl, Bool.not_true, Bool.false_eq_true, if_false, writeRows_one 2 hrow hdue (.inr hnext),
    Nat.not_le.mpr hmore, endEvent]
  rfl

end

/-- MMA_ROW_WRITE writes the row that is due in the context of the command, and goes on with the next or ends the command. -/
theorem exec_mmaRowWrite_due {s : State} {c id : Nat} {q : MxCmd} (hout : s.mach.out = []) (hhas : s.mach.Has c q.ctx)
    (hq : (s.mach.core c).mxCmd id = some q) (hl : q.launched = true) (hrow : q.row < q.tile.tile.rows)
    (hdue : q.rowAt q.row ≤ s.mach.cycle) (hnext : q.row + 1 = q.tile.tile.rows ∨ s.mach.cycle < q.rowAt (q.row + 1)) :
    ∃ u n, exec (.mmaRowWrite c id) s = .next u ∧ u.mem = s.mem
      ∧ u.mach.ctx c q.ctx = { ((s.mach.ctx c q.ctx).writeProduct q q.row) with mxwFrom := n }
      ∧ (if q.row + 1 = q.tile.tile.rows then (u.mach.core c).mxCmd id = none
          else (u.mach.core c).mxCmd id = some { q with row := q.row + 1 }) := by
  have hid := mxCmd_id hq
  have hctx := ctx_onCtx_same s.mach c q.ctx (·.writeProduct q q.row) hhas.1 hhas.2
  have hlen : c < (s.mach.onCtx c q.ctx (·.writeProduct q q.row)).cores.length := by simpa [Mach.onCtx] using hhas.1
  by_cases hlast : q.row + 1 = q.tile.tile.rows
  · refine ⟨_, s.mach.cycle + 1, exec_mmaRowWrite_last hq hl hrow hdue hlast, commit_mem s _ hout, ?_, ?_⟩
    · have hdropped := (congrArg (·.getD q.ctx .reset) (dropMx_ctxs _ c c id)).trans hctx
      rw [← hdropped]
      refine ctx_onCtx_same _ c q.ctx _ ?_ ?_
      · simpa [Mach.dropMx] using hlen
      · simpa using hhas.2
    · rw [if_pos hlast]
      exact (onCtx_mxCmd _ c c q.ctx id _).trans (mxCmd_dropMx hlen)
  · have hmore : q.row + 1 < q.tile.tile.rows := by omega
    refine ⟨_, ((s.mach.ctx c q.ctx).writeProduct q q.row).mxwFrom,
      exec_mmaRowWrite_next hq hl hrow hdue hmore (hnext.resolve_left hlast), commit_mem s _ hout, ?_, ?_⟩
    · exact (congrArg (·.getD q.ctx .reset) (setMx_ctxs _ c c _)).trans hctx
    · rw [if_neg hlast]
      exact mxCmd_setMx hlen ((onCtx_mxCmd s.mach c c q.ctx id _).trans hq) hid

end Sys2Proof.Machine
end

section
/-!
Commands of the matrix array run (O15), clause by clause.
-/

open Sys2Proof Sys2Proof.Machine

/-- R201, R204, R107, R262: the three steps of a bload, by its state. -/
theorem matrixLoadsFillTheirBuffer : Clauses.MatrixLoadsFillTheirBuffer := by
  intro s c id q hout hc hq
  have hid := mxCmd_id hq
  refine ⟨fun hs hearlier => ?starts, fun hs hfree => ?reads, fun hs hbuf => ?fills⟩
  case starts =>
    exact ⟨_, exec_bloadStart_free hq hs (bloadFree_of_earlier hearlier), commit_mem s _ hout, mxCmd_setMx hc hq hid,
      setMx_ctxs s.mach c c _, mem_agenda_post _ _ (Nat.le_add_right _ _)⟩
  case reads =>
    exact ⟨_, exec_bloadComplete_reading hq hs hfree, commit_bloadRead_mem,
      bloadRead_keeps s.mem s.mach c c q (·.bufs) (fun _ _ => rfl) fun _ _ _ => rfl, bloadRead_mxCmd hout hc hq,
      bloadRead_frees s.mem hc, hid ▸ bloadRead_agenda s.mem s.mach c q,
      bloadRead_keeps s.mem s.mach c c q (·.ctxs) (fun _ _ => rfl) fun _ _ _ => rfl⟩
  case fills =>
    refine ⟨_, exec_bloadComplete_writing hq hs, commit_mem s _ hout, mxCmd_dropMx (by simpa using hc), ?_,
      (dropMx_ctxs _ c c id).trans (core_onCore_keeps _ c c (·.ctxs) fun _ => rfl)⟩
    refine (congrArg (·.getD q.buf ⟨none, .s4, []⟩) (dropMx_bufs _ c c id)).trans ?_
    rw [core_onCore_same s.mach c _ hc]
    exact getD_modifyAt_same _ q.buf (s.mach.core c).bufs _ hbuf

/-- R204: the three steps of a stream, by its state. -/
theorem matrixStreamsLaunchInOrder : Clauses.MatrixStreamsLaunchInOrder := by
  intro s c id q hout hhas hq _
  have hid := mxCmd_id hq
  refine ⟨fun hs hearlier hread hfree => ?queued, fun hs => ?reading, fun hs hover hring => ?streaming⟩
  case queued =>
    refine ⟨_, exec_mmaLaunch_free hq hs (launchFree_of_earlier hread hearlier) hfree, commit_mem s _ hout,
      mxCmd_setMx hhas.1 hq hid, ?_⟩
    cases q.resolve with
    | none => exact mem_agenda_post _ _ (Nat.le_add_right _ _)
    | some r => exact mem_agenda_post _ _ (Nat.le_add_right _ _)
  case reading =>
    refine ⟨_, exec_mmaLaunch_reading hout hq hs, ?_, ?_, ?_⟩
    · exact congrArg s.mem.writeAll (settleBarriers_out s.mem s.mach _ (by rw [resolved_eq]))
    · refine mxCmd_setMx (r := q) ?_ ?_ hid
      · rw [settleBarriers_cores, resolved_cores_length]
        exact hhas.1
      · rw [settleBarriers_core, resolved_mxCmd, hq]
    · refine (congrArg (·.getD q.ctx .reset) ((setMx_ctxs _ c c _).trans (congrArg Core.ctxs (settleBarriers_core _ _ _ c)))).trans ?_
      refine (resolved_ctx hhas).trans ?_
      cases q.resolve with
      | none => rfl
      | some r => rfl
  case streaming =>
    have hsame : s.mach.retireReads c q = s.mach := by rw [Mach.retireReads, hring]
    refine ⟨_, exec_aReadRetirement_over hq hs hover, ?_⟩
    rw [hsame]
    exact ⟨commit_mem s _ hout, mxCmd_setMx hhas.1 hq hid, congrArg (·.getD q.ctx .reset) (setMx_ctxs s.mach c c _)⟩

/-- R202, R204, R66, R67: the row is that of the products, cell by cell. -/
theorem matrixRowsHoldTheProducts : Clauses.MatrixRowsHoldTheProducts := by
  intro s c id q hout hhas hq hl hrow hdue hnext x T old col
  obtain ⟨u, n, hexec, hmem, hctx, hcmd⟩ := exec_mmaRowWrite_due hout hhas hq hl hrow hdue hnext
  have hacc : (u.mach.ctx c q.ctx).acc = (x.writeProduct q q.row).acc := by rw [hctx]
  have hkept : { (u.mach.ctx c q.ctx) with acc := x.acc, tl := x.tl, csw := x.csw, mxwFrom := x.mxwFrom } = x := by
    rw [hctx]
    exact congrArg (fun y : Ctx => { y with mxwFrom := x.mxwFrom }) (writeProduct_keeps x q q.row)
  refine ⟨u, (q.product x q.row).1, hexec, hmem, hacc.trans (writeProduct_acc x q q.row), (congrArg Ctx.g hkept :),
    (congrArg Ctx.p hkept :), (congrArg Ctx.v hkept :), (congrArg Ctx.fv hkept :), hcmd, fun hin hwide hcol => ?length,
    fun hf hd hb j hj => ?int, fun hf j hj => ?float⟩
  case length =>
    have hrowT : q.row < T.rows := hrow
    exact (length_product q x q.row).trans (length_tileRow (show T.row0 + q.row < x.acc.length by omega) hwide hcol)
  case int =>
    rw [getD_product q x q.row j hj, aRow_i8 hf hd, bColumn_i8 hb, cell_i8 hf, ← sum_products_eq_zip _ _ (List.length_take_le 256 _),
      upFrom_eq_range', ← List.range_eq_range', List.sum_eq_foldl]
  case float =>
    rw [getD_product q x q.row j hj, cell_float hf]

/-- Settles O15: a bload and a stream step by step, and a row cell by cell. -/
theorem matrixCommandsRun : Obligations.MatrixCommandsRun :=
  ⟨matrixLoadsFillTheirBuffer, matrixStreamsLaunchInOrder, matrixRowsHoldTheProducts⟩
end

section
/-!
SUPPORT. What a change of the context at issue, a posted event and a host request leave of the machine, and what becomes of the context itself
(spec/06_ordering.md R111, R113).
-/

namespace Sys2Proof.Machine

/-- The context at issue after a change of it. -/
theorem me_onMe {m : Mach} (f : Ctx → Ctx) (h : m.Placed) : (m.onMe f).me = f m.me := ctx_onCtx_same m _ _ f h.1 h.2

/-- A change of the context at issue leaves the slot of a context that the machine has. -/
theorem placed_onMe {m : Mach} (f : Ctx → Ctx) (h : m.Placed) : (m.onMe f).Placed := by
  refine ⟨(length_modifyAt _ _ _).symm ▸ h.1, ?_⟩
  show m.issue.ctx < ((m.onCore m.issue.core (·.onCtx m.issue.ctx f)).core m.issue.core).ctxs.length
  rw [core_onCore_same m _ _ h.1]
  exact (length_modifyAt _ _ _).symm ▸ h.2

/-- What is kept from one machine to the next and from that to a third is kept from the first to the third. -/
theorem Mach.Kept.trans {m m1 m2 : Mach} {c k : Nat} (h : m.Kept m1 c k) (h' : m1.Kept m2 c k) : m.Kept m2 c k := by
  obtain ⟨hout, hcore, hctx⟩ := h
  obtain ⟨hout', hcore', hctx'⟩ := h'
  exact ⟨hout'.trans hout, fun d hd => (hcore' d hd).trans (hcore d hd), fun j hj => (hctx' j hj).trans (hctx j hj)⟩

/-- Where the cores and the bytes written stay, all is kept. -/
theorem Mach.kept_of_cores {m m' : Mach} (hout : m'.out = m.out) (h : m'.cores = m.cores) (c k : Nat) : m.Kept m' c k := by
  refine ⟨hout, fun d _ => ?_, fun j _ => ?_⟩ <;> simp only [Mach.ctx, Mach.core, h]

/-- A change of the context at issue keeps every other. -/
theorem kept_onMe (m : Mach) (f : Ctx → Ctx) : m.Kept (m.onMe f) m.issue.core m.issue.ctx :=
  ⟨rfl, fun d hd => core_onCore_other m _ d _ hd, fun j hj => ctx_onCtx_other m _ _ _ j f (.inr hj)⟩

/-- Posting an event keeps every context. -/
theorem kept_post (m : Mach) (t c k : Nat) (e : Event) : m.Kept (m.post t e) c k := Mach.kept_of_cores rfl rfl c k

/-- A request that joins the host channel touches the channel and the agenda alone. -/
theorem joinHost_eq (m : Mach) (q : HostReq) : m.joinHost q = { m with host := m.host ++ [q], agenda := (m.joinHost q).agenda } := by
  simp only [Mach.joinHost]
  split <;> rfl

/-- A request joins the tail of the host channel. -/
@[simp] theorem joinHost_host (m : Mach) (q : HostReq) : (m.joinHost q).host = m.host ++ [q] := by rw [joinHost_eq]

/-- A request that joins the host channel leaves the context at issue. -/
@[simp] theorem joinHost_me (m : Mach) (q : HostReq) : (m.joinHost q).me = m.me := by rw [joinHost_eq]; rfl

/-- A request that joins the host channel keeps every context. -/
theorem kept_joinHost (m : Mach) (q : HostReq) (c k : Nat) : m.Kept (m.joinHost q) c k :=
  Mach.kept_of_cores (by rw [joinHost_eq]) (by rw [joinHost_eq]) c k

end Sys2Proof.Machine
end

section
/-!
SUPPORT. Planning an access (spec/05_memory_spaces.md R99, R100) and what loads leave in their context (spec/11_ops_memory_engines.md R219 to
R222).
-/

namespace Sys2Proof.Machine

/-! ## Addresses that no access reaches -/

section
variable (m : Mach) {a : Word} {size align : Nat} (store : Bool)

/-- An address in no window of memory raises XLATE with detail 3. -/
theorem planAccess_unassigned (h : windowOf a.toNat = .unassigned ∨ windowOf a.toNat = .code) :
    planAccess m a size align store = .error (.raise (trap5 .xlate 3 a.toNat)) := by
  rcases h with h | h <;> simp only [planAccess, h, xlate]

/-- A misaligned address raises ALIGN. -/
theorem planAccess_misaligned (hu : windowOf a.toNat ≠ .unassigned) (hc : windowOf a.toNat ≠ .code) (h : a.toNat % align ≠ 0) :
    planAccess m a size align store = .error (.raise (trap5 .align 0 a.toNat)) := by
  cases hw : windowOf a.toNat with
  | unassigned => exact absurd hw hu
  | code => exact absurd hw hc
  | vault | hbm | host => simp only [planAccess, hw, if_pos h, alignFault]

end

/-- A trap of an address carries the address. -/
@[simp] theorem trap5_addr (cause : Cause) (detail : Nat) (a : Word) : (trap5 cause detail a.toNat).addr = a := BitVec.ofNat_toNat 64 a

/-! ## Noting a load -/

/-- A load joins the list of its context. -/
def Mach.noteLoad (m : Mach) (l : LoadOut) : Mach := m.newId.2.onMe fun x => { x with loads := x.loads ++ [l] }

/-- A load joins the list of its context, and lu.res awaits its value (R220). -/
def Mach.awaitLoad (m : Mach) (l : LoadOut) : Mach := (m.noteLoad l).awaitResult .lu l.tag

/-- A wide load joins the list of its context, and lanes of a v register are to land (R222). -/
def Mach.landLoad (m : Mach) (l : LoadOut) (d : Nat) (lanes : List (Option Cell)) : Mach :=
  m.newId.2.onMe fun x => { x with loads := x.loads ++ [l], landing := x.landing ++ [⟨l.tag, .v d lanes⟩] }

theorem me_awaitLoad {m : Mach} (l : LoadOut) (h : m.Placed) : (m.awaitLoad l).me =
    { m.me with loads := m.me.loads ++ [l], ports := { m.me.ports with lu := { m.me.ports.lu with tag := some l.tag } } } := by
  have hnote : (m.noteLoad l).me = { m.me with loads := m.me.loads ++ [l] } := me_onMe (m := m.newId.2) _ h
  refine (me_onMe (m := m.noteLoad l) _ (placed_onMe (m := m.newId.2) _ h)).trans ?_
  rw [hnote]
  rfl

theorem me_landLoad {m : Mach} (l : LoadOut) (d : Nat) (lanes : List (Option Cell)) (h : m.Placed) : (m.landLoad l d lanes).me =
    { m.me with loads := m.me.loads ++ [l], landing := m.me.landing ++ [⟨l.tag, .v d lanes⟩] } := me_onMe (m := m.newId.2) _ h

/-- Noting a load keeps every other context. -/
theorem kept_awaitLoad (m : Mach) (l : LoadOut) : m.Kept (m.awaitLoad l) m.issue.core m.issue.ctx :=
  (kept_onMe m.newId.2 _).trans (kept_onMe (m.noteLoad l) _)

/-- Noting a wide load keeps every other context. -/
theorem kept_landLoad (m : Mach) (l : LoadOut) (d : Nat) (lanes : List (Option Cell)) :
    m.Kept (m.landLoad l d lanes) m.issue.core m.issue.ctx := kept_onMe m.newId.2 _

/-- A fresh number does not change what a load reads. -/
@[simp] theorem loadBytes_newId (mem : Memory) (m : Mach) (x : Ctx) (keys : List Nat) :
    loadBytes mem m.newId.2 x keys = loadBytes mem m x keys := by
  have hbyte : loadByte mem m.newId.2 x = loadByte mem m x := rfl
  induction keys with
  | nil => rfl
  | cons key rest ih => simp only [loadBytes, hbyte, ih]

/-! ## Scalar loads -/

section
variable {mem : Memory} {m : Mach} {acc : Access} (size : Nat) (signed : Bool)
variable (hroom : m.me.loads.length < 16) (hfree : m.myCore.engineTouches m.issue.ctx acc.keys = false)
include hroom hfree

/-- A local load takes its bytes, and its value arrives after the figure of the access (R112). -/
theorem startLoad_local {bs : List Byte} (hloc : acc.isLocal = true) (hfown : m.me.fownHolds = false)
    (hbar : acc.keys.any isBarrierKey = false) (hbs : loadBytes mem m m.me acc.keys = .ok bs) :
    startLoad mem m acc size signed = .ok
      ((m.awaitLoad ⟨m.newId.1, some (loadValue signed bs), acc.keys, size, signed, false⟩).post (m.cycle + acc.cycles)
        (.loadResultArrive m.issue.core m.issue.ctx m.newId.1 (loadValue signed bs))) := by
  simp only [startLoad, Ctx.loadsFull, Nat.not_le.mpr hroom, decide_false, hfree, hloc, hfown, hbar, Bool.false_eq_true, if_false,
    Bool.not_true, loadBytes_newId, hbs, ok_bind]
  rfl

/-- A load of the barrier area reads when the figure of the access is over (R126). -/
theorem startLoad_barrier (hloc : acc.isLocal = true) (hfown : m.me.fownHolds = false) (hbar : acc.keys.any isBarrierKey = true)
    (hown : m.me.ownTouches acc.keys = false) : startLoad mem m acc size signed = .ok
      ((m.awaitLoad ⟨m.newId.1, none, acc.keys, size, signed, false⟩).post (m.cycle + acc.cycles)
        (.loadResultArrive m.issue.core m.issue.ctx m.newId.1 0)) := by
  simp only [startLoad, Ctx.loadsFull, Nat.not_le.mpr hroom, decide_false, hfree, hloc, hfown, hbar, hown, Bool.false_eq_true, if_false,
    Bool.not_true, if_true]
  rfl

/-- A load of the host window joins the host channel (R113). -/
theorem startLoad_host (hloc : acc.isLocal = false) : startLoad mem m acc size signed = .ok
    ((m.awaitLoad ⟨m.newId.1, none, acc.keys, size, signed, false⟩).joinHost ⟨m.newId.1, m.issue.core, m.issue.ctx,
      (m.me.unit.map (·.uid)).getD 0, m.newId.1, [], acc.keys, true, none, size, signed, none, acc.sa, some m.newId.1,
      m.cycle + acc.cycles, 0⟩) := by
  simp only [startLoad, Ctx.loadsFull, Nat.not_le.mpr hroom, decide_false, hfree, hloc, Bool.false_eq_true, if_false, Bool.not_false,
    if_true]
  rfl

end

/-! ## The frames of loads -/

section
variable {m : Mach} {a : Word} (code : Nat) (f : Val → Val → Mach → Except Stop Mach)

/-- A trigger on an address and a word. -/
theorem with2_address_word {d : Word} (ha : m.Holds .luA (.word a)) (hd : m.Holds .luD (.word d)) :
    with2 code .luA .luD Val.isWord Val.isWord m f = f (.word a) (.word d) (m.taken [.luA, .luD]) :=
  with2_holds code f ha hd (by decide) rfl rfl

/-- A trigger on an address and a v register. -/
theorem with2_address_vreg {d : Nat} (ha : m.Holds .luA (.word a)) (hd : m.Holds .luD (.ref .v d)) :
    with2 code .luA .luD Val.isWord (Val.isRef .v) m f = f (.word a) (.ref .v d) (m.taken [.luA, .luD]) :=
  with2_holds code f ha hd (by decide) rfl rfl

end

section
variable {o : TOp} {s : State} {t a : Word} {m : Mach} (code : Nat) {size align : Nat}

/-- A scalar load plans its access and starts. -/
theorem luLoad_moves (signed : Bool) (h : s.Moves o (.word t) m) (ha : m.Holds .luA (.word a)) : luLoad code size signed o s =
    endSlot s (planAccess (m.taken [.luA]) (a + t) size size false >>= fun r => startLoad s.mem r.2 r.1 size signed) := by
  rw [luLoad, triggerW_moves _ h, with1_holds code _ ha (show Val.isWord (.word a) = true from rfl)]
  rfl

/-- A scalar load whose access cannot be planned stops. -/
theorem luLoad_raises {tr : Trap} (signed : Bool) (h : s.Moves o (.word t) m) (ha : m.Holds .luA (.word a))
    (hp : planAccess (m.taken [.luA]) (a + t) size size false = .error (.raise tr)) :
    luLoad code size signed o s = .next (s.raised tr) := by
  rw [luLoad_moves code signed h ha, hp, error_bind, endSlot_raise]

/-- A scalar load whose access is planned starts. -/
theorem luLoad_planned {acc : Access} {m2 m3 : Mach} (signed : Bool) (h : s.Moves o (.word t) m) (ha : m.Holds .luA (.word a))
    (hp : planAccess (m.taken [.luA]) (a + t) size size false = .ok (acc, m2))
    (hstart : startLoad s.mem m2 acc size signed = .ok m3) : luLoad code size signed o s = .next (s.did m3) := by
  rw [luLoad_moves code signed h ha, hp, ok_bind, hstart, endSlot_ok]

end

section
variable {o : TOp} {s : State} {t a : Word} {m m2 : Mach} {d : Nat} {acc : Access} (code : Nat) {size align : Nat}
variable (h : s.Moves o (.word t) m) (ha : m.Holds .luA (.word a)) (hd : m.Holds .luD (.ref .v d))
variable (hp : planAccess (m.taken [.luA, .luD]) (a + t) size align false = .ok (acc, m2)) (hroom : m2.me.loads.length < 16)
variable (hdst : m2.me.outstanding (.ref .v d) = false) (hfree : m2.myCore.engineTouches m2.issue.ctx acc.keys = false)
include h ha hd hp hroom hdst hfree

/-- A wide load of local memory takes its bytes, and they land 4 cycles after the figure of the access (R222). -/
theorem luLoadWide_local {bs : List Byte} (hloc : acc.isLocal = true) (hfown : m2.me.fownHolds = false)
    (hbar : acc.keys.any isBarrierKey = false) (hbs : loadBytes s.mem m2 m2.me acc.keys = .ok bs) :
    luLoadWide code size align o s = .next (s.did ((m2.landLoad ⟨m2.newId.1, some 0, acc.keys, size, false, false⟩ d (lanesFrom bs)).post
      (m2.cycle + acc.cycles + 4) (.vuResultLand m2.issue.core m2.issue.ctx m2.newId.1))) := by
  rw [luLoadWide, triggerW_moves _ h, with2_address_vreg code _ ha hd]
  simp only [effective, Val.w, hp, ok_bind, Ctx.loadsFull, Nat.not_le.mpr hroom, decide_false, hdst, hfree, hloc, hfown, hbar,
    Bool.false_eq_true, if_false, if_true, Bool.or_false, Bool.and_false, loadBytes_newId, hbs, endSlot_ok]
  rfl

/-- A wide load of the barrier area reads when the figure of the access is over (R126). -/
theorem luLoadWide_barrier (hloc : acc.isLocal = true) (hfown : m2.me.fownHolds = false) (hbar : acc.keys.any isBarrierKey = true)
    (hown : m2.me.ownTouches acc.keys = false) : luLoadWide code size align o s = .next (s.did
      ((m2.landLoad ⟨m2.newId.1, none, acc.keys, size, false, false⟩ d (List.replicate 256 none)).post (m2.cycle + acc.cycles)
        (.loadResultArrive m2.issue.core m2.issue.ctx m2.newId.1 0))) := by
  rw [luLoadWide, triggerW_moves _ h, with2_address_vreg code _ ha hd]
  simp only [effective, Val.w, hp, ok_bind, Ctx.loadsFull, Nat.not_le.mpr hroom, decide_false, hdst, hfree, hloc, hfown, hbar, hown,
    Bool.false_eq_true, if_false, if_true, Bool.or_false, Bool.and_false, endSlot_ok]
  rfl

/-- A wide load of the host window joins the host channel (R113). -/
theorem luLoadWide_host (hloc : acc.isLocal = false) (hbar : acc.keys.any isBarrierKey = false) :
    luLoadWide code size align o s = .next (s.did
      ((m2.landLoad ⟨m2.newId.1, none, acc.keys, size, false, false⟩ d (List.replicate 256 none)).joinHost
        ⟨m2.newId.1, m2.issue.core, m2.issue.ctx, (m2.me.unit.map (·.uid)).getD 0, m2.newId.1, [], acc.keys, true,
          some ⟨m2.newId.1, .v d (List.replicate 256 none)⟩, size, false, none, acc.sa, none, m2.cycle + acc.cycles, 0⟩)) := by
  rw [luLoadWide, triggerW_moves _ h, with2_address_vreg code _ ha hd]
  simp only [effective, Val.w, hp, ok_bind, Ctx.loadsFull, Nat.not_le.mpr hroom, decide_false, hdst, hfree, hloc, hbar,
    Bool.false_eq_true, if_false, Bool.or_false, Bool.false_and, endSlot_ok]
  rfl

end

end Sys2Proof.Machine
end

section
/-!
SUPPORT. Stores and atomics (spec/06_ordering.md R111, R131; spec/11_ops_memory_engines.md R219 to R224): the entry that joins the
pending-store queue or the request that joins the host channel.
-/

namespace Sys2Proof.Machine

/-! ## The pieces of a store -/

/-- The pieces of a store hold its bytes, in order (R130). -/
theorem flatten_piecesOf (granule : Nat) (l : List (Nat × Nat × Byte)) : (piecesOf granule l).flatten = l.map (·.2) := by
  induction l with
  | nil => rfl
  | cons x rest ih =>
    simp only [piecesOf]
    split
    · next hp =>
      rw [hp] at ih
      split <;> simpa using ih
    · simpa using ih

/-- The pieces of a store of bytes from an address on, byte by byte. -/
theorem flatten_piecesOf_zip (granule a : Nat) (keys : List Nat) (bs : List Byte) :
    (piecesOf granule ((upFrom a bs.length).zip (keys.zip bs))).flatten = keys.zip bs := by
  rw [flatten_piecesOf, List.map_snd_zip]
  rw [List.length_zip, length_upFrom]
  exact Nat.min_le_right _ _

/-! ## Joining the pending-store queue -/

/-- The context whose store joins its pending-store queue. -/
theorem me_joinPending {m : Mach} (e : StoreEntry) (h : m.Placed) : (m.joinPending e).me = { m.me with pend := m.me.pend ++ [e] } :=
  me_onMe (m := m) _ h

/-- A store that joins its queue keeps every other context. -/
theorem kept_joinPending (m : Mach) (e : StoreEntry) : m.Kept (m.joinPending e) m.issue.core m.issue.ctx :=
  (kept_onMe m _).trans (kept_post _ _ _ _ _)

section
variable {m : Mach} {acc : Access} (addr : Word) (bs : List Byte)

/-- A local store joins the tail of the pending-store queue. -/
theorem storeBytes_local (hfree : m.myCore.engineTouches m.issue.ctx acc.keys = false) (hloc : acc.isLocal = true)
    (hroom : m.me.pend.length + m.me.buffer.length < 16) : storeBytes m addr acc bs = .ok (m.newId.2.joinPending
      ⟨m.newId.1, acc.keys, piecesOf 16 ((upFrom addr.toNat bs.length).zip (acc.keys.zip bs)), none, none, false, m.cycle + acc.cycles, false,
        acc.st⟩) := by
  simp only [storeBytes, hfree, hloc, Ctx.storesFull, Nat.not_le.mpr hroom, decide_false, Bool.false_and, Bool.false_eq_true, if_false, if_true]
  rfl

/-- A store to the host window joins the host channel. -/
theorem storeBytes_host (hfree : m.myCore.engineTouches m.issue.ctx acc.keys = false) (hloc : acc.isLocal = false) :
    storeBytes m addr acc bs = .ok (m.newId.2.joinHost ⟨m.newId.1, m.issue.core, m.issue.ctx, (m.me.unit.map (·.uid)).getD 0, m.newId.1,
      piecesOf 8 ((upFrom addr.toNat bs.length).zip (acc.keys.zip bs)), acc.keys, false, none, bs.length, false, none, acc.sa, none,
      m.cycle + acc.cycles, 0⟩) := by
  simp only [storeBytes, hfree, hloc, Bool.and_false, Bool.false_eq_true, if_false]
  rfl

end

/-! ## The frames of stores -/

section
variable {o : TOp} {s : State} {t a : Word} {m m2 m3 : Mach} {acc : Access} (code : Nat) {size align : Nat}

/-- A scalar store whose access is planned issues with the low bytes of d. -/
theorem luStore_planned {d : Word} (h : s.Moves o (.word t) m) (ha : m.Holds .luA (.word a)) (hd : m.Holds .luD (.word d))
    (hp : planAccess (m.taken [.luA, .luD]) (a + t) size size true = .ok (acc, m2))
    (hstore : storeBytes m2 (a + t) acc (bytesLE size d.toNat) = .ok m3) : luStore code size o s = .next (s.did m3) := by
  rw [luStore, triggerW_moves _ h, with2_address_word code _ ha hd]
  simp only [effective, Val.w, hp, ok_bind, hstore, endSlot_ok]

/-- A wide store whose access is planned issues with the bytes of the lanes of its register. -/
theorem luStoreWide_planned {d : Nat} (h : s.Moves o (.word t) m) (ha : m.Holds .luA (.word a)) (hd : m.Holds .luD (.ref .v d))
    (hp : planAccess (m.taken [.luA, .luD]) (a + t) size align true = .ok (acc, m2)) (hsrc : m2.me.outstanding (.ref .v d) = false)
    (hstore : storeBytes m2 (a + t) acc ((laneBytes (m2.me.vreg d)).take size) = .ok m3) :
    luStoreWide code size align o s = .next (s.did m3) := by
  rw [luStoreWide, triggerW_moves _ h, with2_address_vreg code _ ha hd]
  simp only [effective, Val.w, Val.idx, hp, ok_bind, hsrc, Bool.false_eq_true, if_false, hstore, endSlot_ok]

end

/-! ## Atomics -/

/-- The machine with what an atomic leaves before it joins its queue: all but a red await a result in lu.res (R224). -/
def Mach.awaitAtomic (m : Mach) (a : Atomic) : Mach :=
  if a.kind = .red then m.newId.2 else m.awaitLoad ⟨m.newId.1, none, [], typeSize a.type, false, a.acquires⟩

/-- The tag by which an atomic's result is known, none for a red. -/
def Mach.atomicTag (m : Mach) (a : Atomic) : Option Nat := if a.kind = .red then none else some m.newId.1

section
variable {m : Mach} (a : Atomic)

theorem placed_awaitAtomic (h : m.Placed) : (m.awaitAtomic a).Placed := by
  unfold Mach.awaitAtomic
  split
  · exact h
  · exact placed_onMe (m := m.noteLoad _) _ (placed_onMe (m := m.newId.2) _ h)

theorem kept_awaitAtomic : m.Kept (m.awaitAtomic a) m.issue.core m.issue.ctx := by
  unfold Mach.awaitAtomic
  split
  · exact Mach.kept_of_cores rfl rfl _ _
  · exact kept_awaitLoad m _

@[simp] theorem awaitAtomic_issue : (m.awaitAtomic a).issue = m.issue := by
  unfold Mach.awaitAtomic
  split <;> rfl

@[simp] theorem awaitAtomic_host : (m.awaitAtomic a).host = m.host := by
  unfold Mach.awaitAtomic
  split <;> rfl

/-- An atomic that joins its queue keeps every other context. -/
theorem kept_joinAtomic (e : StoreEntry) : m.Kept ((m.awaitAtomic a).joinPending e) m.issue.core m.issue.ctx :=
  (kept_awaitAtomic a).trans (by simpa using kept_joinPending (m.awaitAtomic a) e)

/-- An atomic leaves the pending-store queue until it joins it. -/
theorem awaitAtomic_pend (h : m.Placed) : (m.awaitAtomic a).me.pend = m.me.pend := by
  unfold Mach.awaitAtomic
  split
  · rfl
  · rw [me_awaitLoad _ h]

/-- All but a red await a result in lu.res. -/
theorem awaitAtomic_lu (h : m.Placed) (hk : a.kind ≠ .red) : (m.awaitAtomic a).me.ports.lu.tag = m.atomicTag a := by
  rw [Mach.awaitAtomic, Mach.atomicTag, if_neg hk, if_neg hk, me_awaitLoad _ h]

variable {acc : Access} (hfree : m.myCore.engineTouches m.issue.ctx acc.keys = false) (hloads : m.me.loads.length < 16)
include hfree hloads

/-- A local atomic joins the tail of the pending-store queue. -/
theorem startAtomic_local (hloc : acc.isLocal = true) (hroom : m.me.pend.length + m.me.buffer.length < 16) :
    startAtomic m acc a = .ok ((m.awaitAtomic a).joinPending
      ⟨m.newId.1, acc.keys, [], some a, m.atomicTag a, a.releases, m.cycle + acc.cycles, false, acc.st⟩) := by
  have hfull : m.me.loadsFull = false := decide_eq_false (Nat.not_le.mpr hloads)
  have hstores : m.me.storesFull = false := decide_eq_false (Nat.not_le.mpr hroom)
  simp only [startAtomic, hfree, hfull, hstores, hloc, Bool.and_false, Bool.or_false, Bool.false_eq_true, if_false, if_true]
  by_cases hk : a.kind = .red
  · simp only [Mach.awaitAtomic, Mach.atomicTag, hk, bne_self_eq_false, Bool.false_eq_true, if_false, if_true]
    rfl
  · simp only [Mach.awaitAtomic, Mach.atomicTag, bne_iff_ne.mpr hk, if_neg hk, if_true]
    rfl

/-- An atomic of the host window joins the host channel. -/
theorem startAtomic_host (hloc : acc.isLocal = false) : startAtomic m acc a = .ok ((m.awaitAtomic a).joinHost
    ⟨m.newId.1, m.issue.core, m.issue.ctx, (m.me.unit.map (·.uid)).getD 0, m.newId.1, [], acc.keys, false, none, typeSize a.type, false,
      some a, acc.sa, m.atomicTag a, m.cycle + acc.cycles, 0⟩) := by
  have hfull : m.me.loadsFull = false := decide_eq_false (Nat.not_le.mpr hloads)
  simp only [startAtomic, hfree, hfull, hloc, Bool.and_false, Bool.false_and, Bool.or_false, Bool.false_eq_true, if_false]
  by_cases hk : a.kind = .red
  · simp only [Mach.awaitAtomic, Mach.atomicTag, hk, bne_self_eq_false, Bool.false_eq_true, if_false, if_true]
    rfl
  · simp only [Mach.awaitAtomic, Mach.atomicTag, bne_iff_ne.mpr hk, if_neg hk, if_true]
    rfl

end

/-! ## The frame of an atomic -/

/-- Two operations one after the other, where both succeed. -/
theorem bind_of_ok {ε α β : Type} {x : Except ε α} {f : α → Except ε β} {a : α} {b : β} (h : x = .ok a) (hf : f a = .ok b) :
    (x >>= f) = .ok b := by rw [h, ok_bind, hf]

/-- The latches that an atomic takes. -/
def atomicLatches (withB : Bool) : List Latch := if withB then [.luA, .luD, .luB] else [.luA, .luD]

section
variable {o : TOp} {s : State} {t a d b : Word} {m m2 m3 : Mach} {acc : Access} (code : Nat) {kind : AtomKind} {withB : Bool}

/-- An atomic whose fields are refused raises ILLBUNDLE. -/
theorem luAtomic_refused (h : s.Moves o (.word t) m) (hl : (atomicOf kind t 0 0).legal = false) :
    luAtomic code kind withB o s = .next (s.raised ⟨.illBundle, 0, 0, 1, false, false⟩) := by
  rw [luAtomic, triggerW_moves _ h]
  simp only [hl, Bool.not_false, if_true, illBundle, endSlot_raise]

/-- An atomic whose access is planned starts, with the scope that its address gives it (R120). -/
theorem luAtomic_planned (h : s.Moves o (.word t) m) (hl : (atomicOf kind t 0 0).legal = true) (ha : m.Holds .luA (.word a))
    (hd : m.Holds .luD (.word d)) (hb : if withB then m.Holds .luB (.word b) else b = 0) (hw : kind = .hnd → windowOf a.toNat = .hbm)
    (hp : planAccess (m.taken (atomicLatches withB)) a (typeSize (bits t 6 4)) (typeSize (bits t 6 4)) true = .ok (acc, m2))
    (hstart : startAtomic m2 acc { atomicOf kind t d b with scope := widenScope m2.issue.core a.toNat (bits t 9 8) } = .ok m3) :
    luAtomic code kind withB o s = .next (s.did m3) := by
  have hwindow : ¬ (kind = .hnd ∧ windowOf a.toNat ≠ .hbm ∧ windowOf a.toNat ≠ .unassigned ∧ windowOf a.toNat ≠ .code) :=
    fun hbad => hbad.2.1 (hw hbad.1)
  rw [luAtomic, triggerW_moves _ h]
  cases withB with
  | true =>
    rw [if_pos rfl] at hb
    simp only [hl, Bool.not_true, Bool.false_eq_true, if_false, if_true,
      with3_holds code _ ha hd hb (by decide) (by decide) (by decide) (show Val.isWord (.word a) = true from rfl)
        (show Val.isWord (.word d) = true from rfl) (show Val.isWord (.word b) = true from rfl)]
    refine (congrArg (endSlot s) ((if_neg hwindow).trans ?_)).trans (endSlot_ok s m3)
    exact bind_of_ok hp hstart
  | false =>
    rw [if_neg Bool.false_ne_true] at hb
    subst hb
    simp only [hl, Bool.not_true, Bool.false_eq_true, if_false, with2_address_word code _ ha hd]
    refine (congrArg (endSlot s) ((if_neg hwindow).trans ?_)).trans (endSlot_ok s m3)
    exact bind_of_ok hp hstart

end

end Sys2Proof.Machine
end

section
/-!
Loads, stores and atomics issue (O19), clause by clause.
-/

open Sys2Proof Sys2Proof.Machine

/-! ## The frame of each instruction -/

/-- R221: each scalar load is the load of its size and extension. -/
theorem exec_scalarLoads : ∀ e ∈ ([(Instr.luLdb, 1, false), (Instr.luLdh, 2, false), (Instr.luLdw, 4, false), (Instr.luLdd, 8, false),
    (Instr.luLdsb, 1, true), (Instr.luLdsh, 2, true), (Instr.luLdsw, 4, true)] : List ((TOp → Instr) × Nat × Bool)),
    ∃ code, ∀ o s, exec (e.1 o) s = luLoad code e.2.1 e.2.2 o s := by
  simp only [List.forall_mem_cons]
  exact ⟨⟨0x1C3, fun _ _ => rfl⟩, ⟨0x1C4, fun _ _ => rfl⟩, ⟨0x1C5, fun _ _ => rfl⟩, ⟨0x1C6, fun _ _ => rfl⟩, ⟨0x1C7, fun _ _ => rfl⟩,
    ⟨0x1C8, fun _ _ => rfl⟩, ⟨0x1C9, fun _ _ => rfl⟩, List.forall_mem_nil _⟩

/-- R222: each wide load is the load of its size and alignment. -/
theorem exec_wideLoads : ∀ e ∈ ([(Instr.luLdq, 16, 8), (Instr.luLdv, 1024, 16)] : List ((TOp → Instr) × Nat × Nat)),
    ∃ code, ∀ o s, exec (e.1 o) s = luLoadWide code e.2.1 e.2.2 o s := by
  simp only [List.forall_mem_cons]
  exact ⟨⟨0x1CE, fun _ _ => rfl⟩, ⟨0x1D0, fun _ _ => rfl⟩, List.forall_mem_nil _⟩

/-- R221: each scalar store is the store of its size. -/
theorem exec_scalarStores : ∀ e ∈ ([(Instr.luStb, 1), (Instr.luSth, 2), (Instr.luStw, 4), (Instr.luStd, 8)] : List ((TOp → Instr) × Nat)),
    ∃ code, ∀ o s, exec (e.1 o) s = luStore code e.2 o s := by
  simp only [List.forall_mem_cons]
  exact ⟨⟨0x1CA, fun _ _ => rfl⟩, ⟨0x1CB, fun _ _ => rfl⟩, ⟨0x1CC, fun _ _ => rfl⟩, ⟨0x1CD, fun _ _ => rfl⟩, List.forall_mem_nil _⟩

/-- R222: each wide store is the store of its size and alignment. -/
theorem exec_wideStores : ∀ e ∈ ([(Instr.luStq, 16, 8), (Instr.luStv, 1024, 16)] : List ((TOp → Instr) × Nat × Nat)),
    ∃ code, ∀ o s, exec (e.1 o) s = luStoreWide code e.2.1 e.2.2 o s := by
  simp only [List.forall_mem_cons]
  exact ⟨⟨0x1CF, fun _ _ => rfl⟩, ⟨0x1D1, fun _ _ => rfl⟩, List.forall_mem_nil _⟩

/-- R224: each atomic is the atomic of its kind. -/
theorem exec_atomics : ∀ e ∈ ([(Instr.luAmo, .amo, false), (Instr.luCas, .cas, true), (Instr.luFamo, .famo, false), (Instr.luRed, .red, false),
    (Instr.luHnd, .hnd, true)] : List ((TOp → Instr) × AtomKind × Bool)),
    ∃ code, ∀ o s, exec (e.1 o) s = luAtomic code e.2.1 e.2.2 o s := by
  simp only [List.forall_mem_cons]
  exact ⟨⟨0x1D2, fun _ _ => rfl⟩, ⟨0x1D3, fun _ _ => rfl⟩, ⟨0x1D4, fun _ _ => rfl⟩, ⟨0x1D5, fun _ _ => rfl⟩, ⟨0x1D6, fun _ _ => rfl⟩,
    List.forall_mem_nil _⟩

/-! ## The clauses -/

/-- R219 to R222, R112, R126: the frame of each load, then where its bytes lie. -/
theorem loadsTakeTheirBytesAndWait : Clauses.LoadsTakeTheirBytesAndWait := by
  refine ⟨fun e he o s t a m m1 h _ ha hm1 => ?scalar,
    fun e he o s t a m m1 m2 d acc h _ ha hd hm1 hplan hplaced2 hissue hroom hdst hfree => ?wide⟩
  case scalar =>
    obtain ⟨code, hexec⟩ := exec_scalarLoads e he
    subst hm1
    refine ⟨fun hw => ?_, fun hu hc hmis => ?_, fun acc m2 hplan hroom hfree hplaced2 hissue => ?planned⟩
    · exact ⟨_, rfl, rfl, trap5_addr _ _ _, (hexec o s).trans (luLoad_raises code _ h ha (planAccess_unassigned _ _ hw))⟩
    · exact ⟨_, rfl, trap5_addr _ _ _, (hexec o s).trans (luLoad_raises code _ h ha (planAccess_misaligned _ _ hu hc hmis))⟩
    · rw [← hissue] at hfree ⊢
      refine ⟨fun bs hloc hfown hbar hbs => ?_, fun hloc hfown hbar hown => ?_, fun hloc => ?_⟩
      · exact ⟨_, m2.newId.1, (hexec o s).trans (luLoad_planned code _ h ha hplan (startLoad_local _ _ hroom hfree hloc hfown hbar hbs)),
          (kept_awaitLoad m2 _).trans (kept_post _ _ _ _ _), me_awaitLoad _ hplaced2, mem_agenda_post _ _ (Nat.le_add_right _ _)⟩
      · exact ⟨_, m2.newId.1,
          (hexec o s).trans (luLoad_planned code _ h ha hplan (startLoad_barrier _ _ hroom hfree hloc hfown hbar hown)),
          (kept_awaitLoad m2 _).trans (kept_post _ _ _ _ _), me_awaitLoad _ hplaced2, mem_agenda_post _ _ (Nat.le_add_right _ _)⟩
      · refine ⟨_, _, (hexec o s).trans (luLoad_planned code _ h ha hplan (startLoad_host _ _ hroom hfree hloc)),
          (kept_awaitLoad m2 _).trans (kept_joinHost _ _ _ _), joinHost_host _ _, rfl, rfl, rfl, rfl, ?_⟩
        rw [joinHost_me, me_awaitLoad _ hplaced2]
  case wide =>
    obtain ⟨code, hexec⟩ := exec_wideLoads e he
    subst hm1
    rw [← hissue] at hfree ⊢
    refine ⟨fun bs hloc hfown hbar hbs => ?_, fun hloc hfown hbar hown => ?_, fun hloc hbar => ?_⟩
    · exact ⟨_, m2.newId.1, (hexec o s).trans (luLoadWide_local code h ha hd hplan hroom hdst hfree hloc hfown hbar hbs),
        (kept_landLoad m2 _ _ _).trans (kept_post _ _ _ _ _), me_landLoad _ _ _ hplaced2,
        mem_agenda_post _ _ (Nat.le_add_right_of_le (Nat.le_add_right _ _))⟩
    · exact ⟨_, m2.newId.1, (hexec o s).trans (luLoadWide_barrier code h ha hd hplan hroom hdst hfree hloc hfown hbar hown),
        (kept_landLoad m2 _ _ _).trans (kept_post _ _ _ _ _), me_landLoad _ _ _ hplaced2, mem_agenda_post _ _ (Nat.le_add_right _ _)⟩
    · exact ⟨_, _, (hexec o s).trans (luLoadWide_host code h ha hd hplan hroom hdst hfree hloc hbar),
        (kept_landLoad m2 _ _ _).trans (kept_joinHost _ _ _ _), joinHost_host _ _, rfl, rfl⟩

/-- R219 to R224, R111, R131: the frame of each store and atomic, then the queue that it joins. -/
theorem storesAndAtomicsJoinTheirQueue : Clauses.StoresAndAtomicsJoinTheirQueue := by
  refine ⟨fun e he o s t a d m m1 m2 acc h _ ha hd hm1 hplan hplaced2 hissue hfree _ => ?scalar,
    fun e he o s t a m m1 m2 d acc h _ ha hd hm1 hplan hplaced2 hissue hsrc hfree hloc hroom _ _ => ?wide,
    fun e he o s t a d b m m1 h _ => ?atomic⟩
  case scalar =>
    obtain ⟨code, hexec⟩ := exec_scalarStores e he
    subst hm1
    rw [← hissue] at hfree ⊢
    refine ⟨fun hloc hroom => ?_, fun hloc => ?_⟩
    · exact ⟨_, _, (hexec o s).trans (luStore_planned code h ha hd hplan (storeBytes_local _ _ hfree hloc hroom)),
        kept_joinPending m2.newId.2 _, me_joinPending (m := m2.newId.2) _ hplaced2, rfl, rfl, flatten_piecesOf_zip _ _ _ _⟩
    · exact ⟨_, _, (hexec o s).trans (luStore_planned code h ha hd hplan (storeBytes_host _ _ hfree hloc)),
        kept_joinHost m2.newId.2 _ _ _, joinHost_me m2.newId.2 _, joinHost_host _ _, rfl, flatten_piecesOf_zip _ _ _ _⟩
  case wide =>
    obtain ⟨code, hexec⟩ := exec_wideStores e he
    subst hm1
    rw [← hissue] at hfree ⊢
    exact ⟨_, _, (hexec o s).trans (luStoreWide_planned code h ha hd hplan hsrc (storeBytes_local _ _ hfree hloc hroom)),
      kept_joinPending m2.newId.2 _, me_joinPending (m := m2.newId.2) _ hplaced2, rfl, flatten_piecesOf_zip _ _ _ _⟩
  case atomic =>
    obtain ⟨code, hexec⟩ := exec_atomics e he
    refine ⟨fun hl => ⟨_, rfl, (hexec o s).trans (luAtomic_refused code h hl)⟩,
      fun hl ha hd hb hm1 hw acc m2 hplan hplaced2 hissue hloads hroom hfree => ?_⟩
    subst hm1
    rw [← hissue] at hfree ⊢
    intro at_
    have hstarts {m3 : Mach} (hstart : startAtomic m2 acc at_ = .ok m3) : exec (e.1 o) s = .next (s.did m3) :=
      (hexec o s).trans (luAtomic_planned code h hl ha hd hb hw hplan hstart)
    have hplaced3 := placed_awaitAtomic at_ hplaced2
    cases hloc : acc.isLocal with
    | true =>
      refine ⟨_, hstarts (startAtomic_local at_ hfree hloads hloc hroom), kept_joinAtomic at_ _, ?_⟩
      rw [if_pos rfl]
      exact ⟨_, (congrArg Ctx.pend (me_joinPending _ hplaced3)).trans (congrArg (· ++ [_]) (awaitAtomic_pend at_ hplaced2)), rfl, rfl,
        awaitAtomic_host at_, fun hk => ⟨m2.newId.1, if_neg hk,
          (congrArg (·.ports.lu.tag) (me_joinPending _ hplaced3)).trans ((awaitAtomic_lu at_ hplaced2 hk).trans (if_neg hk))⟩,
        fun hk => if_pos hk⟩
    | false =>
      refine ⟨_, hstarts (startAtomic_host at_ hfree hloads hloc), (kept_awaitAtomic at_).trans (kept_joinHost _ _ _ _), ?_⟩
      rw [if_neg Bool.false_ne_true]
      exact ⟨_, (joinHost_host _ _).trans (congrArg (· ++ [_]) (awaitAtomic_host at_)), rfl, rfl,
        (congrArg Ctx.pend (joinHost_me _ _)).trans (awaitAtomic_pend at_ hplaced2)⟩

/-- Settles O19, clause by clause. -/
theorem loadsStoresAndAtomicsIssue : Obligations.LoadsStoresAndAtomicsIssue := ⟨loadsTakeTheirBytesAndWait, storesAndAtomicsJoinTheirQueue⟩
end

section
/-!
SUPPORT. The decoder undoes the encoder (spec/07_encoding.md R134 to R146), form by form: a packed slot decodes by its fields, and the
fields of a well-formed instruction give it back.
-/

namespace Sys2Proof

open Sys2Proof.Machine (field)

/-! ## Triggers and their codes -/

/-- The law that Laws.TriggerCode states of each constructor holds of every instruction: the code of a trigger gives it back. -/
theorem triggerCode (i : Instr) : Laws.TriggerCode.Statement i := by
  intro d o h
  cases i <;> cases h <;> exact ⟨_, rfl, rfl⟩

section
variable {i : Instr} {d : Nat} {o : TOp} (h : i.trigger = some (d, o))
include h

/-- The destination code of a trigger has nine bits. -/
theorem Instr.trigger_code_lt : d < 512 := by cases i <;> cases h <;> decide

/-- A trigger is well formed where its operand is, which for `cu.loop` is no short immediate (R140). -/
theorem Instr.wf_trigger : i.wf = if d = 0x12D then o.wfLoop else o.wf := by cases i <;> cases h <;> rfl

/-- The word of a trigger. -/
theorem encode_trigger : encode i = some (encodeTrigger d o) := by cases i <;> cases h <;> rfl

end

/-! ## Slots from their fields -/

/-- A packed move or short immediate decodes by its fields. -/
theorem decodeSlot_pack {form : Nat} (g : Option Guard) {s d slices : Nat} (hold rot : Bool) (hf : form < 2) (hs : s < 512) (hd : d < 512)
    (hm : slices < 16) :
    decodeSlot (pack form (guardBits g) s d slices hold rot) = decodeMove (form == 1) g s d slices hold rot := by
  obtain ⟨hform, hge, hgf, hgi, hsrc, hdst, hslices, hhold, hrot⟩ :=
    fields_pack form (guardBits g) s d slices hold rot (by omega) (guardBits_lt g) hs hd hm
  simp only [decodeSlot, hform, hge, hgf, hgi, hsrc, hdst, hslices, hhold, hrot, guardOf_guardBits]
  obtain rfl | rfl : form = 0 ∨ form = 1 := by omega
  · rfl
  · rfl

/-- A destination's slice mask has four bits. -/
theorem Dst.slices_lt (d : Dst) : d.slices < 16 := by
  cases d with
  | g i m => exact m.isLt
  | _ => exact Nat.zero_lt_succ 15

/-- What well-formedness asks for is what the decoder refuses the want of. -/
theorem and_not_of_not_or : ∀ {a b : Bool}, (!a || b) = true → (a && !b) = false := by decide

/-- The fields of a well-formed trigger on a source give it back. -/
theorem decodeMove_trigger_src {d : Nat} {mk : TOp → Instr} {g : Option Guard} {s : Src} {rot : Bool} (hmk : trigOfCode d = some mk)
    (hwf : (!rot || s.isG) = true) : decodeMove false g s.code d 0 false rot = .ok (mk ⟨g, .src s, rot⟩) := by
  simp only [decodeMove, hmk, srcOfCode_code, and_not_of_not_or hwf, ne_eq, not_true_eq_false, Bool.false_eq_true, if_false]

/-- The fields of a well-formed trigger on a short immediate give it back. -/
theorem decodeMove_trigger_imm {d : Nat} {mk : TOp → Instr} {g : Option Guard} (v : BitVec 9) (hmk : trigOfCode d = some mk)
    (hloop : d ≠ 0x12D) : decodeMove true g v.toNat d 0 false false = .ok (mk ⟨g, .imm v, false⟩) := by
  simp [decodeMove, hmk, hloop]

/-! ## The forms -/

/-- The word of a well-formed trigger decodes to it. -/
theorem decodeSlot_encodeTrigger {i : Instr} {d : Nat} {o : TOp} (h : i.trigger = some (d, o)) (hwf : i.wf = true) :
    decodeSlot (encodeTrigger d o) = .ok i := by
  obtain ⟨mk, hmk, rfl⟩ := triggerCode i d o h
  rw [Instr.wf_trigger h] at hwf
  obtain ⟨g, src, rot⟩ := o
  cases src with
  | src s =>
    have hrot : (!rot || s.isG) = true := by
      split at hwf
      · exact hwf
      · exact hwf
    exact (decodeSlot_pack g false rot (by decide) s.code_lt (Instr.trigger_code_lt h) (by decide)).trans (decodeMove_trigger_src hmk hrot)
  | imm v =>
    have hloop : d ≠ 0x12D := fun hd => by rw [if_pos hd] at hwf; cases hwf
    rw [if_neg hloop] at hwf
    obtain rfl : rot = false := (Bool.not_eq_true' rot).mp hwf
    exact (decodeSlot_pack g false false (by decide) v.isLt (Instr.trigger_code_lt h) (by decide)).trans
      (decodeMove_trigger_imm v hmk hloop)

/-- The word of a well-formed move decodes to it. -/
theorem decodeSlot_move (g : Option Guard) (s : Src) (d : Dst) (rot : Bool) (hwf : (Instr.move g s d rot).wf = true) :
    decodeSlot (pack 0 (guardBits g) s.code d.code d.slices d.hold rot) = .ok (.move g s d rot) := by
  rw [decodeSlot_pack g _ _ (by decide) s.code_lt d.code_lt d.slices_lt]
  simp only [Instr.wf, Bool.and_eq_true, Bool.or_assoc] at hwf
  obtain ⟨hrot, href⟩ := hwf
  simp only [decodeMove, trigOfCode_dst, dstOf_code, srcOfCode_code, and_not_of_not_or hrot, and_not_of_not_or href, Nat.reduceBEq,
    Bool.false_eq_true, if_false]

/-- The word of a well-formed short immediate decodes to it. -/
theorem decodeSlot_shortImmediate (g : Option Guard) (v : BitVec 9) (d : Dst) (rot : Bool)
    (hwf : (Instr.shortImmediate g v d rot).wf = true) :
    decodeSlot (pack 1 (guardBits g) v.toNat d.code d.slices d.hold rot) = .ok (.shortImmediate g v d rot) := by
  rw [decodeSlot_pack g _ _ (by decide) v.isLt d.code_lt d.slices_lt]
  simp only [Instr.wf] at hwf
  simp only [decodeMove, trigOfCode_dst, dstOf_code, and_not_of_not_or hwf, Nat.reduceBEq, BitVec.ofNat_toNat, BitVec.setWidth_eq,
    Bool.false_eq_true, if_true, if_false]

/-- The word of a literal decodes to it. -/
theorem decodeSlot_literal (v : BitVec 30) : decodeSlot (BitVec.ofNat 32 (2 * 2 ^ 30 + v.toNat)) = .ok (.literal v) := by
  have hv := v.isLt
  have hw : (BitVec.ofNat 32 (2 * 2 ^ 30 + v.toNat)).toNat = 2 * 2 ^ 30 + v.toNat := by
    rw [BitVec.toNat_ofNat, Nat.mod_eq_of_lt (by omega)]
  have hform : field (2 * 2 ^ 30 + v.toNat) 31 30 = 2 := by simp only [field]; omega
  have hval : field (2 * 2 ^ 30 + v.toNat) 29 0 = v.toNat := by simp only [field]; omega
  simp only [decodeSlot, hw, hform, hval, BitVec.ofNat_toNat, BitVec.setWidth_eq]

/-- Every field of a header reads as what was packed. -/
theorem fields_header {y w p a b c : Nat} (hy : y ≤ 1) (hw : w ≤ 1) (hp : p ≤ 1) (ha : a < 256) (hb : b < 256) (hc : c < 256) :
    let n := (BitVec.ofNat 32 (3 * 2 ^ 30 + y * 2 ^ 29 + w * 2 ^ 28 + p * 2 ^ 27 + a * 2 ^ 16 + b * 2 ^ 8 + c)).toNat
    field n 31 30 = 3 ∧ field n 26 24 = 0 ∧ field n 29 29 = y ∧ field n 28 28 = w ∧ field n 27 27 = p ∧ field n 23 16 = a
      ∧ field n 15 8 = b ∧ field n 7 0 = c := by
  have hn : (BitVec.ofNat 32 (3 * 2 ^ 30 + y * 2 ^ 29 + w * 2 ^ 28 + p * 2 ^ 27 + a * 2 ^ 16 + b * 2 ^ 8 + c)).toNat
      = 3 * 2 ^ 30 + y * 2 ^ 29 + w * 2 ^ 28 + p * 2 ^ 27 + a * 2 ^ 16 + b * 2 ^ 8 + c := by
    rw [BitVec.toNat_ofNat, Nat.mod_eq_of_lt (by omega)]
  simp only [hn, field]
  refine ⟨?_, ?_, ?_, ?_, ?_, ?_, ?_, ?_⟩ <;> omega

/-- The word of a header decodes to it. -/
theorem decodeSlot_header (y w p : Bool) (e3 e2 e1 : Byte) :
    decodeSlot (BitVec.ofNat 32 (3 * 2 ^ 30 + (if y then 2 ^ 29 else 0) + (if w then 2 ^ 28 else 0) + (if p then 2 ^ 27 else 0)
      + e3.toNat * 2 ^ 16 + e2.toNat * 2 ^ 8 + e1.toNat)) = .ok (.header y w p e3 e2 e1) := by
  have hbit (x : Bool) (n : Nat) : (if x then n else 0) = x.toNat * n := by
    cases x with
    | false => exact (Nat.zero_mul n).symm
    | true => exact (Nat.one_mul n).symm
  obtain ⟨hform, hres, hy, hw, hp, h3, h2, h1⟩ := fields_header y.toNat_le w.toNat_le p.toNat_le e3.isLt e2.isLt e1.isLt
  have hb (x : Bool) : (x.toNat == 1) = x := by cases x <;> rfl
  simp only [decodeSlot, hbit, hform, hres, hy, hw, hp, h3, h2, h1, hb, ne_eq, not_true_eq_false, if_false, BitVec.ofNat_toNat,
    BitVec.setWidth_eq]

/-- The word of a well-formed instruction decodes to it. -/
theorem decodeSlot_encode {i : Instr} {w : BitVec 32} (hwf : i.wf = true) (h : encode i = some w) : decodeSlot w = .ok i := by
  cases ht : i.trigger with
  | some p =>
    rw [encode_trigger ht] at h
    cases h
    exact decodeSlot_encodeTrigger ht hwf
  | none =>
    cases i with
    | move g s d rot => cases h; exact decodeSlot_move g s d rot hwf
    | shortImmediate g v d rot => cases h; exact decodeSlot_shortImmediate g v d rot hwf
    | literal v => cases h; exact decodeSlot_literal v
    | header y w p e3 e2 e1 => cases h; exact decodeSlot_header y w p e3 e2 e1
    | _ => cases ht <;> cases h

end Sys2Proof
end

section
/-!
The encoder and the decoder agree (O53), and the words of the encoding tables decode (O52).
-/

open Sys2Proof Sys2Proof.Machine

/-- Settles O53: the decoder undoes each form of the encoder, and each form has a word by its definition. -/
theorem decodeOfEncode : Obligations.DecodeOfEncode :=
  ⟨fun _ _ => decodeSlot_encode, fun _ _ _ h => by rw [encode_trigger h]; rfl, fun _ _ _ _ => rfl, fun _ _ _ _ => rfl, fun _ => rfl,
    fun _ _ _ _ _ _ => rfl⟩

/-- Settles O52: each word of the list, decoded. -/
theorem wordsOfTheTablesDecode : Obligations.WordsOfTheTablesDecode := by
  unfold Obligations.WordsOfTheTablesDecode
  exact ⟨rfl, rfl, rfl, rfl, rfl, rfl, rfl, rfl, rfl, rfl, rfl, rfl, rfl, rfl, rfl⟩
end

section
/-!
SUPPORT. Moves (spec/07_encoding.md R135, R141, R143): a move without a guard reads its source and writes its destination.
-/

namespace Sys2Proof.Machine

/-- A move without a guard whose source reads v writes it where its destination takes it. -/
theorem exec_move_unguarded {s : State} {src : Src} {dst : Dst} {rot : Bool} {v : Val} {m : Mach} (hr : s.mach.issue.ready = none)
    (hsrc : readSrc s.mem s.mach src rot = .ok (v, m)) (hdst : checkDst m.me dst v = .ok ()) :
    exec (.move none src dst rot) s = .next (s.did (m.onMe (·.writeDst dst rot v))) := by
  have hop : operand s.mach none (readSrc s.mem · src rot) = .ok (some (v, m)) := by simp only [operand, hr, hsrc, Ctx.guardHolds, if_true]
  change execMove none src dst rot s = _
  simp only [execMove, hop, hdst, endSlot_ok]

/-- A change of a context that leaves it as it is leaves every context. -/
theorem ctx_onMe_same {m : Mach} (h : m.Placed) {f : Ctx → Ctx} (hf : f m.me = m.me) (d j : Nat) : (m.onMe f).ctx d j = m.ctx d j := by
  by_cases hk : d = m.issue.core ∧ j = m.issue.ctx
  · obtain ⟨rfl, rfl⟩ := hk
    exact (me_onMe f h).trans hf
  · exact ctx_onCtx_other m _ _ d j f (Decidable.not_and_iff_not_or_not.mp hk)

/-- A general register after a move into it with an empty mask: the word in all four slices (R41). -/
theorem writeDst_g_all {x : Ctx} {i : BitVec 6} (w : Word) (hi : i.toNat < x.g.length) :
    (x.writeDst (.g i 0) false (.word w)).g.getD i.toNat ⟨0, 0, 0, 0⟩ = ⟨w, w, w, w⟩ := getD_modifyAt_same _ _ _ _ hi

/-- Every other general register after a move into one. -/
theorem writeDst_g_other {x : Ctx} {i : BitVec 6} (mask : BitVec 4) (v : Val) {j : Nat} (hj : j ≠ i.toNat) :
    (x.writeDst (.g i mask) false v).g.getD j ⟨0, 0, 0, 0⟩ = x.g.getD j ⟨0, 0, 0, 0⟩ := getD_modifyAt_other _ _ _ _ _ hj

end Sys2Proof.Machine
end

section
/-!
The empty slot and the all-zero slot (O48).
-/

open Sys2Proof Sys2Proof.Machine

/-- Settles O48: both slots decode to their moves; the one writes nowhere, the other one register. -/
theorem theEmptySlotHasNoEffect : Obligations.TheEmptySlotHasNoEffect := by
  refine ⟨rfl, rfl, fun s hr hplaced hg hout => ⟨?empty, ?zero⟩⟩
  case empty =>
    exact ⟨_, exec_move_unguarded hr rfl rfl, commit_mem _ _ hout, rfl, ctx_onMe_same hplaced rfl⟩
  case zero =>
    have hme (w : Word) : (s.mach.onMe (·.writeDst (.g 0 0) false (.word w))).me = s.mach.me.writeDst (.g 0 0) false (.word w) :=
      me_onMe _ hplaced
    refine ⟨_, exec_move_unguarded hr rfl rfl, commit_mem _ _ hout, ?_, fun i hi => ?_, fun d j => ctx_onCtx_other _ _ _ d j _⟩
    · exact (congrArg (·.g.getD 0 ⟨0, 0, 0, 0⟩) (hme _)).trans (writeDst_g_all _ (by rw [hg]; decide))
    · exact (congrArg (·.g.getD i ⟨0, 0, 0, 0⟩) (hme _)).trans (writeDst_g_other 0 _ hi)
end

section
/-!
SUPPORT. What every instruction answers (spec/07_encoding.md R144, R148): a slot ends in its effect or in its stop, an event in its state,
and so a bundle's slots together answer a next state too.
-/

namespace Sys2Proof.Machine

/-! ## Instructions -/

/-- Every trigger ends as a slot (R144). -/
theorem exec_trigger {i : Instr} {d : Nat} {o : TOp} (h : i.trigger = some (d, o)) (s : State) : ∃ r, exec i s = endSlot s r := by
  cases i <;> cases h <;> exact ⟨_, rfl⟩

/-- A slot answers a next state. -/
theorem endSlot_answers (s : State) (r : Except Stop Mach) : ∃ u, endSlot s r = .next u :=
  let ⟨_, hm⟩ := endSlot_commits s r
  ⟨_, hm⟩

/-- The end of a check of the firmware answers a next state. -/
theorem execFirmwareCheckComplete_answers (controls : List Word) (s : State) : ∃ u, execFirmwareCheckComplete controls s = .next u := by
  simp only [execFirmwareCheckComplete]
  split
  · exact ⟨_, rfl⟩
  · split <;> exact ⟨_, rfl⟩

/-- A data error answers a next state. -/
theorem execDataError_answers (code core : Nat) (met : ErrAt) (s : State) : ∃ u, execDataError code core met s = .next u := by
  simp only [execDataError]
  split <;> exact ⟨_, rfl⟩

/-- A host access answers a next state or meets a byte that no memory has (log 110). -/
theorem execHostMemoryAccess_answers (key : Nat) (w : HostAccess) (bs : List Byte) (s : State) :
    (∃ u, execHostMemoryAccess key w bs s = .next u) ∨ ∃ k, execHostMemoryAccess key w bs s = .fault (.noSuchMemory k) := by
  simp only [execHostMemoryAccess]
  split
  · exact .inl ⟨_, rfl⟩
  · split
    · exact .inr ⟨_, rfl⟩
    · exact .inl ⟨_, rfl⟩

/-- Every instruction but a host access answers a next state: a trigger ends as a slot, another form of a slot too, and an event in the
state that its definition gives. -/
theorem exec_answers (i : Instr) (s : State) (h : ∀ key w bs, i ≠ .hostMemoryAccess key w bs) : ∃ u, exec i s = .next u := by
  cases ht : i.trigger with
  | some p =>
    obtain ⟨r, hr⟩ := exec_trigger ht s
    rw [hr]
    exact endSlot_answers s _
  | none =>
    cases i with
    | move g src dst rot => exact endSlot_answers s _
    | shortImmediate g v dst rot => exact endSlot_answers s _
    | firmwareCheckComplete controls => exact execFirmwareCheckComplete_answers controls s
    | dataError code core met => exact execDataError_answers code core met s
    | hostMemoryAccess key w bs => exact absurd rfl (h key w bs)
    | _ => cases ht <;> exact ⟨_, rfl⟩

/-- Every scheduled event answers a next state. -/
theorem runEvent_answers (e : Event) (s : State) : ∃ u, runEvent e s = .next u := by
  cases e with
  | firmwareCheckComplete controls => exact execFirmwareCheckComplete_answers controls s
  | _ => exact ⟨_, rfl⟩

/-! ## What decodes is no event -/

/-- The triggers of a table have its codes, in order. -/
theorem trigger_of_getElem? {l : List (TOp → Instr)} {base d : Nat} {mk : TOp → Instr} (o : TOp)
    (hl : l.map (fun mk => (mk o).trigger) = (List.range' base l.length).map fun d => some (d, o)) (hd : base ≤ d)
    (h : l[d - base]? = some mk) : (mk o).trigger = some (d, o) := by
  have hlt : d - base < l.length := (List.getElem?_eq_some_iff.mp h).1
  have hat := congrArg (·[d - base]?) hl
  simp only [List.getElem?_map, h, List.getElem?_range' hlt, Option.map_some, Nat.one_mul, Nat.add_sub_cancel' hd] at hat
  exact Option.some.inj hat

/-- The triggers of a table that begins within its unit's codes have its codes, in order. -/
theorem trigger_of_guarded {l : List (TOp → Instr)} {base d : Nat} {mk : TOp → Instr} (o : TOp)
    (hl : l.map (fun mk => (mk o).trigger) = (List.range' base l.length).map fun d => some (d, o))
    (h : (if d < base then none else l[d - base]?) = some mk) : (mk o).trigger = some (d, o) := by
  split at h
  · cases h
  · next hd => exact trigger_of_getElem? o hl (Nat.le_of_not_lt hd) h

/-- The trigger with a destination code has that code (R145, R146). -/
theorem trigger_of_trigOfCode {d : Nat} {mk : TOp → Instr} (h : trigOfCode d = some mk) (o : TOp) : (mk o).trigger = some (d, o) := by
  simp only [trigOfCode] at h
  split at h
  · cases h
  split at h
  · exact trigger_of_getElem? o rfl (by omega) h
  split at h
  · exact trigger_of_guarded o rfl h
  split at h
  · exact trigger_of_guarded o rfl h
  split at h
  · exact trigger_of_guarded o rfl h
  split at h
  · exact trigger_of_guarded o rfl h
  split at h
  · exact trigger_of_guarded o rfl h
  split at h
  · exact trigger_of_getElem? o rfl (by omega) h
  split at h
  · exact trigger_of_getElem? o rfl (by omega) h
  · exact trigger_of_guarded o rfl h

/-- A check that has not refused has gone on. -/
theorem ok_of_ite_error {ε α : Type} {p : Prop} [Decidable p] {e : ε} {x : Except ε α} {a : α}
    (h : (if p then .error e else x) = .ok a) : x = .ok a := by
  split at h
  · cases h
  · exact h

/-- What the fields of a move or short immediate decode to has a word. -/
theorem encode_of_decodeMove {imm : Bool} {g : Option Guard} {s d slices : Nat} {hold rot : Bool} {i : Instr}
    (h : decodeMove imm g s d slices hold rot = .ok i) : (encode i).isSome = true := by
  simp only [decodeMove] at h
  split at h
  · next mk hmk =>
    have hword (o : TOp) : (encode (mk o)).isSome = true := by rw [encode_trigger (trigger_of_trigOfCode hmk o)]; rfl
    replace h := ok_of_ite_error (ok_of_ite_error h)
    split at h
    · replace h := ok_of_ite_error (ok_of_ite_error h)
      cases h; exact hword _
    · split at h
      · cases h
      · replace h := ok_of_ite_error h
        cases h; exact hword _
  · split at h
    · cases h
    · split at h
      · replace h := ok_of_ite_error h
        cases h; rfl
      · split at h
        · cases h
        · replace h := ok_of_ite_error (ok_of_ite_error h)
          cases h; rfl

/-- What a word decodes to has a word: it is no event. -/
theorem encode_of_decodeSlot {w : BitVec 32} {i : Instr} (h : decodeSlot w = .ok i) : (encode i).isSome = true := by
  simp only [decodeSlot] at h
  split at h
  · cases h; rfl
  · replace h := ok_of_ite_error h
    cases h; rfl
  · split at h
    · cases h
    · exact encode_of_decodeMove h

/-! ## Slots -/

/-- A slot whose instruction has a word, as the slots of a bundle have: it is no event. -/
def Slot.Encoded (sl : Slot) : Prop := (encode sl.instr).isSome = true

/-- An encoded slot answers a next state. -/
theorem Slot.Encoded.answers {sl : Slot} (h : sl.Encoded) (s : State) : ∃ u, exec sl.instr s = .next u :=
  exec_answers sl.instr s fun _ _ _ e => by rw [Slot.Encoded, e] at h; cases h

/-- The slots of a bundle are encoded. -/
theorem moveSlots_encoded {ws : List Cell} {sl : Slot} (h : sl ∈ moveSlots ws) : sl.Encoded := by
  obtain ⟨k, -, hk⟩ := List.mem_filterMap.mp h
  split at hk
  · cases hk
  · cases hk
  · cases hk
  · next hdec => cases hk; exact encode_of_decodeSlot hdec

section
variable (c k : Nat)

/-- Encoded latch moves answer a next state. -/
theorem runLatches_answers (l : List (Slot × Val)) (h : ∀ p ∈ l, p.1.Encoded) (s : State) : ∃ u, runLatches exec c k l s = .next u := by
  induction l generalizing s with
  | nil => exact ⟨s, rfl⟩
  | cons p rest ih =>
    obtain ⟨s', hs'⟩ := (h p List.mem_cons_self).answers { s with mach := s.mach.atSlot c k p.1 (some p.2) }
    simp only [runLatches, hs']
    exact ih (fun q hq => h q (List.mem_cons_of_mem _ hq)) s'

/-- An encoded slot that acts among others answers a next state. -/
theorem runSlot_answers {sl : Slot} (h : sl.Encoded) (n : Nat × Nat × Nat) (v : Val) (s : State) :
    ∃ u, runSlot exec c k n sl v s = .next u := by
  simp only [runSlot]
  split
  · exact h.answers _
  · obtain ⟨s', hs'⟩ := h.answers { s with mach := (s.mach.hide c k n).atSlot c k sl (some v) }
    simp only [hs']
    exact ⟨_, rfl⟩

/-- Encoded slots that take effect answer a next state. -/
theorem runSlots_answers {n : Nat × Nat × Nat} {o : Out} (l : List (Slot × Val)) (h : ∀ p ∈ l, p.1.Encoded) (s : State)
    (ho : runSlots exec c k n l s = .ok o) : ∃ u, o = .next u := by
  induction l generalizing s with
  | nil => cases ho; exact ⟨s, rfl⟩
  | cons p rest ih =>
    obtain ⟨s', hs'⟩ := runSlot_answers c k (h p List.mem_cons_self) n p.2 s
    simp only [runSlots, hs'] at ho
    split at ho
    · cases ho
    · exact ih (fun q hq => h q (List.mem_cons_of_mem _ hq)) s' ho

/-- What slots have read belongs to them or had been read before. -/
theorem mem_readSlots_vals {mem : Memory} {m0 : Mach} (slots : List Slot) (r : Reads) {p : Slot × Val}
    (h : p ∈ (readSlots mem m0 c k slots r).vals) : p ∈ r.vals ∨ p.1 ∈ slots := by
  induction slots generalizing r with
  | nil => exact .inl h
  | cons sl rest ih =>
    simp only [readSlots] at h
    split at h
    · rcases ih _ h with hold | hrest
      · rcases List.mem_append.mp hold with hold | hnew
        · exact .inl hold
        · exact .inr (by rw [List.mem_singleton.mp hnew]; exact List.mem_cons_self)
      · exact .inr (List.mem_cons_of_mem _ hrest)
    · exact (ih _ h).imp_right (List.mem_cons_of_mem _)
    · exact (ih _ h).imp_right (List.mem_cons_of_mem _)

/-- What a bundle has read belongs to its slots. -/
theorem mem_readAll_vals {s : State} {slots : List Slot} {p : Slot × Val} (h : p ∈ (readAll s c k slots).vals) : p.1 ∈ slots :=
  (mem_readSlots_vals c k _ _ h).elim (fun h => absurd h List.not_mem_nil) fun h => (List.mem_filter.mp h).1

/-- Moves that determine their destination are moves. -/
theorem effectiveMoves_subset (l : List (Slot × Val)) : effectiveMoves l ⊆ l := by
  induction l with
  | nil => exact fun _ h => h
  | cons p rest ih =>
    simp only [effectiveMoves]
    split
    · exact fun q hq => List.mem_cons_of_mem _ (ih hq)
    · exact List.cons_subset_cons p ih

/-- The order in which slots act names none but them. -/
theorem inOrder_subset (l : List (Slot × Val)) : inOrder l ⊆ l := by
  intro p hp
  simp only [inOrder, List.mem_append, List.mem_filter] at hp
  rcases hp with (((hp | hp) | hp) | hp) | hp
  · exact hp.1.1.1
  · exact hp.1.1.1
  · exact (List.mem_filter.mp (effectiveMoves_subset _ hp)).1
  · exact hp.1.1
  · exact hp.1

/-- Encoded slots that issue answer a next state. -/
theorem issueSlots_answers {s : State} {slots : List Slot} {o : Out} (h : ∀ sl ∈ slots, sl.Encoded)
    (ho : issueSlots exec s c k slots = .ok o) : ∃ u, o = .next u := by
  have hread (p : Slot × Val) (hp : p ∈ (readAll s c k slots).vals) : p.1.Encoded := h _ (mem_readAll_vals c k hp)
  obtain ⟨s1, hs1⟩ := runLatches_answers c k ((readAll s c k slots).vals.filter (·.1.isLatchMove))
    (fun p hp => hread p (List.mem_filter.mp hp).1) { s with mach := (readAll s c k slots).mach }
  simp only [issueSlots, hs1] at ho
  split at ho
  · cases ho
  · exact runSlots_answers c k _ (fun p hp => hread p (inOrder_subset _ hp)) s1 ho

/-- The slots still to act of encoded ones are encoded. -/
theorem toAct_encoded {x : Ctx} {slots : List Slot} (h : ∀ sl ∈ slots, sl.Encoded) : ∀ sl ∈ toAct x slots, sl.Encoded := by
  intro sl hsl
  simp only [toAct] at hsl
  split at hsl
  · obtain ⟨q, hq, rfl⟩ := List.mem_map.mp hsl
    split
    · rfl
    · exact h q (List.mem_filter.mp hq).1
  · exact h sl hsl

/-- Encoded slots that issue together answer a next state. -/
theorem issueTogether_answers {s : State} {slots : List Slot} {o : Out} (h : ∀ sl ∈ slots, sl.Encoded)
    (ho : issueTogether exec s c k slots = .ok o) : ∃ u, o = .next u := by
  have hact := toAct_encoded (x := s.mach.ctx c k) h
  simp only [issueTogether] at ho
  split at ho
  · next hissue => cases ho; exact issueSlots_answers c k hact hissue
  · split at ho
    · split at ho
      · cases ho; exact ⟨_, rfl⟩
      · next hissue => cases ho; exact issueSlots_answers c k (fun sl hsl => hact sl (List.mem_filter.mp hsl).1) hissue
      · cases ho
    · cases ho

/-! ## Bundles -/

/-- Two branches that answer a next state. -/
theorem ite_answers {p : Prop} [Decidable p] {a b : Out} (ha : ∃ u, a = .next u) (hb : ∃ u, b = .next u) :
    ∃ u, (if p then a else b) = .next u := by split <;> assumption

/-- A bundle that retires answers a next state: its header is a slot. -/
theorem retireBundle_answers (s : State) (ws : List Cell) : ∃ u, retireBundle exec s c k ws = .next u := by
  simp only [retireBundle]
  split
  · exact ⟨_, rfl⟩
  · next hno =>
    exfalso
    revert hno
    split
    · next y w p e3 e2 e1 _ =>
      intro hno
      obtain ⟨s', hs'⟩ := exec_answers (.header y w p e3 e2 e1)
        { s with mach := { s.mach with issue := { s.mach.issue with slot := 0 } } } nofun
      exact hno s' hs'
    · exact fun hno => hno _ rfl

/-- An ordinary bundle answers a next state. -/
theorem issueOrdinary_answers (s : State) (ws : List Cell) : ∃ u, issueOrdinary exec s c k ws = .next u := by
  simp only [issueOrdinary]
  split
  · exact ⟨_, rfl⟩
  · exact retireBundle_answers c k _ ws
  · next hissue => exact issueTogether_answers c k (fun _ => moveSlots_encoded) hissue

/-- The slots of a wait bundle that can issue now are encoded. -/
theorem ableSlots_encoded {x : Ctx} {ws : List Cell} {sl : Slot} (h : sl ∈ ableSlots x ws) : sl.Encoded :=
  moveSlots_encoded (List.mem_filter.mp h).1

/-- A set of slots chosen among some holds none but them. -/
theorem subset_of_mem_slotSets {slots l : List Slot} (h : l ∈ slotSets slots) : l ⊆ slots := by
  induction slots generalizing l with
  | nil => rw [List.mem_singleton.mp h]; exact List.Subset.refl _
  | cons sl rest ih =>
    rcases List.mem_append.mp h with h | h
    · obtain ⟨q, hq, rfl⟩ := List.mem_map.mp h
      exact List.cons_subset_cons sl (ih hq)
    · exact fun q hq => List.mem_cons_of_mem _ (ih h hq)

/-- The slots of a wait bundle that can issue are among the able ones. -/
theorem freeSlots_subset (s : State) (able : List Slot) : (freeSlots exec s c k able).1 ⊆ able := by
  simp only [freeSlots]
  cases hfind : (slotSets able).find? (canIssue exec s c k) with
  | none => exact List.nil_subset _
  | some l => exact subset_of_mem_slotSets (List.mem_of_find?_eq_some hfind)

/-- What the able slots of a wait bundle do answers a next state. -/
theorem tryWait_answers (s : State) {able : List Slot} (h : ∀ sl ∈ able, sl.Encoded) : ∃ u, (tryWait exec s c k able).1 = .next u := by
  simp only [tryWait]
  split
  · next hissue => exact issueTogether_answers c k h hissue
  · exact ⟨_, rfl⟩
  · split
    · exact ⟨_, rfl⟩
    · split
      · next hissue => exact issueTogether_answers c k (fun sl hsl => h sl (freeSlots_subset c k s able hsl)) hissue
      · exact ⟨_, rfl⟩

/-- A wait bundle answers a next state. -/
theorem issueWait_answers (s : State) (ws : List Cell) : ∃ u, issueWait exec s c k ws = .next u := by
  simp only [issueWait]
  split
  · next stops _ =>
    cases trapAmong stops with
    | some t => exact ⟨_, rfl⟩
    | none => exact ite_answers (retireBundle_answers c k _ ws) ⟨_, rfl⟩
  · next htry =>
    exact (tryWait_answers c k _ fun _ => ableSlots_encoded).imp fun _ hu => (congrArg Prod.fst htry).symm.trans hu

/-- A bundle answers a next state. -/
theorem runBundle_answers (s : State) (ws : List Cell) : ∃ u, runBundle exec s c k ws = .next u := by
  simp only [runBundle]
  split
  · exact ⟨_, rfl⟩
  · split
    · exact issueWait_answers c k s ws
    · exact issueOrdinary_answers c k s ws

/-- The next bundle of a context answers a next state. -/
theorem issueBundle_answers (s : State) : ∃ u, issueBundle exec s c k = .next u := by
  simp only [issueBundle]
  split
  · exact ⟨_, rfl⟩
  · split
    · exact ⟨_, rfl⟩
    · split
      · exact ⟨_, rfl⟩
      · split
        · exact ⟨_, rfl⟩
        · exact runBundle_answers c k _ _

/-- A run of a core answers a next state. -/
theorem issueRun_answers (s : State) (level : Option Nat) : ∃ u, issueRun exec s c k level = .next u :=
  ite_answers (issueBundle_answers c k _) ⟨_, rfl⟩

end

/-! ## Steps -/

/-- The next bundle of the cycle, or the clock edge, answers a next state. -/
theorem issueNext_answers (s : State) : ∃ u, issueNext s = .next u := by
  simp only [issueNext]
  split
  · split
    · exact issueRun_answers _ _ s _
    · exact ⟨_, rfl⟩
  · exact ⟨_, rfl⟩

/-- What follows an event that has answered a next state answers one too. -/
theorem afterEvent_answers (s : State) : ∃ u, afterEvent (.next s) = .next u := by
  simp only [afterEvent]
  split
  · exact issueBundle_answers _ _ _
  · exact ⟨_, rfl⟩

/-- Every step answers a next state. -/
theorem step_answers (s : State) : ∃ u, step s = .next u := by
  simp only [step]
  split
  · split
    · next t e rest _ _ =>
      obtain ⟨s', hs'⟩ := runEvent_answers e { s with mach := { s.mach with agenda := rest } }
      rw [hs']
      exact afterEvent_answers s'
    · exact issueNext_answers s
  · exact issueNext_answers s

end Sys2Proof.Machine
end

section
/-!
Every step answers a next state (O58).
-/

open Sys2Proof Sys2Proof.Machine

/-- Settles O58: an instruction by its form, a host access by the bytes that it names, a step by what it runs. -/
theorem everyStepAnswersANextState : Obligations.EveryStepAnswersANextState :=
  ⟨exec_answers, execHostMemoryAccess_answers, step_answers⟩
end
